-- ==== Sys2Proof/Word.lean ====
section
/-!
DEFINITION. Sys2Proof/Word.lean: the word types of the OV9. Memory is little-endian and bit 0 is the least significant bit
(rule R8).
-/

namespace Sys2Proof

abbrev Byte := BitVec 8
abbrev Half := BitVec 16
abbrev Word := BitVec 32
abbrev DWord := BitVec 64

/-- A set of the 32 lanes of a wave, bit l for lane l (rule R11). -/
abbrev LaneMask := BitVec 32

/-- The 24-bit mode image (rule R133). -/
abbrev ModeImage := BitVec 24

end Sys2Proof
end

