-- ==== Sys2Proof/Machine/Bits.lean ====
section
/-!
DEFINITION. Sys2Proof/Machine/Bits.lean: byte order, bit fields, sign extension and lane sets: the small conversions that the
rest of the machine is written with. Memory is little-endian and bit 0 is the least significant (R8).
-/

namespace Sys2Proof.Machine

open Sys2Proof

/-- The n low bytes of a number, lowest first. -/
def natBytes : Nat → Nat → List Byte
  | 0, _ => []
  | n + 1, x => BitVec.ofNat 8 x :: natBytes n (x / 256)

/-- The number that bytes hold, lowest first. -/
def bytesNat : List Byte → Nat
  | [] => 0
  | b :: r => b.toNat + 256 * bytesNat r

/-- Bits [lo + n - 1 : lo] of a number. -/
def bitsOf (x lo n : Nat) : Nat := x / 2 ^ lo % 2 ^ n

/-- Bit i of a number. -/
def bitOf (x i : Nat) : Bool := bitsOf x i 1 == 1

/-- The number that a two's complement field of n bits holds. -/
def signedOf (n x : Nat) : Int := if x < 2 ^ (n - 1) then (x : Int) else (x : Int) - 2 ^ n

/-- The low n bits of an integer. -/
def wrapBits (n : Nat) (x : Int) : Nat := (x % (2 ^ n : Int)).toNat

/-- A 32-bit offset extended by its sign and added to a 64-bit base, modulo 2^64 (R180). -/
def addOffset (base : DWord) (off : Word) : DWord := base + off.signExtend 64

/-- The lanes of a set, ascending. -/
def lanesOf (m : LaneMask) : List Nat := (List.range 32).filter fun l => m.getLsbD l

/-- The set of the lanes for which p holds. -/
def laneSet (p : Nat → Bool) : LaneMask :=
  (List.range 32).foldl (fun m l => if p l then m ||| (1#32 <<< l) else m) 0#32

/-- The set of one lane. -/
def laneBit (l : Nat) : LaneMask := 1#32 <<< l

/-- The lowest lane of a set (λ of R161). -/
def lowestLane (m : LaneMask) : Nat := (lanesOf m).headD 0

/-- The set of the lanes below n. -/
def lanesBelow (n : Nat) : LaneMask := laneSet fun l => l < n

/-- Round up to a multiple. -/
def roundUp (x m : Nat) : Nat := (x + m - 1) / m * m

/-- Division rounding up. -/
def ceilDiv (x m : Nat) : Nat := (x + m - 1) / m

/-- Replace the first element of a list that satisfies p. -/
def replaceFirst {α : Type} (p : α → Bool) (y : α) : List α → List α
  | [] => []
  | x :: r => if p x then y :: r else x :: replaceFirst p y r

/-- Change the element at an index. -/
def modifyAt {α : Type} (f : α → α) : Nat → List α → List α
  | _, [] => []
  | 0, x :: r => f x :: r
  | n + 1, x :: r => x :: modifyAt f n r

/-- Add to a list without repeats. -/
def insertNew {α : Type} [DecidableEq α] (x : α) (l : List α) : List α := if x ∈ l then l else l ++ [x]

/-- Insert into a rising list without repeats. -/
def insertSorted (x : Nat) : List Nat → List Nat
  | [] => [x]
  | y :: r => if x < y then x :: y :: r else if x = y then y :: r else y :: insertSorted x r

end Sys2Proof.Machine
end

