-- ==== Sys2Proof/Config.lean ====
section
/-!
DEFINITION. Sys2Proof/Config.lean: what is fixed for one device, and the free values. A free value is a constant with no
body: nothing can evaluate it, so a claim about the model holds whatever it is. Each is applied to a counter of the state
(a fresh value each time) or to the operands it depends on.
-/

namespace Sys2Proof.Config

/-- A choice between two allowed outcomes (R126, R137, R158, R390): applied to the counter of the state and to the place
(register, lane, byte) the choice is made for. -/
opaque freeChoice : Nat → Nat → Bool

/-- A byte that nothing constrains (R238, R244): applied to the counter of the state and to its address. -/
opaque freeByte : Nat → Nat → BitVec 8

/-- A 32-bit value that nothing constrains: applied to the counter of the state and to the place it is read for. -/
opaque freeWord : Nat → Nat → BitVec 32

/-- A number that nothing constrains, for instance which of the allowed orders of two racing requests is taken. -/
opaque freeNat : Nat → Nat → Nat

/-- What a core returns for an approximate function (R170), before the bounds are looked at: function, `ftz`, f32 input. The same bits
on every run and on every core. -/
opaque approx : Nat → Bool → BitVec 32 → BitVec 32

/-- The clk from a moment to the next latch point of a display head (R348, R350): head, moment. The frame and line times of a head are
outside the rules. -/
opaque latchAfter : Nat → Nat → Nat

/-- Whether a slab whose entry or exit is not a number counts as all of t (R264): bounds, origin and direction of the slab as f32 bits. -/
opaque slabCorner : Nat → Bool

/-- What a triangle gives to a ray when one of their coordinates is not finite (R264): a miss, or t, u and v. Applied to the ray's six
and the triangle's nine words. -/
opaque triangleCorner : Nat → Option (BitVec 32 × BitVec 32 × BitVec 32)

/-- A channel of a texture sample at an infinite coordinate (R267): the channel, the lane's source words. -/
opaque texelCorner : Nat → Nat → BitVec 32

/-- SHA3-512 of a list of bytes (R449 to R451). The rules name the function and do not give it. -/
opaque sha3 : List (BitVec 8) → BitVec 512

/-- Of a firmware image, by its number: the digest of its bytes, whether its signature verifies against the fused key, its security version
(R449). -/
opaque imageDigest : Nat → BitVec 512
opaque imageVerifies : Nat → Bool
opaque imageVersion : Nat → Nat

/-- Of a firmware image for a compute die: the address of its first comb ÷ 32, its length ÷ 32, the code offset at which its waves start,
its register window ÷ 8, its waves (R380, R400). The rules do not give an image's contents. -/
opaque imageStart : Nat → Nat → Nat

/-- The fused security counter (R449). -/
opaque fusedVersion : Nat

/-- The device identity public key, and the ML-DSA-87 signature of a digest under it (R451). -/
opaque identityKey : Nat
opaque identitySignature : BitVec 512 → Nat

/-- The system address at which the host places BAR0 (R430). -/
opaque bar0Base : Nat

/-- The system address at which the host places BAR2, the card's memory (R417, R430). -/
opaque bar2Base : Nat

/-- Whether the host port has negotiated CXL (R431). -/
opaque cxl : Bool

/-- The address of the descriptor of Kamvin's standard handler (R358, R360): a die whose `trapbase` names it takes the standard actions. -/
opaque standardHandler : BitVec 64

/-- Compute dies, cores of a die, hives of a die, group slots and wave slots of a core (R1, R3, R11). -/
def dies : Nat := 4
def coresPerDie : Nat := 24
def coresPerHive : Nat := 4
def groupSlots : Nat := 16
def wavesPerCore : Nat := 48

/-- Bytes of GDDR 7 of one card: the OV9-M96W, 96 GB, decimal (R7, R10). -/
def cardBytes : Nat := 96000000000

/-- Wilevo Link ports of the OV9-M96W (R7). -/
def linkPorts : Nat := 4

end Sys2Proof.Config
end

