-- ==== Sys2Proof/Machine/Tab.lean ====
section
/-!
DEFINITION. Sys2Proof/Machine/Tab.lean: a sparse table as plain data: a list of (key, value) pairs with keys strictly rising.
Every table of the state (memory, registers, scratch, groups, lines) is one. `get` and `put` take the value that an unlisted
key stands for; `put` of that value removes the entry, so equal tables are equal lists.
-/

namespace Sys2Proof.Machine

/-- A sparse table: keys strictly rising. -/
abbrev Tab (α : Type) := List (Nat × α)

namespace Tab

/-- The entry at key k, if the table lists one. -/
def find? {α : Type} : Tab α → Nat → Option α
  | [], _ => none
  | (a, x) :: t, k => if a = k then some x else find? t k

/-- The table with x at key k. -/
def set {α : Type} : Tab α → Nat → α → Tab α
  | [], k, x => [(k, x)]
  | (a, y) :: t, k, x => if k < a then (k, x) :: (a, y) :: t else if a = k then (k, x) :: t else (a, y) :: set t k x

/-- The table without an entry at key k. -/
def erase {α : Type} : Tab α → Nat → Tab α
  | [], _ => []
  | (a, y) :: t, k => if a = k then erase t k else (a, y) :: erase t k

/-- The value at key k, where an unlisted key stands for d. -/
def get {α : Type} (d : α) (t : Tab α) (k : Nat) : α := (find? t k).getD d

/-- The table that reads x at key k, in canonical form. -/
def put {α : Type} [DecidableEq α] (d : α) (t : Tab α) (k : Nat) (x : α) : Tab α := if x = d then erase t k else set t k x

/-- Keys strictly rising, all above b. -/
def sortedFrom {α : Type} : Nat → Tab α → Bool
  | _, [] => true
  | b, (a, _) :: t => b ≤ a && sortedFrom (a + 1) t

/-- The canonical form: keys strictly rising and no entry equal to the default. -/
def wf {α : Type} [DecidableEq α] (d : α) (t : Tab α) : Bool := sortedFrom 0 t && t.all fun p => !decide (p.2 = d)

/-- Every value changed, with its key at hand. -/
def mapVals {α : Type} (f : Nat → α → α) : Tab α → Tab α
  | [] => []
  | (k, x) :: t => (k, f k x) :: mapVals f t

/-- The entries that satisfy p. -/
def keep {α : Type} (p : Nat → α → Bool) : Tab α → Tab α
  | [] => []
  | (k, x) :: t => if p k x then (k, x) :: keep p t else keep p t

/-- The keys of the entries that satisfy p, ascending. -/
def keysWhere {α : Type} (p : Nat → α → Bool) : Tab α → List Nat
  | [] => []
  | (k, x) :: t => if p k x then k :: keysWhere p t else keysWhere p t

/-- Several writes, in order. -/
def putAll {α : Type} [DecidableEq α] (d : α) (t : Tab α) : List (Nat × α) → Tab α
  | [] => t
  | (k, x) :: r => putAll d (put d t k x) r

end Tab

end Sys2Proof.Machine
end

