-- ==== Sys2Proof/Syntax.lean ====
section
/-!
DEFINITION. Sys2Proof/Syntax.lean: what the machine can do, as syntax. A register operand is already turned into the
register it names (rule R129); a predicate field and a selector keep their 8 bits, because a value above their limit is an
operand fault of the instruction and not another instruction (rules R129, R138). `Instr` has one constructor for each row
of the opcode table: 191 instruction words and 102 steps that the device takes of its own.
-/

namespace Sys2Proof

/-- The register an 8-bit register field names (rule R129). -/
inductive Reg where
  | v (n : Fin 192)
  | k (n : Fin 32)
  | c (n : Fin 32)
deriving DecidableEq, Repr

/-- A field that names a predicate: 0 to 7 for q0 to q7 (rule R129). -/
abbrev PredField := BitVec 8

/-- A field that holds a number whose limit the instruction's entry states (rule R129). -/
abbrev Selector := BitVec 8

/-- Every row of the opcode table: 191 instruction words (rule R135), whose comment begins with the opcode, and 102 steps of the
device. Those without operands stand last. -/
inductive Instr where
  /-- 0x01 MODE (R133). -/
  | mode (image : BitVec 24)
  /-- 0x02 LDLIT (R141). -/
  | ldlit (d : Reg)
  /-- 0x03 BRA (R31). -/
  | bra (disp : BitVec 24)
  /-- 0x04 BRX (R142). -/
  | brx (a : Reg)
  /-- 0x05 CALL (R143). -/
  | call (disp : BitVec 24)
  /-- 0x0A SLEEPUNTIL (R147). -/
  | sleepuntil (a : Reg)
  /-- 0x0B MARK (R149). -/
  | mark (id : BitVec 24)
  /-- 0x0C IDEM (R150). -/
  | idem (id : BitVec 24)
  /-- 0x0E TRAP (R152). -/
  | trap (b : Selector)
  /-- 0x10 IADD (R153). -/
  | iadd (d a b : Reg)
  /-- 0x11 ISUB (R153). -/
  | isub (d a b : Reg)
  /-- 0x12 IMUL (R153). -/
  | imul (d a b : Reg)
  /-- 0x13 IMULHI (R153). -/
  | imulhi (d a b : Reg)
  /-- 0x14 NMULHI (R153). -/
  | nmulhi (d a b : Reg)
  /-- 0x15 IMAD (R153). -/
  | imad (d a b : Reg)
  /-- 0x16 SHL (R153). -/
  | shl (d a b : Reg)
  /-- 0x17 SHR (R153). -/
  | shr (d a b : Reg)
  /-- 0x18 SAR (R153). -/
  | sar (d a b : Reg)
  /-- 0x19 AND (R153). -/
  | andW (d a b : Reg)
  /-- 0x1A OR (R153). -/
  | orW (d a b : Reg)
  /-- 0x1B XOR (R153). -/
  | xorW (d a b : Reg)
  /-- 0x1C IMIN (R153). -/
  | imin (d a b : Reg)
  /-- 0x1D IMAX (R153). -/
  | imax (d a b : Reg)
  /-- 0x1E NMIN (R153). -/
  | nmin (d a b : Reg)
  /-- 0x1F NMAX (R153). -/
  | nmax (d a b : Reg)
  /-- 0x20 POPC (R154). -/
  | popc (d a : Reg)
  /-- 0x21 CLZ (R154). -/
  | clz (d a : Reg)
  /-- 0x22 BREV (R154). -/
  | brev (d a : Reg)
  /-- 0x23 BFX (R155). -/
  | bfx (d a b : Reg)
  /-- 0x24 BFI (R155). -/
  | bfi (d a b : Reg)
  /-- 0x25 ADD64 (R154). -/
  | add64 (d a b : Reg)
  /-- 0x26 SUB64 (R154). -/
  | sub64 (d a b : Reg)
  /-- 0x27 MAD64 (R154). -/
  | mad64 (d a b : Reg)
  /-- 0x28 SEL (R157). -/
  | sel (d a b : Reg)
  /-- 0x29 MOV (R157). -/
  | mov (d a : Reg)
  /-- 0x2A MOVU (R157). -/
  | movu (d a b : Reg)
  /-- 0x2B SHUF (R157). -/
  | shuf (d a b : Reg)
  /-- 0x2C SHUFX (R157). -/
  | shufx (d a b : Reg)
  /-- 0x2D BALLOT (R157). -/
  | ballot (d a : Reg)
  /-- 0x2E VANY (R157). -/
  | vany (d : PredField) (a : Reg)
  /-- 0x2F VALL (R157). -/
  | vall (d : PredField) (a : Reg)
  /-- 0x30 ICMPEQ (R159). -/
  | icmpeq (d : PredField) (a b : Reg)
  /-- 0x31 ICMPNE (R159). -/
  | icmpne (d : PredField) (a b : Reg)
  /-- 0x32 ICMPLT (R159). -/
  | icmplt (d : PredField) (a b : Reg)
  /-- 0x33 ICMPLE (R159). -/
  | icmple (d : PredField) (a b : Reg)
  /-- 0x34 NCMPLT (R159). -/
  | ncmplt (d : PredField) (a b : Reg)
  /-- 0x35 NCMPLE (R159). -/
  | ncmple (d : PredField) (a b : Reg)
  /-- 0x36 CMPEQ (R160). -/
  | cmpeq (d : PredField) (a b : Reg)
  /-- 0x37 CMPNE (R160). -/
  | cmpne (d : PredField) (a b : Reg)
  /-- 0x38 CMPLT (R160). -/
  | cmplt (d : PredField) (a b : Reg)
  /-- 0x39 CMPLE (R160). -/
  | cmple (d : PredField) (a b : Reg)
  /-- 0x3A CMPUN (R160). -/
  | cmpun (d : PredField) (a b : Reg)
  /-- 0x3B QAND (R159). -/
  | qand (d a b : PredField)
  /-- 0x3C QOR (R159). -/
  | qor (d a b : PredField)
  /-- 0x3D QXOR (R159). -/
  | qxor (d a b : PredField)
  /-- 0x3E QTOV (R159). -/
  | qtov (d : Reg) (a : PredField)
  /-- 0x3F VTOQ (R159). -/
  | vtoq (d : PredField) (a : Reg)
  /-- 0x40 ADD (R166). -/
  | addT (d a b : Reg)
  /-- 0x41 SUB (R166). -/
  | subT (d a b : Reg)
  /-- 0x42 MUL (R166). -/
  | mulT (d a b : Reg)
  /-- 0x43 FMA (R166). -/
  | fma (d a b : Reg)
  /-- 0x44 FMS (R166). -/
  | fms (d a b : Reg)
  /-- 0x45 FNMA (R166). -/
  | fnma (d a b : Reg)
  /-- 0x46 MIN (R167). -/
  | minT (d a b : Reg)
  /-- 0x47 MAX (R167). -/
  | maxT (d a b : Reg)
  /-- 0x48 ABS (R168). -/
  | absT (d a : Reg)
  /-- 0x49 NEG (R168). -/
  | negT (d a : Reg)
  /-- 0x4A CLAMP (R167). -/
  | clamp (d a b : Reg)
  /-- 0x4B DIV (R169). -/
  | divT (d a b : Reg)
  /-- 0x4C SQRT (R169). -/
  | sqrt (d a : Reg)
  /-- 0x4D RCP (R170). -/
  | rcp (d a : Reg)
  /-- 0x4E RSQ (R170). -/
  | rsq (d a : Reg)
  /-- 0x4F EXP2 (R170). -/
  | exp2 (d a : Reg)
  /-- 0x50 LOG2 (R170). -/
  | log2 (d a : Reg)
  /-- 0x51 SINPI (R170). -/
  | sinpi (d a : Reg)
  /-- 0x52 COSPI (R170). -/
  | cospi (d a : Reg)
  /-- 0x53 FRACT (R172). -/
  | fract (d a : Reg)
  /-- 0x54 FLOOR (R172). -/
  | floor (d a : Reg)
  /-- 0x55 CEIL (R172). -/
  | ceil (d a : Reg)
  /-- 0x56 TRUNC (R172). -/
  | trunc (d a : Reg)
  /-- 0x57 RINT (R172). -/
  | rint (d a : Reg)
  /-- 0x58 CVT (R173). -/
  | cvt (d a : Reg) (b : Selector)
  /-- 0x59 PACK (R174). -/
  | pack (d a b : Reg)
  /-- 0x5A UNPACKLO (R175). -/
  | unpacklo (d a : Reg)
  /-- 0x5B UNPACKHI (R175). -/
  | unpackhi (d a : Reg)
  /-- 0x5C DOT2 (R176). -/
  | dot2 (d a b : Reg)
  /-- 0x5D DOT4 (R177). -/
  | dot4 (d a b : Reg)
  /-- 0x5E SCALEB (R178). -/
  | scaleb (d a b : Reg)
  /-- 0x5F CLASS (R179). -/
  | classT (d a : Reg)
  /-- 0x60 LD8 (R184). -/
  | ld8 (d a b : Reg)
  /-- 0x61 LD8S (R184). -/
  | ld8s (d a b : Reg)
  /-- 0x62 LD16 (R184). -/
  | ld16 (d a b : Reg)
  /-- 0x63 LD16S (R184). -/
  | ld16s (d a b : Reg)
  /-- 0x64 LD32 (R184). -/
  | ld32 (d a b : Reg)
  /-- 0x65 LD64 (R184). -/
  | ld64 (d a b : Reg)
  /-- 0x66 LD128 (R184). -/
  | ld128 (d a b : Reg)
  /-- 0x67 LDA32 (R186). -/
  | lda32 (d a b : Reg)
  /-- 0x68 LDA64 (R186). -/
  | lda64 (d a b : Reg)
  /-- 0x69 ST8 (R184). -/
  | st8 (d a b : Reg)
  /-- 0x6A ST16 (R184). -/
  | st16 (d a b : Reg)
  /-- 0x6B ST32 (R184). -/
  | st32 (d a b : Reg)
  /-- 0x6C ST64 (R184). -/
  | st64 (d a b : Reg)
  /-- 0x6D ST128 (R184). -/
  | st128 (d a b : Reg)
  /-- 0x6E STR32 (R186). -/
  | str32 (d a b : Reg)
  /-- 0x6F STR64 (R186). -/
  | str64 (d a b : Reg)
  /-- 0x70 FENCE (R188). -/
  | fence (d a b : Selector)
  /-- 0x71 AADD (R192). -/
  | aadd (d a b : Reg)
  /-- 0x72 AMIN (R192). -/
  | amin (d a b : Reg)
  /-- 0x73 AMAX (R192). -/
  | amax (d a b : Reg)
  /-- 0x74 AAND (R192). -/
  | aand (d a b : Reg)
  /-- 0x75 AOR (R192). -/
  | aor (d a b : Reg)
  /-- 0x76 AXOR (R192). -/
  | axor (d a b : Reg)
  /-- 0x77 AXCHG (R192). -/
  | axchg (d a b : Reg)
  /-- 0x78 ACAS (R192). -/
  | acas (d a b : Reg)
  /-- 0x79 AINC (R192). -/
  | ainc (d a b : Reg)
  /-- 0x7A CAP (R195). -/
  | cap (d a : Reg) (b : Selector)
  /-- 0x7B UNCAP (R197). -/
  | uncap (d a : Reg)
  /-- 0x7C PREF (R199). -/
  | pref (a : Reg)
  /-- 0x7D WBL (R199). -/
  | wbl (a : Reg)
  /-- 0x7E DROPL (R199). -/
  | dropl (a : Reg)
  /-- 0x80 TRY (R203). -/
  | tryT (lane : Bool) (disp : BitVec 23)
  /-- 0x82 TABORT (R214). -/
  | tabort (b : Selector)
  /-- 0x83 TSTAT (R213). -/
  | tstat (d : Reg)
  /-- 0x84 TADDR (R213). -/
  | taddr (d : Reg)
  /-- 0x85 BARW (R218). -/
  | barw (b : Selector)
  /-- 0x86 BARA (R218). -/
  | bara (d : Reg) (b : Selector)
  /-- 0x87 BARWT (R218). -/
  | barwt (a : Selector) (b : Reg)
  /-- 0x88 BARX (R218). -/
  | barx (a : Selector) (b : Reg)
  /-- 0x89 TREDADD (R220). -/
  | tredadd (d a : Reg) (b : Selector)
  /-- 0x8A TREDMIN (R220). -/
  | tredmin (d a : Reg) (b : Selector)
  /-- 0x8B TREDMAX (R220). -/
  | tredmax (d a : Reg) (b : Selector)
  /-- 0x8C GROW (R222). -/
  | grow (b : Selector)
  /-- 0x8D SHRINK (R223). -/
  | shrink (b : Selector)
  /-- 0x8F WAITC (R225). -/
  | waitc (a b : Selector)
  /-- 0x90 LDF32 (R226). -/
  | ldf32 (d a b : Reg)
  /-- 0x91 FCOMMIT (R227). -/
  | fcommit (d a : Reg)
  /-- 0x92 FSQUASH (R228). -/
  | fsquash (d a : Reg)
  /-- 0x93 FSTATE (R229). -/
  | fstate (d a : Reg)
  /-- 0x94 FLIP (R231). -/
  | flip (a : Reg) (b : Selector)
  /-- 0x95 SIGNAL (R232). -/
  | signal (d : Selector) (a b : Reg)
  /-- 0x96 GLAUNCH (R233). -/
  | glaunch (a b : Reg)
  /-- 0xA0 TDEF (R240). -/
  | tdef (d : Selector) (a : Reg)
  /-- 0xA1 TREL (R240). -/
  | trel (d : Selector)
  /-- 0xA2 TCUR (R241). -/
  | tcur (d : Selector) (a : Reg)
  /-- 0xA3 TCURHI (R241). -/
  | tcurhi (d : Selector) (a : Reg)
  /-- 0xA4 CPY (R246). -/
  | cpy (d : Reg) (a b : Selector)
  /-- 0xA5 CPYT (R246). -/
  | cpyt (d : Reg) (a b : Selector)
  /-- 0xA6 CPYQ (R246). -/
  | cpyq (d : Reg) (a b : Selector)
  /-- 0xA7 CPYX (R246). -/
  | cpyx (d : Reg) (a b : Selector)
  /-- 0xA8 GATH (R248). -/
  | gath (d : Reg) (a : Selector) (b : Reg)
  /-- 0xA9 SCATA (R249). -/
  | scata (d : Reg) (a : Selector) (b : Reg)
  /-- 0xAA TQUERY (R242). -/
  | tquery (d : Reg) (a b : Selector)
  /-- 0xB0 MBLD (R254). -/
  | mbld (d a : Selector)
  /-- 0xB1 MMA (R255). -/
  | mma (d a b : Selector)
  /-- 0xB2 MMAS (R255). -/
  | mmas (d a b : Selector)
  /-- 0xB4 MZERO (R257). -/
  | mzero (d : Selector)
  /-- 0xB5 MDRAIN (R259). -/
  | mdrain (d a : Selector)
  /-- 0xB6 MDRAINA (R260). -/
  | mdraina (d a : Selector)
  /-- 0xB7 MRD (R261). -/
  | mrd (d : Reg) (a : Selector) (b : Reg)
  /-- 0xB8 MWR (R261). -/
  | mwr (d : Selector) (a b : Reg)
  /-- 0xC0 RAYQ (R265). -/
  | rayq (d a : Reg) (b : Selector)
  /-- 0xC1 RAYQA (R265). -/
  | rayqa (d a : Reg) (b : Selector)
  /-- 0xC2 TEX (R267). -/
  | tex (d a : Reg) (b : Selector)
  /-- 0xC3 TEXL (R267). -/
  | texl (d a : Reg) (b : Selector)
  /-- 0xC4 TEXG (R267). -/
  | texg (d a : Reg) (b : Selector)
  /-- 0xD0 RDTIME (R386). -/
  | rdtime (d : Reg)
  /-- 0xD1 RDSR (R387). -/
  | rdsr (d : Reg) (b : Selector)
  /-- 0xD2 WRSR (R387). -/
  | wrsr (a : Reg) (b : Selector)
  /-- 0xD4 TLBINV (R389). -/
  | tlbinv (a b : Reg)
  /-- 0xD5 IRQ (R391). -/
  | irq (b : Selector)
  /-- 0xD6 HALTG (R393). -/
  | haltg (d a : Reg)
  /-- 0xD7 RESUMEG (R393). -/
  | resumeg (d a : Reg)
  /-- 0xD8 GSAVE (R394). -/
  | gsave (d a b : Reg)
  /-- 0xD9 GLOAD (R394). -/
  | gload (d a b : Reg)
  /-- 0xDA LINKQ (R398). -/
  | linkq (d : Reg) (b : Selector)
  /-- 0xDB LINKUP (R400). -/
  | linkup (d : Reg) (b : Selector)
  /-- 0xDC DIERST (R399). -/
  | dierst (d : Reg) (b : Selector)
  /-- 0xDD HOMEBYP (R397). -/
  | homebyp (d : Reg) (a b : Selector)
  /-- 0xDE FLUSHD (R396). -/
  | flushd (d : Reg) (b : Selector)
  /-- TX_COMMIT (R209). -/
  | txCommit (g w : Nat)
  /-- GROW_GRANT (R222). -/
  | growGrant (g w : Nat) (slotB : Bool)
  /-- CAP_HELD (R104). -/
  | capHeld (line : Nat)
  /-- CAP_EXPIRY (R196). -/
  | capExpiry (line : Nat)
  /-- HEAT_DECAY (R102). -/
  | heatDecay (line : Nat)
  /-- LEASE_READ_REQUEST (R420). -/
  | leaseReadRequest (core line : Nat)
  /-- HOME_WRITE (R420). -/
  | homeWrite (id : Nat)
  /-- OWNERSHIP_RECALL (R420). -/
  | ownershipRecall (line : Nat)
  /-- GUEST_INVALIDATE (R420). -/
  | guestInvalidate (die line : Nat)
  /-- EXCLUSIVE_REQUEST (R423). -/
  | exclusiveRequest (card line : Nat)
  /-- REPLICA_UPDATE (R422). -/
  | replicaUpdate (id die : Nat)
  /-- FAULT_RESOLVED (R418). -/
  | faultResolved (id : Nat)
  /-- FAULT_FAILED (R418). -/
  | faultFailed (id result : Nat)
  /-- REGION_CMD (R425). -/
  | regionCmd (value : BitVec 64)
  /-- COMMIT_POINT (R428). -/
  | commitPoint (ctx tag : Nat)
  /-- FOLDING_FINISH (R429). -/
  | foldingFinish (ctx tag : Nat)
  /-- SCRUBBING_FINISH (R429). -/
  | scrubbingFinish (ctx tag : Nat)
  /-- FORK_TAKE_TAGS (R347). -/
  | forkTakeTags (run node : Nat)
  /-- JOIN_DEADLINE (R348). -/
  | joinDeadline (run node : Nat)
  /-- DEFERRED_EFFECT (R116). -/
  | deferredEffect (ctx tag : Nat)
  /-- COPY_LANDING (R93). -/
  | copyLanding (op : Nat)
  /-- COPY_COMPLETE (R250). -/
  | copyComplete (op : Nat)
  /-- MATRIX_PASS (R256). -/
  | matrixPass (g w : Nat)
  /-- MBLD_COMPLETE (R310). -/
  | mbldComplete (g mac : Nat)
  /-- BATCH_COMPLETE (R258). -/
  | batchComplete (g w : Nat)
  /-- RAY_COMPLETE (R265). -/
  | rayComplete (op : Nat)
  /-- TEX_COMPLETE (R267). -/
  | texComplete (op : Nat)
  /-- RESULT_WRITEBACK (R136). -/
  | resultWriteback (g w id : Nat)
  /-- GANG_PLACEMENT (R353). -/
  | gangPlacement (gang : Nat)
  /-- GROUP_RETIRE (R37). -/
  | groupRetire (g : Nat)
  /-- COMPLETION_SIGNAL (R343). -/
  | completionSignal (launch : Nat)
  /-- EARLY_TRIGGER (R289). -/
  | earlyTrigger (launch : Nat)
  /-- TAIL (R333). -/
  | tailWrite (queue : Nat) (value : BitVec 32)
  /-- QUEUE_ENABLE (R330). -/
  | queueEnable (queue : Nat)
  /-- QUEUE_DISABLE (R330). -/
  | queueDisable (queue : Nat)
  /-- TRAILER_READ (R333). -/
  | trailerRead (queue : Nat)
  /-- NOP_PACKET (R336). -/
  | nopPacket (queue : Nat)
  /-- LAUNCH (R339). -/
  | launchPacket (queue : Nat)
  /-- LAUNCH_SHORT (R336). -/
  | launchShort (queue : Nat)
  /-- GRAPH_RUN (R345). -/
  | graphRun (queue : Nat)
  /-- GRAPH_LOAD (R344). -/
  | graphLoad (queue : Nat)
  /-- SIGNAL_PACKET (R336). -/
  | signalPacket (queue : Nat)
  /-- WAIT (R336). -/
  | waitPacket (queue : Nat)
  /-- WAIT_POLL (R336). -/
  | waitPoll (queue : Nat)
  /-- COPY (R336). -/
  | copyPacket (queue : Nat)
  /-- ACCOUNT_OPEN (R444). -/
  | accountOpen (queue : Nat)
  /-- ACCOUNT_CLOSE (R445). -/
  | accountClose (queue : Nat)
  /-- COMMIT_PACKET (R336). -/
  | commitPacket (queue : Nat)
  /-- TENSOR_DEF (R240). -/
  | tensorDef (queue : Nat)
  /-- PREEMPT (R369). -/
  | preemptCmd (ctx : Nat)
  /-- READMIT (R368). -/
  | readmitCmd (ctx : Nat)
  /-- RESET (R371). -/
  | resetCmd (ctx : Nat)
  /-- HALT (R372). -/
  | haltCmd (ctx : Nat)
  /-- RESUME (R377). -/
  | resumeCmd (ctx : Nat)
  /-- SAVE (R375). -/
  | saveCmd (ctx : Nat)
  /-- LOAD (R376). -/
  | loadCmd (ctx : Nat)
  /-- ATTACH (R368). -/
  | attachCmd (ctx : Nat)
  /-- DETACH (R368). -/
  | detachCmd (ctx : Nat)
  /-- SLICE_EXPIRY (R369). -/
  | sliceExpiry (ctx : Nat)
  /-- D1_DEADLINE (R369). -/
  | d1Deadline (ctx : Nat)
  /-- D2_DEADLINE (R369). -/
  | d2Deadline (ctx : Nat)
  /-- WATCHDOG_EXPIRY (R374). -/
  | watchdogExpiry (launch team : Nat)
  /-- TRACE_SAMPLE (R378). -/
  | traceSample (ctx core : Nat)
  /-- ATT_CMD (R451). -/
  | attCmd (value : BitVec 32)
  /-- FIRMWARE_BOOT (R449). -/
  | firmwareBoot (die : Nat)
  /-- SLEEP_END (R148). -/
  | sleepEnd (g w : Nat) (slotB : Bool)
  /-- LEASE_EXPIRY (R100). -/
  | leaseExpiry (core line : Nat)
  /-- GUEST_READ_REQUEST (R420). -/
  | guestReadRequest (die line : Nat)
  /-- NEAR_ATOMIC_GRANT (R103). -/
  | nearAtomicGrant (core line : Nat)
  /-- CARD_INVALIDATE (R423). -/
  | cardInvalidate (card line : Nat)
  /-- SNPINV (R424). -/
  | snpinv (line : Nat)
  /-- SNPDATA (R424). -/
  | snpdata (line : Nat)
  /-- SNPCUR (R424). -/
  | snpcur (line : Nat)
  /-- FILL_REQUEST (R413). -/
  | fillRequest (die asid va : Nat)
  /-- PAGE_WALK (R407). -/
  | pageWalk (asid va : Nat)
  /-- FILL_REDIRECT (R414). -/
  | fillRedirect (die asid va : Nat)
  /-- NVME_COMPLETION (R417). -/
  | nvmeCompletion (id status : Nat)
  /-- NVME_TIMEOUT (R417). -/
  | nvmeTimeout (id : Nat)
  /-- LAUNCH_REGISTER (R338). -/
  | launchRegister (queue : Nat) (slot : BitVec 512)
  /-- REGISTER_WRITE (R331). -/
  | registerWrite (addr bytes : Nat) (value : BitVec 64)
  /-- LATCH_POINT (R350). -/
  | latchPoint (head mode : Nat)
  /-- LINK_RETRAIN (R433). -/
  | linkRetrain (port : Nat)
  /-- FLIT_REPLAY (R432). -/
  | flitReplay (port : Nat)
  /-- LINK_UP (R433). -/
  | linkUp (port : Nat)
  /-- PEER_DOWN (R433). -/
  | peerDown (port : Nat)
  /-- ECC_CORRECTED (R441). -/
  | eccCorrected (source die unit addr : Nat)
  /-- ECC_UNCORRECTED (R441). -/
  | eccUncorrected (source die unit addr : Nat)
  /-- PATROL_SCRUB (R439). -/
  | patrolScrub (line : Nat)
  /-- REPLAN (R443). -/
  | replan (die : Nat)
  /-- LOW_SLACK (R443). -/
  | lowSlack (die : Nat)
  /-- THERMAL_LIMIT (R446). -/
  | thermalLimit (die : Nat)
  /-- GOVERNOR_WINDOW (R446). -/
  | governorWindow (die : Nat)
  /-- BANK_GATE (R318). -/
  | bankGate (core bank : Nat)
  /-- HOST_BAR2_READ (R430). -/
  | hostBar2Read (addr bytes : Nat)
  /-- HOST_BAR2_WRITE (R430). -/
  | hostBar2Write (addr bytes : Nat) (value : BitVec 512)
  /-- CONTEXT_CREATION (R367). -/
  | contextCreation (ctx : Nat) (saves : Bool)
  /-- POWER_GATING (R447). -/
  | powerGating (unit : Nat)
  /-- TEMPERATURE_DROP (R446). -/
  | temperatureDrop (die : Nat)
  /-- PLDM_REQUEST (R448). -/
  | pldmRequest (subject image : Nat)
  /-- CXL_MEM_ACCESS (R431). -/
  | cxlMemAccess (write : Bool) (addr bytes : Nat) (value : BitVec 512)
  /-- 0x00 NOP (R141). -/
  | nop
  /-- 0x06 RET (R144). -/
  | ret
  /-- 0x07 JOIN (R33). -/
  | join
  /-- 0x08 EXIT (R35). -/
  | exit
  /-- 0x09 YIELD (R147). -/
  | yield
  /-- 0x0D IDEMEND (R150). -/
  | idemend
  /-- 0x0F BKPT (R152). -/
  | bkpt
  /-- 0x81 TCOMMIT (R209). -/
  | tcommit
  /-- 0x8E EARLYGO (R38). -/
  | earlygo
  /-- 0xB3 MBATCH (R258). -/
  | mbatch
  /-- 0xD3 TRET (R388). -/
  | tret
  /-- 0xDF PARK (R402). -/
  | park
  /-- REGION_SWITCH_POINT (R425). -/
  | regionSwitchPoint
  /-- DEVICE_RESET (R331). -/
  | deviceReset
deriving DecidableEq, Repr

end Sys2Proof
end

