-- ==== Sys2Proof/Machine/State.lean ====
section
/-!
DEFINITION. Sys2Proof/Machine/State.lean: the state of one device as plain data, the ways a step can stop, and the state
after reset. Registers of a wave, memories and records that the rules give the machine stand here under the rules' names.
-/

namespace Sys2Proof.Machine

open Sys2Proof

/-! ## Waves -/

/-- A register by name: v and k registers, and predicates. -/
inductive RegName where
  | v (n : Nat)
  | k (n : Nat)
  | q (n : Nat)
deriving DecidableEq, Repr

/-- A fixed-latency result that later instructions of the same path must not read too early (R137): the distance that is
still missing, the lanes it was written in and the values the register held before (32 of a v register, one of a k register,
the mask of a predicate). -/
structure InFlight where
  reg : RegName
  lanes : LaneMask
  left : Nat
  old : List Word
deriving DecidableEq, Repr

/-- A fixed-latency result in a v register as a read of another path's lane finds it (R158): it is written at clk `done`, and until then
such a read may still find the register's 32 values of before. -/
structure LaneFlight where
  n : Nat
  lanes : LaneMask
  done : Nat
  old : List Word
deriving DecidableEq, Repr

/-- A variable-latency result that has issued and is not yet written back (R136): its destination waits in the scoreboard.
The table `old` holds what the v registers held before (register × 32 + lane). -/
structure Outstanding where
  id : Nat
  regs : List RegName
  lanes : LaneMask
  old : Tab Word
deriving DecidableEq, Repr

/-- What a path waits for (R36 and the instructions' entries). -/
inductive Wait where
  | none
  | sleep
  | engine
  | barrier
  | join
  | cap
  | registers
  | scoreboard
  | fault
  | fence
  | commit
  | reduction
  | memory
  | park
  | front
deriving DecidableEq, Repr

/-- A path: code offset, active lanes, mode image (R27), with what the core keeps for it: what it waits for, results in
flight, the clk before which its next instruction is not there to issue, the comb it last executed in (R123). -/
structure Path where
  pc : Word
  mask : LaneMask
  mode : ModeImage
  wait : Wait := .none
  inflight : List InFlight := []
  readyAt : Nat := 0
  comb : Option Word := none
  /-- a cause that the path raises when it next issues: (cause, sub-cause, addr): a bad entry at its pop (R92, R321) -/
  raises : Option (Nat × Nat × Nat) := none
  /-- the address at which the path waits for a replayable fault (R360) -/
  faultAt : Nat := 0
  /-- the number of the last operation that was issued when the path began to wait (R148), and the clk -/
  waitMark : Nat := 0
  since : Nat := 0
deriving DecidableEq, Repr

/-- An entry of the divergence stack (R32). -/
structure Entry where
  pc : Word
  mask : LaneMask
  mode : ModeImage
deriving DecidableEq, Repr

/-- The transaction context of a wave (R203 to R206). Bytes are keyed by lane + 32 × place, where a place is a byte of memory
or of a scratchpad (Machine/Memory). `shadow` is the checkpoint: each register with its values before its first write. -/
structure Tx where
  depth : Nat
  members : LaneMask
  perLane : Bool
  tryPc : Word
  tryMode : ModeImage
  shadow : List (RegName × List Word) := []
  /-- bytes a lane read from memory, as it read them -/
  reads : Tab Byte := []
  /-- bytes a lane has written and not yet committed -/
  writes : Tab Byte := []
  /-- lines of the read set and of the write set, per lane: lane + 32 × line -/
  readLines : List Nat := []
  writeLines : List Nat := []
  /-- clk that the transaction has waited on other parties' caps, per line (R207, R209) -/
  capWaits : Tab Nat := []
  /-- the clk up to which a wait that goes on has been counted, per line -/
  capSeen : Tab Nat := []
  /-- lines, per lane, of which the lane has read two values (R209) -/
  torn : List Nat := []
  /-- the virtual line number by which a lane named a line of its sets -/
  names : Tab Nat := []
  /-- the lanes that wait at an outermost TCOMMIT, whatever depth a TRY of another path has given the transaction since (R209) -/
  waiting : LaneMask := 0#32
  /-- at the commit (R209): the number of the last operation that the wave had issued when all members waited; the number with which the
  commit reached its first line (R42); the lines that were skipped because they stayed capped -/
  mark : Option Nat := none
  firstLine : Option Nat := none
  skipped : List Nat := []
deriving DecidableEq, Repr

/-- A cap record of a wave (R195): empty, held or expired, and the line it names, by virtual line number and, while it is held, by
its line at the home; `asked` stands between CAP's request and the moment the line is held. -/
inductive CapRecord where
  | empty
  | asked (va line : Nat)
  | held (va line : Nat)
  | expired (va : Nat)
deriving DecidableEq, Repr

/-- A tensor cursor cur0 to cur3 that the core keeps on chip (R241). -/
structure Cursor where
  id : Nat
  c0 : Word
  c1 : Word
  c2 : Word
  c3 : Word
deriving DecidableEq, Repr

/-- An accumulator tile (R81, R82, R243): 8 rows of 64 columns, keyed row × 64 + column; whether it is empty, holds integers
or holds floats. -/
inductive TileKind where
  | empty | int | float
deriving DecidableEq, Repr

structure Tile where
  kind : TileKind := .empty
  cells : Tab Word := []
deriving DecidableEq, Repr

/-- A tensor record's 512 bits (R235). -/
abbrev TRecord := BitVec 512

/-- What a matrix operation does. -/
inductive MatKind where
  | load | mma | mmas | zero | drain | drainAdd
deriving DecidableEq, Repr

/-- An operation that the wave has given to the matrix engine (R254 to R260), with the tensor record, the cursor and the mode
as they stood at its issue (R241). -/
structure MatOp where
  id : Nat
  kind : MatKind
  tile : Nat := 0
  mac : Nat := 0
  record : TRecord := 0#512
  cursor : Cursor := ⟨0, 0#32, 0#32, 0#32, 0#32⟩
  mode : ModeImage
  /-- the lanes of S: an MMA acts for each quarter that has one -/
  lanes : LaneMask
  ctx : Nat
  tag : Nat
  /-- the kind that the drained tile had when the drain issued (R259, R260) -/
  tileKind : TileKind := .empty
  /-- a drain that has begun: the 16-byte units (address ÷ 16) that it has not written yet -/
  started : Bool := false
  left : List Nat := []
  error : Bool := false
  /-- the clk at which a load whose tile has arrived ends (R310) -/
  ends : Option Nat := none
deriving DecidableEq, Repr

/-- A poisoned register (R362): the lanes, the unit the error lay in (the sub-cause) and the source address. -/
structure Poison where
  reg : RegName
  lanes : LaneMask
  unit : Nat
  addr : Nat
deriving DecidableEq, Repr

/-- Handler mode (R357, R358): the slot that runs the handler, the handler's code image, and the clk of the stop (R364). -/
structure HandlerMode where
  slotB : Bool
  base : Nat
  len : Nat
  since : Nat := 0
deriving DecidableEq, Repr

/-- An uncorrectable error that member lanes have consumed (R216): the wave traps before the first instruction of their abort path, with
the sub-cause, the address, and the try depth at the error. -/
structure TxError where
  lanes : LaneMask
  sub : Nat
  addr : Nat
  depth : Nat
deriving DecidableEq, Repr

/-- A wave (R11, R25, R27 and the registers of R382 that a wave holds). -/
structure Wave where
  /-- lanes that the launch gave the wave (R12) and lanes that have not ended -/
  lanes : LaneMask
  live : LaneMask
  /-- the register window n (R24) -/
  n : Nat
  v : Tab Word := []
  k : Tab Word := []
  q : Tab Word := []
  slotA : Option Path := none
  slotB : Option Path := none
  stack : List Entry := []
  lastB : Bool := false
  issuedAt : Nat := 0
  /-- per slot, the clk before which its next instruction may not leave the collector (R125), and whether the picker ranks the slot
  behind the others for its next pick (R124, R147) -/
  paceA : Nat := 0
  paceB : Nat := 0
  yieldA : Bool := false
  yieldB : Bool := false
  /-- fixed-latency results that are not written yet, of every path of the wave (R158, R313) -/
  flights : List LaneFlight := []
  /-- how many writes of memory had been performed at the wave's last acquire, and when the wave last read or wrote a place since: a load
  performs no earlier (R272, R277) -/
  acquired : Nat := 0
  seen : Tab Nat := []
  fmask : LaneMask := 0#32
  generator : Tab Word := []
  srseed : Word := 0#32
  idemIn : Bool := false
  idemId : BitVec 24 := 0#24
  idemPc : Word := 0#32
  early : Bool := false
  tx : Option Tx := none
  tcode : Tab Byte := []
  taddr : Tab DWord := []
  /-- handler mode, when the wave is in it (R357) -/
  handler : Option HandlerMode := none
  /-- an error whose trap waits for the abort path (R216) -/
  txError : Option TxError := none
  /-- an abort path that did not fit (R212), placed at TRET -/
  unplaced : Option Entry := none
  /-- the path of slot A while a handler for such an abort path runs there -/
  aside : List Entry := []
  save : Tab Byte := []
  cap0 : CapRecord := .empty
  cap1 : CapRecord := .empty
  /-- the cursors on the chip, the one written longest ago first, and the ids whose cursors stand in the save slot (R241) -/
  cursors : List Cursor := []
  spilledCursors : List Nat := []
  /-- outstanding counts of the classes copy, mtx, ray, tex (R245) -/
  counts : Tab Nat := []
  pacecheck : Bool := false
  /-- registers declared dead, per v register the lanes (R126) -/
  dead : Tab Word := []
  poison : List Poison := []
  scoreboard : List Outstanding := []
  /-- peer cards that were declared down with writes of the wave not performed, until a FENCE reports them (R189) -/
  lostPeers : List Nat := []
  tiles : Tab Tile := []
  /-- tiles that hold an uncorrectable error (R362) -/
  badTiles : List Nat := []
  /-- matrix operations that are issued and not performed, in issue order; for each batch that is not complete, the number of the last
  operation issued before its MBATCH (R258) -/
  matOps : List MatOp := []
  matBatches : List Nat := []
  /-- the phase whose end a path waits for at a BARW: (team × 2 + slot, phase) -/
  arrived : List (Nat × Word) := []
deriving DecidableEq, Repr

/-! ## Groups -/

/-- A compute-in-memory macro slot (R78, R246). What the group's last MBLD to it recorded at issue: the tile's K start, the tensor's
dim0, its format, whether it is sparse (R254). What the last MBLD that has arrived left: whether its tile is sparse, whether its blocks
are scaled, the residues of the stored elements, 31 bits each, keyed e × 64 + column (R78), their position codes in the same order, the scale words keyed block × 64 + column (R84, R237). -/
structure MacroSlot where
  loaded : Bool := false
  kStart : Nat := 0
  dim0 : Nat := 0
  format : Nat := 0
  sparse : Bool := false
  filled : Bool := false
  scaled : Bool := false
  thin : Bool := false
  kept : Tab Nat := []
  codes : Tab Nat := []
  scales : Tab Word := []
  /-- the clk up to which an MBLD whose tile has arrived holds the macro (R310) -/
  held : Nat := 0
deriving DecidableEq, Repr

/-- A code image: where its first comb lies and how long it is (R140, R358). -/
structure Code where
  base : Nat := 0
  len : Nat := 0
deriving DecidableEq, Repr

/-- A resident group. Its key in the state's table is ((die × 24 + core) × 16 + group slot). -/
structure Group where
  ctx : Nat
  tag : Nat := 0
  /-- the launch it belongs to; firmware groups belong to none -/
  launch : Option Nat := none
  gang : Nat := 0
  linear : Nat := 0
  gidX : Nat := 0
  gidY : Nat := 0
  gidZ : Nat := 0
  gridX : Nat := 1
  gridY : Nat := 1
  gridZ : Nat := 1
  /-- gang position j and gang size G (R14) -/
  j : Nat := 0
  gangSize : Nat := 1
  lanes : Nat := 32
  window : Nat := 8
  scratchBytes : Nat := 0
  accTiles : Nat := 0
  code : Code := {}
  scratch : Tab Byte := []
  /-- granules: bit 0 valid, bit 1 landing (R93) -/
  granules : Tab Nat := []
  macros : List MacroSlot := []
  /-- macros that hold an uncorrectable error (R362) -/
  badMacros : List Nat := []
  waves : List Wave := []
  halted : Bool := false
  /-- pre-emption is saving it: its waves have stopped (R370) -/
  saving : Bool := false
  retired : Bool := false
  /-- clk of the group's first instruction (R352) -/
  first : Option Nat := none
  /-- clk at which the group got its core (R39) -/
  born : Nat := 0
deriving DecidableEq, Repr

/-! ## Memory and coherence -/

/-- A request that waits in a line's queue at its home slice (R100, R104, R420): a posted write, a cap, the read of a path or its write
that performs while the path waits (with the clk since which it waits), the commit of a wave's transaction, an engine operation. -/
inductive Request where
  | write (id : Nat)
  | cap (g w : Nat) (duration : Nat)
  | read (g w : Nat) (slotB : Bool) (since : Nat)
  | own (g w : Nat) (slotB : Bool) (since : Nat)
  | commit (g w n : Nat)
  | engine (id : Nat)
deriving DecidableEq, Repr

/-- A cap that holds a line: the wave, and the clk at which its duration ends (R104). -/
structure CapHold where
  g : Nat
  w : Nat
  ends : Nat
deriving DecidableEq, Repr

/-- What the home slice keeps for a line (R419, R102) and what the data controller keeps for it (R423). -/
structure Line where
  exp : Nat := 0
  heat : Nat := 0
  /-- the later of the last rise and the last fall of `heat` -/
  heatAt : Nat := 0
  owner : Option Nat := none
  guests : List Nat := []
  cap : Option CapHold := none
  /-- true for S: another card or the host holds the line -/
  shared : Bool := false
  cards : List Nat := []
  host : Bool := false
  waiting : List Request := []
deriving DecidableEq, Repr

/-- What a page is for the writes to it (R106): ordinary, replicated, or with versions of futures; `back` marks the write-back of a
line of a software-managed region to its home (R199, R281). -/
inductive PageClass where
  | plain | repl | ver | back
deriving DecidableEq, Repr

/-- A posted write that its home has not acknowledged (R420, R421): whose it is, its bytes by place, all of one line, whether it
is a release, which performs only after every earlier write of its party (R186, R421), and its page's class. A write at a
future's place makes the future's version (R110). -/
structure PostedWrite where
  id : Nat
  g : Nat
  w : Nat
  core : Nat
  tag : Nat
  bytes : List (Nat × Byte)
  ordered : Bool := false
  page : PageClass := .plain
  /-- SIGNAL: the context whose host interrupt is raised once the write is performed (R232) -/
  irq : Option Nat := none
  /-- it is part of a store that writes all 128 bytes of its line (R440) -/
  whole : Bool := false
  /-- WBL, DROPL: it has no bytes of its own, and writes back what its die then has of the line; true when the die's copy is dropped
  (R199) -/
  back : Option (Nat × Bool) := none
  /-- of a write of the front end: the context for which it is made, its kind as value0 of a kind-8 error record has it, 0 for a packet's
  own bytes, and the launch, run or packet whose record it is part of (R343, R371); 5 for an error record, with its vector (R435) -/
  front : Option (Nat × Nat × Nat) := none
deriving DecidableEq, Repr

/-- A byte of memory before a performed write, and the number of that write: loads that nothing orders may still return it (R272, R277). -/
structure PastByte where
  at_ : Nat
  place : Nat
  byte : Byte
deriving DecidableEq, Repr

/-- A replica of a REPL page that a write has not reached yet: die `die` still reads `old` at `place` (R280, R422). -/
structure ReplicaLag where
  id : Nat
  g : Nat
  w : Nat
  die : Nat
  place : Nat
  old : Byte
deriving DecidableEq, Repr

/-- A translation: the physical address of the page, its size as a power of two, its attributes and permissions (R406). -/
structure Translation where
  base : Nat
  bits : Nat
  read : Bool
  write : Bool
  /-- REPL propagation (R106) -/
  repl : Bool
  /-- future attribute: 0 UNVER, 1 VER, 2 DEFER (R406) -/
  fut : Nat
deriving DecidableEq, Repr

/-- Who waits for a page to become resident: a path, an engine operation, the base die's copy engine for a queue's COPY packet, the
front end for a record it writes, for a queue's packet, for a node of a run, for a deferred effect of a tag, for the surface
descriptor of a flip, for a completion record. -/
inductive Waiter where
  | path (g w : Nat) (slotB : Bool)
  | issuing (g w : Nat) (slotB : Bool)
  | engine (id : Nat)
  | copy (queue : Nat)
  | record
  | packet (queue : Nat)
  | node (run node tag : Nat)
  | effect (tag : Nat)
  | flip (head : Nat)
  | completion (id : Nat)
deriving DecidableEq, Repr

/-- How far the firmware is with a fault entry (R416 to R418): it stands in the queue; its page is copied from host memory into a frame; it
comes from NVMe into a frame, so many bytes of it have come, and the command under way, if one is, has failed at a clk (R417). -/
inductive Service where
  | queued
  | host (frame : Nat)
  | nvme (frame bytes : Nat) (limit : Option Nat)
deriving DecidableEq, Repr

/-- A fault entry that is queued to a die's firmware core (R415) and not served. -/
structure FaultEntry where
  id : Nat
  die : Nat
  index : Nat
  va : Nat
  asid : Nat
  tag : Nat
  kind : Nat
  type : Nat
  ctrl : Nat
  leaf : Nat
  t : Nat
  waiters : List Waiter := []
  /-- the address at which each of them waits -/
  addrs : List (Waiter × Nat) := []
  service : Service := .queued
  /-- the size of the page, as a power of two (R329); 12 where no leaf gives it -/
  bits : Nat := 12
deriving DecidableEq, Repr

/-- Whether an address lies in the page of a fault entry. -/
def FaultEntry.holds (e : FaultEntry) (asid va : Nat) : Bool := e.asid == asid && e.va / 2 ^ e.bits == va / 2 ^ e.bits

/-- A fault service that failed for a party which asks again before it goes on: the party, the page's ASID and number, its size as a
power of two, and the result (R343, R418). -/
structure Refused where
  who : Waiter
  asid : Nat
  page : Nat
  bits : Nat
  result : Nat
deriving DecidableEq, Repr

def Refused.holds (r : Refused) (who : Waiter) (asid va : Nat) : Bool := r.who == who && r.asid == asid && r.page == va / 2 ^ r.bits

/-- A service result that reached a path: it traps PAGE_FAULT with this sub-cause when it next executes (R363). -/
structure FaultResult where
  g : Nat
  w : Nat
  slotB : Bool
  sub : Nat
  addr : Nat
deriving DecidableEq, Repr

/-- A write of the front end to a page that is not resident (R343): it is performed once the page is. `kind` is value0 of a
kind-8 error record (R437). -/
structure FrontWrite where
  asid : Nat
  va : Nat
  bytes : List Byte
  kind : Nat
  release : Bool
  owner : Nat := 0
deriving DecidableEq, Repr

/-- A page of the remap filter (R414): the first name under which the physical page was filled. -/
structure FirstName where
  asid : Nat
  vpn : Nat
deriving DecidableEq, Repr

/-- The registers of the base-die window (R411) but the write-only ones. -/
structure Window where
  asidBase : Nat := 0
  spillBase : Nat := 0
  spillSize : Nat := 2147483648
  fabricCfg : Word := 0#32
  linkWindow : Nat := 2000
  /-- nvme_q0 to nvme_q7, keyed 32 × queue + byte -/
  nvme : Tab Byte := []
  /-- per queue, the SQ tail that the device has written last (R417) -/
  nvmeTails : Tab Nat := []
  /-- the region whose switch runs, and its target mode (R425) -/
  region : Option (Nat × Bool) := none
deriving DecidableEq, Repr

/-! ## Futures -/

/-- States of a future tag (R112). -/
inductive TagState where
  | free | live | sealed | committed | squashed
deriving DecidableEq, Repr

/-- What is added to an element: a value of the element's own format (SCATA, R249), or a word of a tile, read as i32 or as f32
(MDRAINA, R260). -/
inductive AddKind where
  | same | int | float
deriving DecidableEq, Repr

/-- A deferred effect in a future's queue (R116). -/
inductive Effect where
  | store (va : Nat) (bytes : List Byte)
  | atomic (op : Nat) (type : Nat) (ftz : Bool) (round : Nat) (va : Nat) (b d : DWord)
  /-- additions of an engine operation: its number, and the elements that it has added so far -/
  | adds (op : Nat) (format : Nat) (kind : AddKind) (mode : ModeImage) (values : List (Nat × Word))
  | signal (va : Nat) (value : Word) (irq : Bool)
  | flip (va : Nat) (head : Nat)
  | glaunch (node : Word) (params : Nat)
deriving DecidableEq, Repr

/-- A future tag (R112 to R116): its state, context and fork, squash reason and deferred effects. `committing` is true between
the FCOMMIT that returned 0 and the commit point (R428), whose clk is `commitAt`. -/
structure FutureTag where
  state : TagState := .free
  ctx : Nat := 0
  fork : Nat := 0
  run : Nat := 0
  queue : Nat := 0
  reason : Nat := 0
  effects : List Effect := []
  committing : Bool := false
  commitAt : Nat := 0
  /-- the wave whose FCOMMIT it was, and the number of the last operation that it had issued: group, wave, number (R227) -/
  committer : Option (Nat × Nat × Nat) := none
  /-- a squashed tag's run has taken note of the squash -/
  noted : Bool := false
deriving DecidableEq, Repr

/-! ## Teams and launches -/

/-- A reduction round of a team (R220, R221): the type, rounding, sat and ftz that its first arrival fixed, who has arrived
(group linear index, wave), and what they contributed; and the arrivals that wait for the result, with where it goes:
group key, wave, destination register, lanes, scoreboard id. -/
structure Reduction where
  mode : Option ModeImage := none
  arrived : List (Nat × Nat) := []
  values : List Word := []
  takers : List (Nat × Nat × Nat × LaneMask × Nat) := []
deriving DecidableEq, Repr

/-- A team of a launch (R19, R23, R217 to R221, R374). -/
structure Team where
  members : List (Nat × Nat)
  phase : Word := 0#32
  arrived : List (Nat × Nat) := []
  pending : Word := 0#32
  /-- rounds of TREDADD, TREDMIN, TREDMAX; the one being filled first -/
  sums : List Reduction := []
  mins : List Reduction := []
  maxs : List Reduction := []
  /-- of each arrival, the number of the last operation that its wave had issued before it (R219): group linear index, wave, number -/
  marks : List (Nat × Nat × Nat) := []
  /-- watchdog age in clk of the phase (R374) -/
  age : Nat := 0
  logged : Bool := false
deriving DecidableEq, Repr

/-- A launch record (R339). -/
structure LaunchRecord where
  codeBase : Nat := 0
  codeLen : Nat := 0
  entry : Nat := 0
  gridX : Nat := 1
  gridY : Nat := 1
  gridZ : Nat := 1
  lanes : Nat := 32
  gang : Nat := 1
  regs : Nat := 8
  acc : Nat := 0
  macros : Nat := 0
  scratch : Nat := 0
  teamTable : Nat := 0
  teamCount : Nat := 0
  coresident : Bool := false
  pacecheck : Bool := false
  early : Bool := false
  fork : Bool := false
  join : Bool := false
  deadlineEn : Bool := false
  devLaunch : Bool := false
  fence : Nat := 0
  futures : Nat := 0
  head : Nat := 0
  param : Nat := 0
  paramStride : Nat := 0
  deadline : Nat := 0
  completion : Nat := 0
  predInit : Nat := 0
  succ : List Nat := []
  /-- a reserved bit is set; a bit that only a graph node may have is set (R340) -/
  reserved : Bool := false
  graphBits : Bool := false
deriving DecidableEq, Repr

/-- What restarts a wave of a discarded group (R151): its idem_id and idem_pc. -/
structure Restart where
  linear : Nat
  wave : Nat
  idemId : BitVec 24
  idemPc : Word
deriving DecidableEq, Repr

/-- What a completion record reports of a launch, or of the launches of a graph run together (R342): clk of the first instruction
and of the last retirement, core-cycles charged, errors counted, groups restarted, fmasks by group and wave in the order in
which groups retired. -/
structure Tally where
  started : Option Nat := none
  ended : Nat := 0
  coreCycles : Nat := 0
  copyErrors : Nat := 0
  rayErrors : Nat := 0
  texErrors : Nat := 0
  idemRestarts : Nat := 0
  fmasks : List (Nat × Nat × LaneMask) := []
deriving DecidableEq, Repr

/-- A gang that waits for placement or is resident (R14, R16): the linear indices of its groups that have not retired, and
the restart points when it was discarded at D1. -/
structure Gang where
  launch : Nat
  index : Nat
  groups : List Nat
  restarts : List Restart := []
  placed : Bool := false
  /-- the pre-emption of this gang alone, when a schedmask bit was cleared (R384) -/
  evicted : Bool := false
  evictAge : Nat := 0
deriving DecidableEq, Repr

/-- A launch that has been dispatched and whose completion has not been written (R288, R342). -/
structure Launch where
  ctx : Nat
  queue : Nat
  /-- slot count of its packet, or node id -/
  slot : Word := 0#32
  /-- graph run and node, when it is a node's launch -/
  node : Option (Nat × Nat) := none
  tag : Nat := 0
  record : LaunchRecord := {}
  /-- combined fence scope (R335) -/
  fence : Nat := 0
  params : Nat := 0
  completion : Nat := 0
  teams : List Team := []
  /-- gangs not yet retired -/
  gangs : List Nat := []
  tally : Tally := {}
  /-- waves past their early point (group linear index, wave, the number of the last operation issued before it), and whether the
  early trigger has happened (R38, R289) -/
  earlyWaves : List (Nat × Nat × Nat) := []
  triggered : Bool := false
  /-- the number that its packet got at dispatch -/
  mark : Nat := 0
  /-- its end is decided, its record is not written: `signal` and `code` -/
  ending : Option (Nat × Nat) := none
  /-- its record is on its way to memory -/
  written : Bool := false
deriving DecidableEq, Repr

/-! ## Queues, graphs, contexts -/

/-- A packet that has been dispatched and has not completed (R334, R336). -/
inductive Pending where
  | launch (id : Nat)
  | run (id : Nat)
  | wait (va : Nat) (value : Word) (cond : Nat)
  /-- a copy of the base die's engine: its context, source, destination, bytes, how many of them are on their way to the destination -/
  | copy (ctx src dst bytes done : Nat)
  /-- a SIGNAL or a COMMIT whose last write is on its way -/
  | writes
  /-- an ACCOUNT_CLOSE whose record is on its way -/
  | account (ctx : Nat)
deriving DecidableEq, Repr

/-- A launch account open on a queue (R444). -/
structure Account where
  addr : Nat
  stamp : Nat
  /-- t_q, and the number that ACCOUNT_OPEN got at dispatch: packets with a higher one belong to the account -/
  opened : Nat
  mark : Nat
  exec : Nat := 0
  fault : Nat := 0
  io : Nat := 0
  front : Nat := 0
  queue : Nat := 0
deriving DecidableEq, Repr

/-- A queue: its page (R330, R331), its deficit (R352) and the packets in progress. -/
structure Queue where
  ringBase : DWord := 0#64
  logSlots : Nat := 4
  level : Nat
  enable : Bool := false
  quantum : Word := 65536#32
  tail : Word := 0#32
  head : Word := 0#32
  errlogBase : DWord := 0#64
  errlogCount : Word := 0#32
  ctx : Nat := 0
  deficit : Int := 0
  /-- gangs of the queue that wait for placement, in order -/
  gangs : List Nat := []
  /-- packets dispatched and not completed, each with the number it got at dispatch -/
  pending : List (Nat × Pending) := []
  /-- the slot at `head` as the front end has read it, until its packet is dispatched -/
  fetched : Option (BitVec 2048) := none
  accounts : List Account := []
  /-- tail writes that the front end has observed and whose slots it has not all dispatched: value and clk -/
  tails : List (Word × Nat) := []
deriving DecidableEq, Repr

/-- A graph slot of a context (R344): node records; the run that is in progress. -/
structure Graph where
  nodes : List LaunchRecord := []
  run : Option Nat := none
deriving DecidableEq, Repr

/-- A node of a run (R345 to R348), one per instance: tag 0 outside the fork's region. -/
structure NodeState where
  node : Nat
  tag : Nat
  counter : Nat
  /-- its parameter pointer (R304) -/
  param : Nat
  /-- it is to launch, and waits for a page or for tags -/
  ready : Bool := false
  launched : Bool := false
  /-- its grid has retired; its completion record may still be missing -/
  retired : Bool := false
  /-- retired and its record written, rejected or squashed -/
  done : Bool := false
  /-- rejected at dispatch: its successors are not decremented for it (R346) -/
  rejected : Bool := false
  /-- the join has been decremented for it (R348) -/
  joined : Bool := false
deriving DecidableEq, Repr

/-- A run of a resident graph (R345). -/
structure Run where
  ctx : Nat
  slot : Nat
  queue : Nat
  packet : Word
  completion : Nat
  fence : Nat
  nodes : List NodeState := []
  /-- the tags its fork took, and the clk at which it took them (R348) -/
  tags : List Nat := []
  forkAt : Nat := 0
  /-- the code of its first rejection -/
  rejected : Nat := 0
  tally : Tally := {}
  /-- the number that its packet got at dispatch -/
  mark : Nat := 0
  /-- a context reset has ended it: its record is not written yet -/
  reset : Bool := false
  /-- its record is on its way to memory -/
  written : Bool := false
  /-- the tags that its fork is taking: their blocks are being written (R305) -/
  taking : List Nat := []
  /-- the clk of the latch point by which its join's deadline is measured (R348) -/
  latchAt : Nat := 0
deriving DecidableEq, Repr

/-- A group that pre-emption has saved (R370): where its image lies, the key under which reduction rounds still name it, what the image has
no place for (the rest of the group as it was), and results of reduction rounds that came meanwhile: wave, v register, lanes, value, the
scoreboard's number. -/
structure SavedGroup where
  addr : Nat
  key : Nat
  group : Group
  late : List (Nat × Nat × LaneMask × Word × Nat) := []
deriving DecidableEq, Repr

/-- A context: its control block (R366, R367), its tensor table (R235) as raw 64-byte records by id, and its state. -/
structure Context where
  cmdStatus : Nat := 0
  cmd : Nat := 0
  stopped : Bool := false
  preempting : Bool := false
  attached : Bool := false
  saveCapable : Bool := false
  slice : Word := 0#32
  d1 : Word := 200#32
  d2 : Word := 2000#32
  wdLimit : Word := 1367188#32
  arg0 : DWord := 0#64
  arg1 : DWord := 0#64
  arg2 : Word := 0#32
  saveBase : DWord := 0#64
  traceBase : DWord := 0#64
  traceCfg : Word := 0#32
  tracePut : Word := 0#32
  /-- what `trace_put` reads while records are on their way to memory (R378) -/
  traceShown : Word := 0#32
  /-- loaded tensor records: their 512 bits by id -/
  tensors : Tab TRecord := []
  graphs : Tab Graph := []
  /-- the tags of the current fork (R227) and whether one of them has committed -/
  forkTags : List Nat := []
  forkCommitted : Bool := false
  forkId : Nat := 0
  /-- pre-emption: clk counted toward D1 and D2, whether D1 has passed (R365, R369) -/
  preemptAge : Nat := 0
  d1Done : Bool := false
  /-- clk for which the context's gangs have held cores while another context's gang waited, and the contexts whose gangs the slice
  was ended for (R369) -/
  heldAge : Nat := 0
  sliceFor : List Nat := []
  /-- groups that pre-emption has saved and not restored -/
  saved : List SavedGroup := []
  /-- per core, the clk of its last sample and how many it has written: which wave is next in rotation (R378) -/
  sampled : Tab (Nat × Nat) := []
  /-- host interrupts raised for the context -/
  interrupts : Nat := 0
deriving DecidableEq, Repr

/-! ## Display -/

/-- A flip request: the clk at which it was performed, and the surface descriptor (R231, R349). -/
structure Flip where
  at? : Nat
  ctx : Nat
  surface : BitVec 256
deriving DecidableEq, Repr

/-- A scanout under way (R306): the context and descriptor of the surface, how many writes had been performed at the latch point, the next
row and line of it, and the end of the rows. -/
structure Scan where
  ctx : Nat
  surface : BitVec 256
  mark : Nat
  row : Nat
  line : Nat
  stop : Nat
deriving DecidableEq, Repr

/-- A display head (R349, R350). -/
structure Head where
  latchMode : Nat := 0
  /-- what is scanned out: the context whose addresses the descriptor names, and the descriptor -/
  surface : Option (Nat × BitVec 256) := none
  requests : List Flip := []
  badFlips : Nat := 0
  flipsDropped : Nat := 0
  /-- slice mode: the next latch point is vertical blanking (0), or begins line 32 (n − 1) -/
  slice : Nat := 0
  /-- the scanout under way -/
  scan : Option Scan := none
  /-- the lines that the scanout of this frame has returned (R306): line of the address space, its 128 bytes as a number -/
  frame : Tab Nat := []
  /-- latch points that a join's deadline has been measured by (R348): no other comes from the first clk on, one comes at the second -/
  latches : List (Nat × Nat) := []
deriving DecidableEq, Repr

/-! ## Engine operations -/

/-- The operations that write promises: the copy family, GATH and SCATA (R239). -/
inductive CopyKind where
  | cpy | cpyt | cpyq | cpyx | gath | scata
deriving DecidableEq, Repr

/-- A copy operation that has issued and not completed (R246 to R252): the records and cursors as they stood at its issue,
the rows of GATH and SCATA as (lane, row index), the promise, the bytes it writes and how many of them have landed, the units that
have not: 16-byte units of the destination (address ÷ 16) in any order, or the elements of a SCATA in theirs; whether it has added to
copy_errors. -/
structure CopyOp where
  id : Nat
  g : Nat
  w : Nat
  kind : CopyKind
  dst : TRecord
  src : TRecord
  dstCur : Cursor
  srcCur : Cursor
  rows : List (Nat × Word)
  mode : ModeImage
  ctx : Nat
  tag : Nat
  promise : Nat
  bytes : Nat
  landed : Nat := 0
  left : List Nat := []
  error : Bool := false
  /-- the bytes of the 16-byte units of its source that it has read (R278), by address -/
  read : Tab Byte := []
deriving DecidableEq, Repr

/-- A ray query or texture sample that has issued and not completed (R262): the register values of each lane it took. -/
structure LaneOp where
  id : Nat
  g : Nat
  w : Nat
  /-- 0 RAYQ, 1 RAYQA, 2 TEX, 3 TEXL, 4 TEXG -/
  kind : Nat
  dest : Nat
  lanes : LaneMask
  /-- eight (four for TEX and TEXL) source words of each of the 32 lanes, keyed lane × 8 + register -/
  args : Tab Word
  record : TRecord
  mode : ModeImage
  ctx : Nat
  tag : Nat
deriving DecidableEq, Repr

/-! ## The card -/

/-- The device block of BAR0 (R434). -/
structure DeviceBlock where
  errBase : DWord := 0#64
  errCfg : Word := 0#32
  errPut : Word := 0#32
  attNonce : BitVec 256 := 0#256
  attDest : DWord := 0#64
  attStatus : Nat := 0
deriving DecidableEq, Repr

/-- A Wilevo port (R432, R433): 0 disabled, 1 up, 2 retraining, 3 down (R411); replays of the current flit; the clk since
which it retrains. -/
structure Port where
  state : Nat := 0
  replays : Nat := 0
  since : Nat := 0
deriving DecidableEq, Repr

/-- Power, voltage and temperature of a die (R318, R443, R446, R447): the voltage offset in steps of 5 mV, the one that waits to be applied
and the powered hours at the last re-plan; the issue caps in percent; whether the thermal limit holds. -/
structure Power where
  offset : Nat := 0
  nextOffset : Option Nat := none
  planned : Nat := 0
  vectorCap : Nat := 100
  matrixCap : Nat := 100
  thermal : Bool := false
deriving DecidableEq, Repr

/-- How often a core has issued rows 0x4 and 0x5, or begun matrix passes, in a 64-clk window (R446): the window, how many clk of it, and the
clk after the last of them. -/
structure VectorUse where
  window : Nat := 0
  clks : Nat := 0
  last : Nat := 0
deriving DecidableEq, Repr

/-- What the card counts and keeps of errors (R437, R440 to R443): corrected errors per GDDR frame or SRAM row, each with the powered hour it
counts in; lines of memory and scratchpads that hold an uncorrectable error, with the unit it lay in; waves trapped by such errors;
retired (ASID, page) pairs and frames; spare rows used per array; rows to spare at the next DIERST; powered hours before this power-on. -/
structure Health where
  corrected : Tab (Nat × Nat) := []
  poisonedLines : Tab Nat := []
  trapped : Nat := 0
  retiredPages : List (Nat × Nat) := []
  retiredFrames : List Nat := []
  sparesUsed : Tab Nat := []
  toSpare : List Nat := []
  hours : Nat := 0
  degraded : Bool := false
deriving DecidableEq, Repr

/-- Measured boot (R448 to R451): eight measurement registers, the reset counts of the dies, the security versions of the started images; the
image in flash for each of them, by number, and the one that is staged for the next boot. What an image is, is free: its number stands
for its bytes. -/
structure Trust where
  measures : Tab (BitVec 512) := []
  resets : Tab Nat := []
  versions : Tab Nat := []
  images : Tab Nat := []
  staged : Tab Nat := []
deriving DecidableEq, Repr


/-! ## Dies -/

/-- What each compute die has of its own (R382, R395, R402). -/
structure Die where
  schedmask : Word := 0#32
  trapbase : DWord := 0#64
  faultHead : Word := 0#32
  faultTail : Word := 0#32
  faultBase : DWord := 0#64
  /-- link state: 0 up, 1 quiesced, 2 reset, 3 training (R395) -/
  link : Nat := 0
  bypass : Bool := false
  /-- LINKQ has begun: the number of the last write that stands on the link already, and the clk by which it has its reply (R398) -/
  closing : Option (Nat × Nat) := none
  /-- HOMEBYP has begun: requests for the lines homed on the die are queued (R454) -/
  switching : Bool := false
  ready : Bool := false
  /-- an event latched for PARK (R402) -/
  event : Bool := false
  /-- the firmware core has parked after a double trap and the die is reported failed (R388) -/
  failed : Bool := false
deriving DecidableEq, Repr

/-! ## The machine -/

/-- The instruction that a path issues: what the fetch latched for it (R121 to R125). -/
structure Issue where
  g : Nat
  w : Nat
  slotB : Bool
  word : Word
  /-- slot code: last-read mark and pace -/
  code : BitVec 4
  /-- comb slot 1 to 7 -/
  slot : Nat
  literal : Word
  /-- code offset of the next instruction in straight-line order -/
  next : Word
  /-- comb control word's yield bit -/
  yieldHint : Bool
deriving DecidableEq, Repr

/-- Who moves next: a step of the device, a path, the passing of time, or whichever path the picker chooses; a snoop of the host that is
looked at again (SNPCUR or SNPDATA, R424); the next line of a head's scanout (R306); a latch point that a join's deadline has been measured by, or that comes at its clk (R348); a bank whose last register was freed (R318); a write of a whole `launch` register that came behind
others of the host (R282, R338); the governor's next window (R446); a core's vector pipes, 10 µs
after it fell idle (R447); a re-plan (R443); a migration of a frame that waits for writes (R441); a port that has retrained for `link_window` (R433); the firmware's next step with a fault entry,
and the time limit of an NVMe command (R416, R417). The order
in which the agents of the device and the outside world move is an input of the model. -/
inductive Turn where
  | event (i : Instr)
  | snoop (current : Bool) (line : Nat)
  | scanout (head : Nat)
  | latch (head mode : Nat)
  | gate (core bank : Nat)
  | launch (queue : Nat) (slot : BitVec 512)
  | governor (die : Nat)
  | pipes (core : Nat)
  | replan (die : Nat)
  | migrate (frame : Nat)
  | peer (port : Nat)
  | service (fault : Nat)
  | timeout (fault : Nat)
  | issue (g w : Nat) (slotB : Bool)
  | idle (clk : Nat)
  | pick
deriving DecidableEq, Repr

structure State where
  /-- the chip cycle counter (R2) -/
  clk : Nat
  agenda : List Turn
  /-- turns that come at a clk: each joins the agenda when the counter reaches it -/
  timers : List (Nat × Turn)
  cur : Option Issue
  /-- counter of the free values; no state of the device -/
  free : Nat
  /-- counter that names operations, posted writes and results; no state of the device -/
  serial : Nat
  /-- the picker's position -/
  picker : Nat
  groups : Tab Group
  mem : Tab Byte
  /-- the bytes that GDDR still holds where a home's dirty line holds others (R397) -/
  unwritten : Tab Byte
  lines : Tab Line
  leases : Tab Nat
  /-- how many writes of memory have been performed, and the bytes that they replaced -/
  writes : Nat
  past : List PastByte
  posted : List PostedWrite
  lags : List ReplicaLag
  /-- lines that hold a version: tag × 2^45 + line number (R110) -/
  versions : List Nat
  tags : Tab FutureTag
  /-- coherence regions in software mode (R425), guest copies die × 2^56 + place of them with their dirty bytes -/
  softRegions : List Nat
  guestCopies : Tab Nat
  guestDirty : List Nat
  tlb : Tab Translation
  remap : Tab FirstName
  window : Window
  faults : List FaultEntry
  faultResults : List FaultResult
  refused : List Refused
  frontWrites : List FrontWrite
  dies : Tab Die
  launches : Tab Launch
  gangs : Tab Gang
  queues : Tab Queue
  contexts : Tab Context
  runs : Tab Run
  /-- forks that wait for tags, in the order in which they began to wait (R108): run, node -/
  forkWaits : List (Nat × Nat)
  /-- per level, the queue at which the next deficit visit starts (R352); the die after which placement scans (R353) -/
  visits : Tab Nat
  lastDie : Nat
  /-- waiting GROWs: group, wave, slot B, granules (R222) -/
  grows : List (Nat × Nat × Bool × Nat)
  copies : List CopyOp
  laneOps : List LaneOp
  heads : Tab Head
  device : DeviceBlock
  ports : Tab Port
  power : Tab Power
  /-- per core, its vector issue of the governor's current window (R446) -/
  vector : Tab VectorUse
  /-- the same of its matrix passes, while they are capped -/
  matrix : Tab VectorUse
  /-- register banks that are awake: core × 16 + bank (R318) -/
  awakeBanks : List Nat
  /-- of a bank, the clk at which its last register was freed (R318) -/
  bankFreed : Tab Nat
  /-- the clk from which on the front end may place the next gang (R354) -/
  placeFrom : Nat
  /-- units that are power-gated (R447) -/
  gatedUnits : List Nat
  health : Health
  trust : Trust
  /-- the system address of BAR0, once the host has assigned it (R430, R459) -/
  bar0 : Option Nat
  /-- MSI-X table bytes, pending bits by vector, and the messages sent, oldest first (R391, R430) -/
  msixTable : Tab Byte
  msixPending : List Nat
  msixSent : List Nat
  /-- what the last read of an outside agent returned, lowest byte first -/
  hostReply : List Byte
  /-- of lines that a core owns: what the bytes that its near atomics have changed hold at the home (R103, R290, R397) -/
  nearOld : Tab Byte
  /-- reports over the management interface: kind (1 die failed, 2 degraded, 3 base-die image failed), die (R388, R441, R449) -/
  management : List (Nat × Nat)
deriving DecidableEq, Repr

/-- Why the machine stops. The rules know no such stop: a trap is a next state. -/
inductive Fault where
  /-- Raised by the meaning of an instruction word when no path has issued it: there is no wave to act on. No step raises it,
  since a step sets the issuing path before it executes. Safe. -/
  | noPath
deriving DecidableEq, Repr

/-- Why a step is not given a meaning. -/
inductive Refusal where
  /-- The instruction has no meaning yet; raised only by an arm of the dispatch. Safe. -/
  | notModelled (mnemonic : String)
deriving DecidableEq, Repr

/-- The machine right after device reset: the boot ROM of the base die is about to start its firmware (R449). -/
def State.reset : State where
  clk := 0
  agenda := [.event (.firmwareBoot 4)]
  timers := []
  cur := none
  free := 0
  serial := 0
  picker := 0
  groups := []
  mem := []
  unwritten := []
  lines := []
  leases := []
  writes := 0
  past := []
  posted := []
  lags := []
  versions := []
  tags := []
  softRegions := []
  guestCopies := []
  guestDirty := []
  tlb := []
  remap := []
  window := {}
  faults := []
  faultResults := []
  refused := []
  frontWrites := []
  dies := []
  launches := []
  gangs := []
  queues := []
  contexts := []
  runs := []
  forkWaits := []
  visits := []
  lastDie := 3
  grows := []
  copies := []
  laneOps := []
  heads := []
  device := {}
  ports := []
  power := []
  vector := []
  matrix := []
  awakeBanks := []
  bankFreed := []
  placeFrom := 0
  gatedUnits := []
  health := {}
  trust := {}
  bar0 := none
  msixTable := []
  msixPending := []
  msixSent := []
  hostReply := []
  nearOld := []
  management := []

end Sys2Proof.Machine
end

