-- ==== Sys2Proof/Machine/Translate.lean ====
section
/-!
DEFINITION. Sys2Proof/Machine/Translate.lean: physical addresses, page tables and their walk (R404 to R408), and the
translation an access uses between a change of a mapping and its TLBINV (R99, R390).
-/

namespace Sys2Proof.Machine

open Sys2Proof

/-- A byte of physical memory, trunk version. A byte that nothing has written reads 0. -/
def State.physByte (s : State) (pa : Nat) : Byte := Tab.get 0#8 s.mem pa

/-- n bytes of physical memory, lowest first. -/
def State.physBytes (s : State) (pa : Nat) : Nat → List Byte
  | 0 => []
  | n + 1 => s.physByte pa :: State.physBytes s (pa + 1) n

/-- The number that n bytes of physical memory hold. -/
def State.physNat (s : State) (pa n : Nat) : Nat := bytesNat (s.physBytes pa n)

/-- The own card's number and the number of cards of the fabric (R411). -/
def State.ownCard (s : State) : Nat := bitsOf s.window.fabricCfg.toNat 0 2
def State.cardCount (s : State) : Nat := bitsOf s.window.fabricCfg.toNat 2 2 + 1

/-- The address of an offset of the own card's memory. -/
def State.ownPa (s : State) (off : Nat) : Nat := s.ownCard * 2 ^ 41 + off % 2 ^ 41

/-- Where a physical address leads (R404). -/
inductive Reach where
  | gddr (card offset : Nat)
  | window (offset : Nat)
  | host (addr : Nat)
  | nothing
deriving DecidableEq, Repr

/-- The first address of the base-die window within a card's space, and its length (R404). -/
def windowBase : Nat := 0x1FE00000000
def windowBytes : Nat := 0x1000

def State.reach (s : State) (pa : Nat) : Reach :=
  if 2 ^ 52 ≤ pa then .nothing
  else if 2 ^ 51 ≤ pa then .host (pa - 2 ^ 51)
  else if bitsOf pa 43 8 ≠ 0 then .nothing
  else
    let card := bitsOf pa 41 2
    let off := pa % 2 ^ 41
    if off < Config.cardBytes then (if card < s.cardCount || card = s.ownCard then .gddr card off else .nothing)
    else if card = s.ownCard && windowBase ≤ off && off < windowBase + windowBytes then .window (off - windowBase)
    else .nothing

/-- Whether a physical address is homed on another card (R118). -/
def State.remote (s : State) (pa : Nat) : Bool :=
  match s.reach pa with
  | .gddr card _ => card ≠ s.ownCard
  | _ => false

/-- The outcome of a walk (R407): a translation, or a fault of type 1 or 2 with the PA of the leaf entry reached, or 0. -/
inductive Walk where
  | ok (t : Translation)
  | fault (type leaf bits : Nat)
deriving DecidableEq, Repr

/-- Fields of a page-table entry (R406). -/
def pteFrame (e : Nat) : Nat := bitsOf e 12 40
def pteValid (e : Nat) : Bool := bitOf e 0
def pteLeaf (e : Nat) : Bool := bitOf e 1

/-- Whether a leaf holds a reserved bit or the reserved `fut` 3 (R406, R407). `c64` is a field of level 0 only. -/
def leafReserved (level e : Nat) : Bool :=
  bitsOf e 52 12 ≠ 0 || bitsOf e 10 2 ≠ 0 || bitOf e 2 || bitsOf e 7 2 == 3 || (level ≠ 0 && bitOf e 6)

/-- The size of a leaf's page as a power of two (R405). -/
def leafBits (level e : Nat) : Nat :=
  match level with
  | 2 => 30
  | 1 => 21
  | _ => if bitOf e 6 then 16 else 12

/-- What a leaf gives (R407). -/
def State.leafResult (s : State) (asid va level e pa : Nat) : Walk :=
  if leafReserved level e then .fault 1 pa (leafBits level e)
  else if !bitOf e 5 then .fault 2 pa (leafBits level e)
  else
    let bits := leafBits level e
    let base := pteFrame e * 4096 / 2 ^ bits * 2 ^ bits
    let page := (base + va % 2 ^ bits) / 4096 * 4096
    match s.reach page with
    | .nothing => .fault 1 pa bits
    | .window _ => if asid = 0 then .ok ⟨base, bits, bitOf e 3, bitOf e 4, bitOf e 9, bitsOf e 7 2⟩ else .fault 1 pa bits
    | _ => .ok ⟨base, bits, bitOf e 3, bitOf e 4, bitOf e 9, bitsOf e 7 2⟩

/-- The level-0 entry that an access uses: when the 16 entries of an aligned 64 KiB block that carry `c64` differ, any one of
them (R407). -/
def State.level0Entry (s : State) (table va : Nat) : Nat :=
  let own := table + 8 * bitsOf va 12 9
  let e := s.physNat own 8
  if pteValid e && pteLeaf e && bitOf e 6 then
    let first := table + 8 * (bitsOf va 16 5 * 16)
    let es := (List.range 16).map fun i => s.physNat (first + 8 * i) 8
    if es.all fun x => x == e then own else first + 8 * (Config.freeNat s.free va % 16)
  else own

/-- The levels of a walk below the current table, highest first (R405). -/
def State.walkFrom (s : State) (asid va table : Nat) : List Nat → Walk
  | [] => .fault 1 0 12
  | level :: rest =>
    let pa := if level = 0 then s.level0Entry table va else table + 8 * bitsOf va (12 + 9 * level) 9
    let e := s.physNat pa 8
    if !pteValid e then .fault 1 0 12
    else if pteLeaf e then (if 3 ≤ level then .fault 1 0 12 else s.leafResult asid va level e pa)
    else if level = 0 then .fault 1 0 12
    else if bitsOf e 2 10 ≠ 0 then .fault 1 0 12
    else s.walkFrom asid va (pteFrame e * 4096) rest

/-- The root of an ASID's tables (R410). -/
def State.asidRoot (s : State) (asid : Nat) : Nat := s.physNat (s.window.asidBase + 32 * asid) 8

/-- A walk of the page tables (R405 to R407). ASID 0 is mapped so that VA[55:0] is the physical address (R380). -/
def State.walk (s : State) (asid va : Nat) : Walk :=
  if asid = 0 then
    match s.reach (va / 4096 * 4096) with
    | .nothing => .fault 1 0 12
    | _ => .ok ⟨va / 4096 * 4096, 12, true, true, false, 0⟩
  else
    let root := s.asidRoot asid
    if root = 0 then .fault 1 0 12 else s.walkFrom asid va root [4, 3, 2, 1, 0]

/-- The key of a 4 KiB page of an ASID in the TLB's table. -/
def tlbKey (asid va : Nat) : Nat := asid * 2 ^ 45 + va / 4096

/-- The translation an access uses: the tables', or one that a TLB or a cache still keeps, until TLBINV purges it (R99, R390). -/
def State.translate (s : State) (asid va : Nat) : Walk :=
  match s.tlb.find? (tlbKey asid va) with
  | none => s.walk asid va
  | some t => if s.walk asid va = .ok t then .ok t else if Config.freeChoice s.free va then .ok t else s.walk asid va

/-- The physical address that a translation gives. A page's frame is aligned (R405, R406). -/
def Translation.pa (t : Translation) (va : Nat) : Nat := t.base / 4096 * 4096 + va % 2 ^ t.bits

/-- The state with a translation kept for later accesses (R413: never one that ended in a fault). -/
def State.keepTranslation (s : State) (asid va : Nat) : State :=
  match s.translate asid va with
  | .ok t => { s with tlb := s.tlb.set (tlbKey asid va) t }
  | .fault _ _ _ => s

/-- What an access meets at the controller that translates for it: while a fault entry for the page is pending there, the access waits on
that entry, whatever the tables say by then (R329, R418). A translation that is kept reaches no controller. -/
def State.fill (s : State) (asid va ctrl : Nat) : Walk :=
  match s.tlb.find? (tlbKey asid va), s.faults.find? fun e => e.holds asid va && e.ctrl == ctrl with
  | none, some e => .fault e.type e.leaf e.bits
  | _, _ => s.translate asid va

/-- Whether a virtual address is canonical: bits [63:57] equal bit 56 (R88). -/
def canonical (va : Nat) : Bool := bitsOf va 57 7 == (if bitOf va 56 then 127 else 0)

/-- The four apertures of a wave (R89). -/
inductive Aperture where
  | scratch | hive | registers | save
deriving DecidableEq, Repr

/-- Where a 64-bit address leads: memory, an aperture at an offset, or the sub-cause of PROTECTION (R88, R89, R360). -/
inductive Region where
  | memory
  | aperture (a : Aperture) (off : Nat)
  | outside (sub : Nat)
deriving DecidableEq, Repr

def regionOf (va : Nat) : Region :=
  if !canonical va then .outside 1
  else if !bitOf va 56 then .memory
  else
    let off := va % 2 ^ 48
    match va / 2 ^ 48 with
    | 0xFF80 => if off < 0x40000 then .aperture .scratch off else .outside 2
    | 0xFF81 => if off < 0x100000 then .aperture .hive off else .outside 2
    | 0xFF82 => if off < 0x6000 then .aperture .registers off else .outside 2
    | 0xFF83 => if off < 0x4000 then .aperture .save off else .outside 2
    | _ => .outside 2

end Sys2Proof.Machine
end

