-- ==== Sys2Proof/Machine/Memory.lean ====
section
/-!
DEFINITION. Sys2Proof/Machine/Memory.lean: the bytes of memory and of scratchpads by place, lines at their home slices with
leases, ownership, guests and caps (R100 to R104, R419 to R424), versions of futures (R108 to R111, R426 to R429), replicas of
REPL pages (R422) and guest copies of software-managed regions (R425).

A PLACE is a number: tag × 2^52 + physical address for memory (tag 0 the trunk), 2^60 + group key × 2^18 + offset for a
scratchpad, 2^61 + offset for the base-die window, 2^61 + 2^40 + offset for BAR0. A line is a place divided by 128.
-/

namespace Sys2Proof.Machine

open Sys2Proof

def memPlace (tag pa : Nat) : Nat := tag * 2 ^ 52 + pa
def scratchPlace (gk off : Nat) : Nat := 2 ^ 60 + gk * 2 ^ 18 + off
def windowPlace (off : Nat) : Nat := 2 ^ 61 + off
def bar0Place (off : Nat) : Nat := 2 ^ 61 + 2 ^ 40 + off
def isScratch (place : Nat) : Bool := 2 ^ 60 ≤ place && place < 2 ^ 61
/-- Whether a place is a register of the device and not storage. -/
def isDevice (place : Nat) : Bool := 2 ^ 61 ≤ place && place < 2 ^ 62
/-- A byte of a wave's save slot, as a transaction buffers it. -/
def savePlace (gk wi off : Nat) : Nat := 2 ^ 62 + (gk * 64 + wi) * 2 ^ 14 + off
/-- The tag and the physical address of a memory place. -/
def placeTag (place : Nat) : Nat := place / 2 ^ 52
def placePa (place : Nat) : Nat := place % 2 ^ 52
/-- The group key and the offset of a scratch place. -/
def placeGroup (place : Nat) : Nat := (place - 2 ^ 60) / 2 ^ 18
def placeOffset (place : Nat) : Nat := place % 2 ^ 18
def lineOf (place : Nat) : Nat := place / 128

/-- The die whose slices are the home of a line: VA[8:7], which are bits [8:7] of the physical address (R412). -/
def homeDie (line : Nat) : Nat := line % 4
/-- The die of a core and of a group. -/
def dieOfCore (core : Nat) : Nat := core / Config.coresPerDie
def coreOfGroup (gk : Nat) : Nat := gk / Config.groupSlots
def dieOfGroup (gk : Nat) : Nat := dieOfCore (coreOfGroup gk)
/-- The hive of a core, over the device. -/
def hiveOfCore (core : Nat) : Nat := core / Config.coresPerHive

/-- The canonical form of memory: addresses strictly rising, and no entry equal to what an unlisted byte reads as. -/
abbrev Memory.wf (m : Tab Byte) : Bool := Tab.wf 0#8 m

/-- The byte at a place. Memory that nothing has written reads 0. -/
def State.byteAt (s : State) (place : Nat) : Byte :=
  if isScratch place then
    match s.groups.find? (placeGroup place) with
    | some g => Tab.get 0#8 g.scratch (placeOffset place)
    | none => 0#8
  else Tab.get 0#8 s.mem place

/-- The state with a byte at a place. -/
def State.setByte (s : State) (place : Nat) (b : Byte) : State :=
  if isScratch place then
    match s.groups.find? (placeGroup place) with
    | some g =>
      { s with groups := s.groups.set (placeGroup place) { g with scratch := g.scratch.put 0#8 (placeOffset place) b } }
    | none => s
  else { s with mem := s.mem.put 0#8 place b }

/-- Several bytes, in order. -/
def State.setBytes (s : State) : List (Nat × Byte) → State
  | [] => s
  | (p, b) :: r => State.setBytes (s.setByte p b) r

/-- Pairs of consecutive places with the bytes that go there. -/
def placed (place : Nat) : List Byte → List (Nat × Byte)
  | [] => []
  | b :: r => (place, b) :: placed (place + 1) r

/-- The offset in BAR0 that a physical address reaches, once the host has placed BAR0 (R459). -/
def State.bar0Offset (s : State) (pa : Nat) : Option Nat :=
  match s.reach pa, s.bar0 with
  | .host a, some b => if b ≤ a && a < b + 2 ^ 26 then some (a - b) else none
  | _, _ => none

/-- The trunk place of a physical address: memory, or a register of the device (R411, R459). -/
def State.physPlace (s : State) (pa : Nat) : Nat :=
  match s.reach pa, s.bar0Offset pa with
  | .window off, _ => windowPlace off
  | _, some off => bar0Place off
  | _, none => memPlace 0 pa

/-! ## Lines -/

def State.line (s : State) (n : Nat) : Line := Tab.get {} s.lines n
def State.setLine (s : State) (n : Nat) (l : Line) : State := { s with lines := s.lines.put {} n l }

/-- The lease class of a heat state, in clk (R102). -/
def leaseClk (heat : Nat) : Nat :=
  match heat with
  | 0 => 4096
  | 1 => 1024
  | 2 => 256
  | _ => 64

/-- Whether a trunk line has a version that is not yet folded or scrubbed (R427). -/
def State.hasVersions (s : State) (line : Nat) : Bool := s.versions.any fun v => v % 2 ^ 45 == line % 2 ^ 45

/-- The key of a version in `versions`. -/
def versionKey (tag line : Nat) : Nat := tag * 2 ^ 45 + line % 2 ^ 45

/-- Whether a future has its own version of a line (R109). -/
def State.ownVersion (s : State) (tag line : Nat) : Bool := tag ≠ 0 && versionKey tag line ∈ s.versions

/-- The key of a core's lease of a line. -/
def leaseKey (line core : Nat) : Nat := line * 128 + core

/-- Whether a core's L1 copy of a line may still be read (R100). -/
def State.leased (s : State) (line core : Nat) : Bool := s.clk < Tab.get 0 s.leases (leaseKey line core)

/-- Whether a request of wave (g, w) is held up by a cap on the line (R104): every other party's is. -/
def capBlocks (l : Line) (g w : Nat) : Bool :=
  match l.cap with
  | some h => !(h.g == g && h.w == w)
  | none => false

/-- Whether wave (g, w) holds the line's cap: its own accesses proceed (R104). -/
def capMine (l : Line) (g w : Nat) : Bool :=
  match l.cap with
  | some h => h.g == g && h.w == w
  | none => false

/-- A party that is no wave: its requests are held up by every cap. -/
def noWave : Nat := 2 ^ 40

/-- Of the lines that a core owns, those with a byte that it has written there (R103). -/
def State.nearLines (s : State) (which : Nat → Nat → Bool) : List Nat :=
  s.nearOld.foldl (fun (ls : List Nat) (x : Nat × Byte) =>
    match (s.line (lineOf x.1)).owner with
    | some o => if which (lineOf x.1) o then insertNew (lineOf x.1) ls else ls
    | none => ls) []

/-- What owners have written in lines is lost: the lines hold what they held at their homes (R290, R397). -/
def State.undoNear (s : State) (lines : List Nat) : State :=
  { s.setBytes (s.nearOld.filter fun x => lines.contains (lineOf x.1)) with nearOld := s.nearOld.keep fun k _ => !lines.contains (lineOf k) }

/-- A line is given back, with what its owner has written there. -/
def State.returnLine (s : State) (line : Nat) : State :=
  { s.setLine line { s.line line with owner := none } with nearOld := s.nearOld.keep fun k _ => lineOf k ≠ line }

/-! ### The queue of a line (R100, R104, R420) -/

/-- Whether a path still waits for the home of a line, since the clk given: its group is not halted or being saved, and no handler has
started in its place. -/
def State.pathWaits (s : State) (g w : Nat) (slotB : Bool) (since : Nat) : Bool :=
  match s.groups.find? g with
  | none => false
  | some x =>
    match x.waves[w]? with
    | none => false
    | some y =>
      match if slotB then y.slotB else y.slotA with
      | none => false
      | some p =>
        p.wait == .memory && p.since == since && !x.halted && !x.saving &&
          (match y.handler with | some h => h.slotB == slotB | none => true)

/-- Whether the one that made a request still waits for it. -/
def State.requestLives (s : State) : Request → Bool
  | .write _ | .cap _ _ _ => true
  | .read g w slotB since | .own g w slotB since => s.pathWaits g w slotB since
  | .commit g w n =>
    match s.groups.find? g with
    | none => false
    | some x =>
      !x.halted && !x.saving &&
        (match x.waves[w]? with | some y => y.handler.isNone && (match y.tx with | some t => t.firstLine == some n | none => false) | none => false)
  | .engine id =>
    (s.copies.any fun o => o.id == id) || (s.laneOps.any fun o => o.id == id) ||
      List.any s.groups fun (x : Nat × Group) => x.2.waves.any fun w => w.matOps.any fun o => o.id == id

/-- The requests that wait for a line, in the order of their arrival. -/
def State.queueOf (s : State) (line : Nat) : List Request := (s.line line).waiting.filter s.requestLives

/-- Whether it is a request's turn: none waits before it. -/
def State.firstAt (s : State) (line : Nat) (r : Request) : Bool :=
  match s.queueOf line with
  | [] => true
  | x :: _ => x == r

/-- A request joins the queue of a line, once. -/
def State.enqueue (s : State) (line : Nat) (r : Request) : State :=
  let q := s.queueOf line
  s.setLine line { s.line line with waiting := if q.contains r then q else q ++ [r] }

/-- A request leaves it. -/
def State.unqueue (s : State) (line : Nat) (r : Request) : State :=
  if (s.line line).waiting.contains r then s.setLine line { s.line line with waiting := (s.line line).waiting.filter fun x => x ≠ r } else s

/-- Whether a trunk access to the line waits for the commit point of a committing tag (R428). -/
def State.committing (s : State) (line : Nat) : Bool :=
  s.versions.any fun v =>
    v % 2 ^ 45 == line % 2 ^ 45 && (Tab.get {} s.tags (v / 2 ^ 45)).committing

/-- Whether a line lies in host memory. -/
def State.hostLine (s : State) (line : Nat) : Bool := match s.reach (placePa (line * 128)) with | .host _ => true | _ => false

/-- Whether a line is cached nowhere: its controller serves it in place of its home's die (R397), or the host port serves it, when CXL is not
negotiated (R431). -/
def State.bypassed (s : State) (line : Nat) : Bool :=
  (Tab.get {} s.dies (homeDie line)).bypass || (s.hostLine line && !Config.cxl)

/-- Whether a request for a line is held (R398, R401): it has to cross the link of a die that is not up, the home's or the requester's
own; a request from elsewhere to a region whose mode is being switched is queued (R425), and so is every one to a slice whose lines go to the
controllers (R454). With the bypass on, the access performs at the controller, behind the requester's link. Die 4 stands for the base die. -/
def State.homeHeld (s : State) (line die : Nat) : Bool :=
  let down (d : Nat) : Bool := (Tab.get {} s.dies d).link ≠ 0 || (Tab.get {} s.dies d).closing.isSome
  let switching := match s.window.region with | some (r, _) => placePa (line * 128) / 2 ^ 21 % 2 ^ 20 == r && placeTag (line * 128) == 0 | none => false
  if switching && homeDie line ≠ die then true
  else if (Tab.get {} s.dies (homeDie line)).switching && !s.bypassed line then true
  else if s.bypassed line then die < 4 && down die else homeDie line ≠ die && (down (homeDie line) || (die < 4 && down die))

/-- The state as a write sees it that stood on a link before LINKQ: the link still carries it (R398). -/
def State.passing (s : State) (id : Nat) : State :=
  { s with dies := s.dies.mapVals fun _ (x : Die) =>
      match x.closing with | some (mark, _) => if id ≤ mark then { x with closing := none } else x | none => x }

/-- The line that a posted write is of. -/
def PostedWrite.line (p : PostedWrite) : Nat :=
  match p.back, p.bytes with
  | some (line, _), _ => line
  | none, (place, _) :: _ => lineOf place
  | none, [] => 0

/-- The die of the requester with a group's key: the base die for what is no group. -/
def partyDie (g : Nat) : Nat := if g < Config.dies * Config.coresPerDie * Config.groupSlots then dieOfGroup g else 4

/-- Whether the home serves a lease read of the line to a core now (R420): not capped by another party, not owned by
another core, its turn in the line's queue, unless the reader holds the cap that the queue waits for; a trunk line not held back by a
committing tag. A REPL page is read from the die's own replica (R422). -/
def State.readServed (s : State) (line core g w : Nat) (page : PageClass) (first : Bool) : Bool :=
  let l := s.line line
  if page = .repl && homeDie line ≠ dieOfCore core then true
  else
    !capBlocks l g w && (l.owner = none || l.owner = some core) && (capMine l g w || first) &&
      !(placeTag (line * 128) = 0 && s.committing line) && !s.homeHeld line (dieOfCore core)

/-- Whether a line lies in a coherence region that is in software mode (R425). The caller looks at the page's attributes. -/
def State.softLine (s : State) (line : Nat) : Bool := s.softRegions.contains (placePa (line * 128) / 2 ^ 21)

/-- The key of a byte of a die's copy of a line. -/
def guestKey (die place : Nat) : Nat := die * 2 ^ 56 + place

/-- A die fetches a line of a software-managed region into its L2 (R281): bytes that it has written and not written back stay. -/
def State.fetchGuest (s : State) (line die : Nat) : State :=
  { s with guestCopies := (List.range 128).foldl (fun t i =>
      if s.guestDirty.contains (guestKey die (line * 128 + i)) then t
      else t.set (guestKey die (line * 128 + i)) (s.byteAt (line * 128 + i)).toNat) s.guestCopies }

/-- Grant a lease to a core (R100, R420): its expiry is now plus the class of the line's heat, 64 clk while the trunk line has
versions (R427). A core of another die gets it through its die's guest copy, which the home records; a trunk line with
versions has no guests, and a replica is none (R422). In a software-managed region the die's copy stays what it was, or is
fetched anew (R281). A line whose home is bypassed is cached nowhere (R397). -/
def State.grantLease (s : State) (line core : Nat) (page : PageClass) : State :=
  if s.bypassed line then s
  else
  let l := s.line line
  let versioned := placeTag (line * 128) = 0 && s.hasVersions line
  let e := s.clk + (if versioned then 64 else leaseClk l.heat)
  let far := homeDie line ≠ dieOfCore core && !versioned
  let soft := page = .plain && s.softLine line
  let l := if far && page = .repl then l else if far then { l with guests := insertNew (dieOfCore core) l.guests } else { l with exp := max l.exp e }
  let s := { s.setLine line l with leases := s.leases.put 0 (leaseKey line core) (max e (Tab.get 0 s.leases (leaseKey line core))) }
  if soft && far && ((s.guestCopies.find? (guestKey (dieOfCore core) (line * 128))).isNone || Config.freeChoice s.free line) then
    s.fetchGuest line (dieOfCore core)
  else s

/-- The same for a read of wave (g, w): the accesses of the wave that holds the line's cap perform at the home and take no lease (R104). -/
def State.takeLease (s : State) (line core g w : Nat) (page : PageClass) : State :=
  if capMine (s.line line) g w then s else s.grantLease line core page

/-- The latest lease expiry that a die's guest copy has granted (R420). -/
def State.guestExpiry (s : State) (line die : Nat) : Nat :=
  (List.range Config.coresPerDie).foldl (fun m c => max m (Tab.get 0 s.leases (leaseKey line (die * Config.coresPerDie + c)))) 0

/-- Whether a write or far atomic of wave (g, w) performs at the home now (R420): the counter has reached `exp`, no owner, no
guest, `xs` = E, and no other party's cap; a line in a software-managed region asks no guest (R425). -/
def State.writeServed (s : State) (line g w : Nat) : Bool :=
  let l := s.line line
  !capBlocks l g w && l.exp ≤ s.clk && l.owner = none && (l.guests = [] || s.softLine line) &&
    !l.shared && !(placeTag (line * 128) = 0 && s.committing line) && !s.homeHeld line (partyDie g)

/-- The same for a near atomic of a core that may own the line already (R103). -/
def State.nearServed (s : State) (line core g w : Nat) : Bool :=
  let l := s.line line
  (l.owner = some core && !capBlocks l g w && !(placeTag (line * 128) = 0 && s.committing line)) || s.writeServed line g w

/-- A device step that becomes due: it joins the agenda. -/
def State.post (s : State) (i : Instr) : State := { s with agenda := s.agenda ++ [.event i] }

/-- The same when the step does not stand on the agenda already. -/
def State.postOnce (s : State) (i : Instr) : State :=
  if s.agenda.contains (.event i) || s.timers.any fun x => x.2 == .event i then s else s.post i

/-- clk in a microsecond (R2). -/
def clkPerMicro : Nat := 1400

/-- A turn that comes n clk from now. -/
def State.after (s : State) (n : Nat) (t : Turn) : State := { s with timers := s.timers ++ [(s.clk + n, t)] }

/-- A turn that comes in the next clk. -/
def State.later (s : State) (t : Turn) : State := s.after 1 t

/-- A device step that is not due yet is looked at again in the next clk. -/
def State.repost (s : State) (i : Instr) : State := s.after 1 (.event i)

/-- Heat rises when a write or atomic of a core finds an unexpired lease or an ownership of another core (R102); at 3 such an arrival starts
the 4,096 clk of the fall again (DEDUCED, log entry 114). -/
def State.heatUp (s : State) (line core : Nat) : State :=
  let l := s.line line
  let otherLease := (List.range (Config.dies * Config.coresPerDie)).any fun c => c ≠ core && s.leased line c
  let otherOwner := match l.owner with | some o => o ≠ core | none => false
  if core < Config.dies * Config.coresPerDie && (otherLease || otherOwner) then
    (s.setLine line { l with heat := min 3 (l.heat + 1), heatAt := s.clk }).postOnce (.heatDecay line)
  else s

/-- What the home asks for so that a blocked write may perform: invalidations of guests, recall of the owner, E from the
controller; the end of the leases comes with time (R420, R423). -/
def State.requestExclusive (s : State) (line : Nat) : State :=
  let l := s.line line
  let s := l.guests.foldl (fun s d => s.postOnce (.guestInvalidate d line)) s
  let s := if l.owner = none then s else s.postOnce (.ownershipRecall line)
  if l.shared then s.postOnce (.exclusiveRequest s.ownCard line) else s

/-- The line at whose home a write that performs at once waits: the trunk's while a future has no version of it (R110, R427). -/
def State.writeLine (s : State) (line : Nat) : Nat :=
  if line / 2 ^ 45 ≠ 0 && !s.ownVersion (line / 2 ^ 45) line then line % 2 ^ 45 else line

/-- A request for a line that is to be written arrives: it joins the queue, its arrival may raise the line's heat (R102), and what stands
against it is asked to go. -/
def State.askLine (s : State) (line core : Nat) (r : Request) : State :=
  let s := if (s.line line).waiting.contains r then s else s.heatUp line core
  (s.enqueue line r).requestExclusive line

/-! ## Versions -/

/-- Versions of a line that are not folded or scrubbed, the trunk not counted. -/
def State.versionCount (s : State) (line : Nat) : Nat := (s.versions.filter fun v => v % 2 ^ 45 == line % 2 ^ 45).length

/-- Versions in the spill area: of each line those beyond the 8 resident ones, the trunk included (R111). -/
def State.spilled (s : State) : Nat :=
  let lines := s.versions.foldl (fun (ls : List Nat) v => insertNew (v % 2 ^ 45) ls) []
  lines.foldl (fun n l => n + (s.versionCount l - 7)) 0

/-- Whether one more version of the line can be placed (R111, R426). -/
def State.versionFits (s : State) (line : Nat) : Bool :=
  s.versionCount line < 7 || (s.spilled + 1) * 128 ≤ s.window.spillSize

/-- The class of a page (R106). -/
def Translation.page (t : Translation) : PageClass := if t.repl then .repl else if t.fut = 1 then .ver else .plain

/-- The bytes of a line as (place of another tag, byte). -/
def State.lineBytes (s : State) (fromLine toLine : Nat) : List (Nat × Byte) :=
  (List.range 128).map fun i => (toLine * 128 + i, s.byteAt (fromLine * 128 + i))

/-- The line number of a tag's version of a trunk line. -/
def versionLine (tag line : Nat) : Nat := tag * 2 ^ 45 + line % 2 ^ 45

/-- Create a future's version of a line: a copy of the whole trunk line (R110). -/
def State.createVersion (s : State) (tag line : Nat) : State :=
  if s.ownVersion tag line then s
  else
    let s := { s with versions := insertSorted (versionKey tag line) s.versions }
    s.setBytes (s.lineBytes (line % 2 ^ 45) (versionLine tag line))

/-- Whether the trunk line lets a version be created now: its guests have gone, its leases have run out, no trunk cap holds it
(R105, R427). -/
def State.versionReady (s : State) (tag line : Nat) : Bool :=
  s.ownVersion tag line ||
    (let l := s.line (line % 2 ^ 45)
     l.guests = [] && l.exp ≤ s.clk && l.cap = none && l.owner = none)

/-! ## Reading -/

/-- The place that a wave of tag t reads for a physical address (R107, R109): its own version where it has one. -/
def State.viewPlace (s : State) (tag : Nat) (t : Translation) (pa : Nat) : Nat :=
  if t.fut = 1 && !t.repl && s.ownVersion tag (lineOf pa) then memPlace tag pa else memPlace 0 pa

/-- What a die's replica of a byte of a REPL page still holds, when a write has not reached it yet (R280, R422). A party that has made
such a write reads no value older than its own (R185). -/
def State.replicaByte (s : State) (die place : Nat) (own : ReplicaLag → Bool) : Option Byte :=
  s.lags.foldl (fun (o : Option Byte) r =>
    if r.die ≠ die || r.place ≠ place then o
    else if own r then none
    else match o with
      | some b => some b
      | none => some r.old) none

/-- The byte that a party on a die reads at a place: what its replica of a REPL page still holds, or what its die's copy of a
line in a software-managed region holds (R425), or the home's byte. -/
def State.readByteAs (s : State) (die place : Nat) (own : ReplicaLag → Bool) : Byte :=
  match s.replicaByte die place own with
  | some b => b
  | none =>
    match s.guestCopies.find? (guestKey die place) with
    | some b => BitVec.ofNat 8 b
    | none => s.byteAt place

def State.readByte (s : State) (die place : Nat) : Byte := s.readByteAs die place fun _ => false

/-- Reads of a party of a die, with a wave's own posted bytes in front (R185, R421). -/
def State.waveByte (s : State) (die g w place : Nat) : Byte :=
  match (s.posted.filter fun p => p.g == g && p.w == w).reverse.findSome? fun p =>
      (p.bytes.reverse.find? fun b => b.1 == place).map (·.2) with
  | some b => b
  | none => s.readByteAs die place fun r => r.g == g && r.w == w

/-! ## Performing a write -/

/-- A write performs in the writing die's copy of a line of a software-managed region that is homed elsewhere (R425). -/
def State.writeGuest (s : State) (die : Nat) (bytes : List (Nat × Byte)) : State :=
  { s with guestCopies := bytes.foldl (fun t b => t.set (guestKey die b.1) b.2.toNat) s.guestCopies
           guestDirty := bytes.foldl (fun d b => insertNew (guestKey die b.1) d) s.guestDirty }

/-- Bytes that a die's copy of a line under software management holds follow the home's (R281). -/
def State.refreshGuest (s : State) (die : Nat) (bytes : List (Nat × Byte)) : State :=
  { s with guestCopies := bytes.foldl (fun t b =>
      if (t.find? (guestKey die b.1)).isSome then t.set (guestKey die b.1) b.2.toNat else t) s.guestCopies }

/-- The bytes that a write at the home is about to replace stand in GDDR until the line is written back; a controller writes them at
once (R397). -/
def State.noteUnwritten (s : State) (bytes : List (Nat × Byte)) : State :=
  { s with unwritten := bytes.foldl (fun t b =>
      if isScratch b.1 || s.bypassed (lineOf b.1) || (t.find? b.1).isSome then t else t.set b.1 (s.byteAt b.1)) s.unwritten }

/-- A line leaves every L1, L2 and version cache; a die's dirty bytes of it are written back first. It is cold when it comes again
(R102). -/
def State.purgeLine (s : State) (line : Nat) : State :=
  let mine (k : Nat) : Bool := k % 2 ^ 56 / 128 == line
  let dirty := (s.guestDirty.filter mine).map fun k => (k % 2 ^ 56, BitVec.ofNat 8 (Tab.get 0 s.guestCopies k))
  let s := s.setBytes dirty
  let s := s.setLine line { s.line line with guests := [], owner := none, heat := 0, heatAt := 0 }
  { s with
    unwritten := s.unwritten.keep fun k _ => lineOf k ≠ line
    nearOld := s.nearOld.keep fun k _ => lineOf k ≠ line
    guestDirty := s.guestDirty.filter fun k => !mine k
    guestCopies := s.guestCopies.keep fun k _ => !mine k
    leases := s.leases.keep fun k _ => k / 128 % 2 ^ 45 ≠ line }

/-- The byte of a place when so many writes of memory had been performed. -/
def byteAsOf (t place : Nat) (now : Byte) : List PastByte → Byte
  | [] => now
  | x :: r => if x.place = place && t < x.at_ then x.byte else byteAsOf t place now r

/-- A performed write takes its number; the bytes that it replaces are remembered (R277). -/
def State.notePast (s : State) (bytes : List (Nat × Byte)) : State :=
  { s with writes := s.writes + 1, past := s.past ++ bytes.map fun b => ⟨s.writes + 1, b.1, s.byteAt b.1⟩ }

/-- Bytes of one line perform at its home: the guests are cleared (R420), the other dies' replicas of a REPL page still hold the old
bytes until their updates (R422); a copy that the die holds under software management takes them too. -/
def State.performWrite (s : State) (id g w : Nat) (page : PageClass) (bytes : List (Nat × Byte)) : State :=
  match bytes with
  | [] => s
  | (place, _) :: _ =>
    let line := lineOf place
    let home := homeDie line
    let s := if isScratch place then s else s.setLine line { s.line line with guests := [] }
    let s :=
      if page = .repl then
        let others := (List.range 3).map fun i => (home + 1 + i) % 4
        let s := { s with lags := s.lags ++ (others.flatMap fun d => bytes.map fun b => (⟨id, g, w, d, b.1, s.byteAt b.1⟩ : ReplicaLag)) }
        others.foldl (fun s d => s.post (.replicaUpdate id d)) s
      else s
    ((s.noteUnwritten bytes).notePast bytes).setBytes bytes

end Sys2Proof.Machine
end

