-- ==== Sys2Proof/Machine/Front.lean ====
section
/-!
DEFINITION. Sys2Proof/Machine/Front.lean: what the firmware and the front end write and raise on behalf of a context: posted
writes, fault entries (R415), the device error ring (R435 to R438), MSI-X messages (R391), a queue's error log (R337, R361),
completion records (R342, R343).
-/

namespace Sys2Proof.Machine

open Sys2Proof

def State.context (s : State) (i : Nat) : Context := Tab.get {} s.contexts i
def State.setContext (s : State) (i : Nat) (c : Context) : State := { s with contexts := s.contexts.put {} i c }
def State.die (s : State) (d : Nat) : Die := Tab.get {} s.dies d
def State.setDie (s : State) (d : Nat) (x : Die) : State := { s with dies := s.dies.put {} d x }
/-- A queue's page at device reset: its level is q ÷ 64 (R331). -/
def queueReset (q : Nat) : Queue := { level := q / 64 }
def State.queue (s : State) (q : Nat) : Queue := Tab.get (queueReset q) s.queues q
def State.setQueue (s : State) (q : Nat) (x : Queue) : State := { s with queues := s.queues.put (queueReset q) q x }
def State.tag (s : State) (t : Nat) : FutureTag := Tab.get {} s.tags t
def State.setTag (s : State) (t : Nat) (x : FutureTag) : State := { s with tags := s.tags.put {} t x }
def State.port (s : State) (p : Nat) : Port := Tab.get {} s.ports p
def State.setPort (s : State) (p : Nat) (x : Port) : State := { s with ports := s.ports.put {} p x }
def State.head (s : State) (h : Nat) : Head := Tab.get {} s.heads h
def State.setHead (s : State) (h : Nat) (x : Head) : State := { s with heads := s.heads.put {} h x }

/-- A fresh number for an operation, a posted write or a result. -/
def State.fresh (s : State) : State := { s with serial := s.serial + 1 }

/-- The parts of a byte list that lie in one line each. -/
def splitLines (place : Nat) (bytes : List Byte) : List (List (Nat × Byte)) :=
  let all := placed place bytes
  let lines := all.foldl (fun (ls : List Nat) b => insertNew (lineOf b.1) ls) []
  lines.map fun n => all.filter fun b => lineOf b.1 == n

/-- Post a write of one line: it is performed by HOME_WRITE (R421). Its arrival may raise the line's heat (R102). -/
def State.postWrite (s : State) (p : PostedWrite) : State :=
  match p.bytes with
  | [] => s
  | (place, _) :: _ =>
    let s := s.fresh
    let s := if isScratch place || isDevice place then s else s.heatUp (lineOf place) p.core
    { s with posted := s.posted ++ [{ p with id := s.serial }] }.post (.homeWrite s.serial)

/-- Post a lane's part of a store: the lanes of one store reach a line as one request, so that no other party's write falls between
them (R296). `first` is how many posted writes stood before the store. -/
def State.postLane (s : State) (first : Nat) (p : PostedWrite) : State :=
  match p.bytes with
  | [] => s
  | (place, _) :: _ =>
    let same (x : PostedWrite) : Bool := match x.bytes with | b :: _ => lineOf b.1 == lineOf place | [] => false
    if (s.posted.drop first).any same then
      { s with posted := s.posted.take first ++ (s.posted.drop first).map fun x => if same x then { x with bytes := x.bytes ++ p.bytes } else x }
    else s.postWrite p

/-- Whether all writes of a party are performed, replicas included (R186, R280, R421). -/
def State.quiet (s : State) (g w : Nat) : Bool :=
  !(s.posted.any fun p => p.g == g && p.w == w) && !(s.lags.any fun r => r.g == g && r.w == w)

/-- Whether those that it issued up to number `mark` are. -/
def State.performedTo (s : State) (g w mark : Nat) : Bool :=
  !(s.posted.any fun p => p.g == g && p.w == w && p.id ≤ mark) && !(s.lags.any fun r => r.g == g && r.w == w && r.id ≤ mark)

/-- Whether the commit point of an FCOMMIT that a wave issued up to number `mark` is to come: the wave's later accesses come after it
(R227). -/
def State.commitPending (s : State) (g w mark : Nat) : Bool :=
  List.any s.tags fun (x : Nat × FutureTag) =>
    x.2.committing && (match x.2.committer with | some (g', w', m) => g' == g && w' == w && m ≤ mark | none => false)

/-- The party of the host's posted writes (R282). -/
def hostParty : Nat := noWave + 1

/-- Whether posted writes of the host have not performed, and one more behind them. -/
def State.hostWaits (s : State) : Bool := s.posted.any fun p => p.g == hostParty
def State.postHost (s : State) (bytes : List (Nat × Byte)) : State :=
  s.postWrite { id := 0, g := hostParty, w := 0, core := 127, tag := 0, bytes := bytes, ordered := true }

/-- The party that the front end writes as, and the core number its requests carry: no core of a die. -/
def frontParty : Nat := noWave
def frontCore : Nat := 127

/-! ## MSI-X (R391) -/

/-- A byte of the MSI-X table at reset: PCIe sets the mask bit of every vector control word. -/
def msixDefault (i : Nat) : Byte := if i % 16 = 12 then 1#8 else 0#8
def State.msixByte (s : State) (i : Nat) : Byte := Tab.get (msixDefault i) s.msixTable i

/-- Whether a vector's table entry masks it: bit 0 of its vector control word. -/
def State.msixMasked (s : State) (v : Nat) : Bool := (s.msixByte (16 * v + 12)).getLsbD 0

/-- Send an MSI-X vector; a masked one sets its pending bit. -/
def State.sendMsix (s : State) (v : Nat) : State :=
  if s.msixMasked v then { s with msixPending := insertNew v s.msixPending } else { s with msixSent := s.msixSent ++ [v] }

/-- Raise a context's host interrupt. -/
def State.hostInterrupt (s : State) (ctx : Nat) : State :=
  let c := s.context ctx
  s.setContext ctx { c with interrupts := c.interrupts + 1 }

/-! ## The device error ring (R434 to R438) -/

/-- What a record says beside the clk and the card (R436). -/
structure ErrorInfo where
  va : Nat := 0
  pa : Nat := 0
  ctx : Nat := 0xFFF
  tag : Nat := 0
  value0 : Nat := 0
  value1 : Nat := 0
  die : Nat := 4
  unit : Nat := 0
  source : Nat := 0
  kind : Nat := 0
  action : Nat := 0
deriving DecidableEq, Repr

/-- host_pid of a context's ASID entry (R410); 0 for none. -/
def State.hostPid (s : State) (ctx : Nat) : Nat :=
  if ctx = 0xFFF then 0 else s.physNat (s.window.asidBase + 32 * ctx + 20) 4

/-- The 64 bytes of an error record (R436). -/
def State.errorBytes (s : State) (e : ErrorInfo) : List Byte :=
  natBytes 18 0 ++
    (natBytes 1 e.action ++ natBytes 1 e.kind ++ natBytes 1 e.source ++ natBytes 1 e.unit ++ natBytes 1 e.die ++
      natBytes 1 s.ownCard ++ natBytes 4 e.value0 ++ natBytes 4 e.value1 ++
      natBytes 4 (e.tag * 2 ^ 16 + e.ctx * 2 ^ 20) ++ natBytes 4 (s.hostPid e.ctx) ++
      natBytes 8 (e.pa / 128 * 128) ++ natBytes 8 (e.va / 4096 * 4096) ++ natBytes 8 s.clk)

/-- Write an error record (R435): counted always; while the ring is enabled, written, as a release, and announced once it is in memory. -/
def State.errorRecord (s : State) (e : ErrorInfo) : State :=
  let dv := s.device
  let cfg := dv.errCfg.toNat
  let entries := 2 ^ bitsOf cfg 0 5
  let at_ := dv.errBase.toNat + 64 * (dv.errPut.toNat % entries)
  let s' := { s with device := { dv with errPut := dv.errPut + 1#32 } }
  if bitOf cfg 8 then
    let parts := splitLines (memPlace 0 at_) (s.errorBytes e)
    parts.foldl (fun s b =>
      s.postWrite { id := 0, g := frontParty, w := 0, core := frontCore, tag := 0, bytes := b, ordered := true, front := some (0, 5, bitsOf cfg 16 8) }) s'
  else s'

/-! ## Fault entries (R415) -/

/-- The bytes of a fault entry. -/
def faultBytes (e : FaultEntry) : List Byte :=
  natBytes 8 e.leaf ++ natBytes 4 0 ++ natBytes 2 (e.ctrl + 16 * e.type + 256 * e.kind + 4096 * e.tag) ++ natBytes 2 e.asid ++
    natBytes 8 (e.va / 128 * 128) ++ natBytes 8 e.t

/-- The controller that translates a page (R413). -/
def controllerOf (asid va : Nat) : Nat := (asid + va / 4096) % 12

/-- The die to whose firmware core the fault entry of an address goes: that of its home slice (R412, R415). -/
def faultDie (va : Nat) : Nat := va / 128 % 4

/-- The lowest-numbered die whose firmware is ready (R415); die 0 when none is. -/
def State.readyDie (s : State) : Nat := ((List.range Config.dies).find? fun d => (s.die d).ready).getD 0

/-- Whether a die takes fault entries and doorbells: its `schedmask` is not 0, its bypass is off, its link is up (R453). -/
def State.takesWork (s : State) (d : Nat) : Bool := (s.die d).schedmask ≠ 0#32 && (s.die d).link = 0 && !(s.die d).bypass

/-- The die that serves what a die would serve: itself, or, while it takes no work, the lowest-numbered one that is ready and does (R453). -/
def State.serverOf (s : State) (d : Nat) : Nat :=
  if s.takesWork d then d
  else
    ((List.range Config.dies).find? fun x => (s.die x).ready && (s.die x).link = 0 && (s.die x).schedmask ≠ 0#32).getD d

/-- An event for the firmware core that serves the front end (R402, R453). -/
def State.wakeFront (s : State) : State :=
  let d := s.serverOf s.readyDie
  s.setDie d { s.die d with event := true }

/-- Queue a fault entry to a die, or join the entry that already waits for the same page (R413, R415). While 4,096 entries
stand in the queue the request waits and asks again. -/
def State.queueFault (s : State) (die asid va tag kind type leaf bits ctrl : Nat) (waiter : Waiter) : State :=
  let add (e : FaultEntry) : FaultEntry :=
    if waiter ∈ e.waiters then e else { e with waiters := e.waiters ++ [waiter], addrs := e.addrs ++ [(waiter, va)] }
  match s.faults.find? fun e => e.holds asid va && e.ctrl == ctrl with
  | some e => { s with faults := replaceFirst (fun x => x == e) (add e) s.faults }
  | none =>
    let die := s.serverOf die
    let d := s.die die
    if 4096 ≤ (d.faultTail - d.faultHead).toNat then s
    else
      let s := s.fresh
      let e := add { id := s.serial, die := die, index := d.faultTail.toNat % 4096, va := va, asid := asid, tag := tag, kind := kind,
                     type := type, ctrl := ctrl, leaf := leaf, t := s.clk, bits := bits }
      let base := d.faultBase.toNat + 32 * (d.faultTail.toNat % 4096)
      let s := { s with faults := s.faults ++ [e] }
      let s := s.setDie die { d with faultTail := d.faultTail + 1#32, event := true }
      let s := s.later (.service e.id)
      (splitLines (memPlace 0 base) (faultBytes e)).foldl
        (fun s b => s.postWrite { id := 0, g := frontParty, w := 0, core := frontCore, tag := 0, bytes := b }) s

/-! ## Accesses of the front end -/

/-- Why an access of the front end cannot be made: 0x11 or 0x12, the cause a wave would have met (R456), or it waits. -/
inductive FrontAccess where
  | ok (t : Translation) (pa : Nat)
  | waits (s : State)
  | fails (cause : Nat)
deriving DecidableEq, Repr

/-- The front end goes on: what failed for a party is forgotten. -/
def State.forgive (s : State) (who : Waiter) : State := { s with refused := s.refused.filter fun r => r.who ≠ who }

/-- An access of the front end through a context's ASID; a page that is not resident queues a fault at the port (R413, R415), and one
whose service has failed is out of reach. `kind` is the fault entry's kind. -/
def State.frontAccess (s : State) (who : Waiter) (asid va kind : Nat) (needR needW : Bool) : FrontAccess :=
  if !canonical va || bitOf va 56 then .fails 0x12
  else
    match s.fill asid va 12 with
    | .ok t => if (needR && !t.read) || (needW && !t.write) then .fails 0x12 else .ok t (t.pa va)
    | .fault 2 leaf bits =>
      if s.refused.any fun r => r.holds who asid va then .fails 0x11
      else .waits (s.queueFault s.readyDie asid va 0 kind 2 leaf bits 12 who)
    | .fault _ _ _ => .fails 0x11

/-- The parts of a range that lie in one block of m bytes each, as (address, length). -/
def blockParts (m va n : Nat) : List (Nat × Nat) :=
  if n = 0 then []
  else
    let first := va / m * m
    (List.range ((va % m + n + m - 1) / m)).map fun i =>
      let lo := max va (first + m * i)
      (lo, min (va + n) (first + m * (i + 1)) - lo)

/-- What the front end reads, it waits, or it fails with a cause at an address. -/
inductive Got (α : Type) where
  | ok (x : α)
  | waits (s : State)
  | fails (cause addr : Nat)

/-- Whether a trunk line is held back from a party that is no wave (R104, R401, R428). -/
def State.lineHeld (s : State) (line : Nat) : Bool := (s.line line).cap.isSome || s.committing line || s.homeHeld line 4

/-- n bytes as the front end reads them: the coherent values, its own posted bytes in front. -/
def State.frontBytes (s : State) (pa n : Nat) : List Byte :=
  (List.range n).map fun i => s.waveByte 0 frontParty 0 (memPlace 0 (pa + i))

def State.frontReadParts (s : State) (who : Waiter) (asid : Nat) (needR : Bool) : List (Nat × Nat) → Got (List Byte)
  | [] => .ok []
  | (va, n) :: rest =>
    match s.frontAccess who asid va 1 needR false with
    | .fails c => .fails c va
    | .waits s' => .waits s'
    | .ok _ pa =>
      if s.lineHeld (lineOf (memPlace 0 pa)) then .waits s
      else
        match s.frontReadParts who asid needR rest with
        | .ok bs => .ok (s.frontBytes pa n ++ bs)
        | r => r

/-- Read n bytes through a context's ASID. -/
def State.frontRead (s : State) (who : Waiter) (asid va n : Nat) : Got (List Byte) :=
  s.frontReadParts who asid true (blockParts 128 va n)

/-- The first part of a range whose access does not succeed, with what it meets; none when all do. -/
def State.frontProbe (s : State) (who : Waiter) (asid : Nat) (needR needW : Bool) : List (Nat × Nat) → Option (FrontAccess × Nat)
  | [] => none
  | (va, _) :: rest =>
    match s.frontAccess who asid va (if needW then 2 else 1) needR needW with
    | .ok _ _ => s.frontProbe who asid needR needW rest
    | bad => some (bad, va)

/-- Post the front end's bytes at a physical address. -/
def State.frontPost (s : State) (t : Translation) (pa : Nat) (bytes : List Byte) (ordered : Bool) (front : Option (Nat × Nat × Nat)) : State :=
  (splitLines (s.physPlace pa) bytes).foldl (fun s b =>
    s.postWrite { id := 0, g := frontParty, w := 0, core := frontCore, tag := 0, bytes := b, ordered := ordered, page := t.page, front := front }) s

/-- A write of the front end that could not be performed: its bytes are dropped, a kind-8 record is written and the context's host
interrupt raised (R343). -/
def State.dropFrontWrite (s : State) (asid va kind : Nat) : State :=
  (s.errorRecord { kind := 8, va := va, value0 := kind, source := 12, ctx := asid }).hostInterrupt asid

/-- Write bytes of one page through a context's ASID for the front end (R343): a page that is not resident makes the write wait, and
behind it the completion signals that follow it. -/
def State.frontWritePart (s : State) (asid va : Nat) (bytes : List Byte) (kind : Nat) (release : Bool) (owner : Nat) : State :=
  let f : FrontWrite := ⟨asid, va, bytes, kind, release, owner⟩
  let later := { s with frontWrites := s.frontWrites ++ [f] }
  if release && s.frontWrites.any fun f => f.asid == asid then later
  else
    match s.frontAccess .record asid va 2 false true with
    | .ok t pa => s.frontPost t pa bytes release (some (asid, kind, owner))
    | .waits s' => { s' with frontWrites := s'.frontWrites ++ [f] }
    | .fails _ => s.dropFrontWrite asid va kind

/-- Write bytes through a context's ASID for the front end, page by page. -/
def State.frontWrite (s : State) (asid va : Nat) (bytes : List Byte) (kind : Nat) (release : Bool) (owner : Nat) : State :=
  (blockParts 4096 va bytes.length).foldl (fun s p =>
    s.frontWritePart asid p.1 ((bytes.drop (p.1 - va)).take p.2) kind release owner) s

/-- The front end's waiting writes are tried again, in order; those to a page whose service has failed are dropped (R343). -/
def State.retryFrontWrites (s : State) (failed : Nat → Nat → Bool) : State :=
  s.frontWrites.foldl (fun (s : State) f =>
    if failed f.asid f.va then s.dropFrontWrite f.asid f.va f.kind
    else s.frontWritePart f.asid f.va f.bytes f.kind f.release f.owner) { s with frontWrites := [] }

/-- Whether bytes of a record are still to be performed (R343). -/
def State.recordOpen (s : State) (ctx kind owner : Nat) : Bool :=
  (s.posted.any fun p => p.front == some (ctx, kind, owner)) || s.frontWrites.any fun f => f.asid == ctx && f.kind == kind && f.owner == owner

/-! ## Error logs and completion records -/

/-- Write an entry of a queue's error log and raise its context's host interrupt (R337, R361). A queue that is bound to no context has no
addresses and logs nothing. -/
def State.logError (s : State) (q : Nat) (first type code sub addr : Nat) : State :=
  let x := s.queue q
  if x.ctx = 0 then s
  else
  let at_ := x.errlogBase.toNat + 32 * (x.errlogCount.toNat % 128)
  let s := s.setQueue q { x with errlogCount := x.errlogCount + 1#32 }
  let bytes := natBytes 4 first ++ natBytes 1 type ++ natBytes 1 code ++ natBytes 2 sub ++ natBytes 8 addr ++ natBytes 8 s.clk ++
    natBytes 8 0
  (s.frontWrite x.ctx at_ bytes 2 false 0).hostInterrupt x.ctx

/-- The fields of a completion record before `signal`, from byte 4 on, in two parts around `fmask_cap`, which is the driver's (R342). -/
def Tally.firstBytes (x : Tally) (code : Nat) : List Byte :=
  natBytes 4 code ++ natBytes 8 0 ++ natBytes 8 (x.started.getD 0) ++ natBytes 8 x.ended ++ natBytes 8 x.coreCycles
def Tally.lastBytes (x : Tally) : List Byte :=
  natBytes 4 x.fmasks.length ++ natBytes 2 x.copyErrors ++ natBytes 2 x.rayErrors ++ natBytes 2 x.texErrors ++
    natBytes 2 x.idemRestarts ++ natBytes 8 0
/-- The fmask entries, up to the record's capacity. -/
def Tally.entryBytes (x : Tally) (cap : Nat) : List Byte :=
  (x.fmasks.take cap).flatMap fun e => natBytes 8 e.1 ++ natBytes 4 e.2.1 ++ natBytes 4 e.2.2.toNat

/-- Write a completion record: every other field and every entry before `signal`, which is a release (R342, R343). A record that cannot be
written is dropped whole. -/
def State.writeRecord (s : State) (owner asid addr cap : Nat) (x : Tally) (signal code : Nat) : State :=
  match s.frontProbe .record asid false true [(addr, 64)] with
  | some (.fails _, _) => s.dropFrontWrite asid addr 1
  | _ =>
    let s := s.frontWrite asid (addr + 4) (x.firstBytes code) 1 false owner
    let s := s.frontWrite asid (addr + 44) x.lastBytes 1 false owner
    let s := s.frontWrite asid (addr + 64) (x.entryBytes cap) 1 false owner
    s.frontWrite asid addr (natBytes 4 signal) 1 true owner

/-! ## The trace ring of a context (R378, R379) -/

/-- What `trace_put` reads: it advances once the records below it are in memory (R378). -/
def State.traceShown (s : State) (ctx : Nat) : Word :=
  if s.recordOpen ctx 4 0 then (s.context ctx).traceShown else (s.context ctx).tracePut

/-- Append a record to a context's trace ring; a record that reaches the end of the ring goes on at its start. -/
def State.traceRecord (s : State) (ctx : Nat) (bytes : List Byte) : State :=
  let c := { s.context ctx with traceShown := s.traceShown ctx }
  let size := 2 ^ bitsOf c.traceCfg.toNat 0 5
  let off := c.tracePut.toNat % size
  let head := bytes.take (size - off)
  let tail := bytes.drop (size - off)
  let s := s.setContext ctx { c with tracePut := c.tracePut + BitVec.ofNat 32 bytes.length }
  let s := s.frontWrite ctx (c.traceBase.toNat + off) head 4 false 0
  if tail = [] then s else s.frontWrite ctx c.traceBase.toNat tail 4 false 0

/-- The 16 bytes of a marker record. -/
def markerBytes (linear : Nat) (id : Nat) : List Byte := natBytes 16 (linear % 2 ^ 64 + 2 ^ 64 * (id % 2 ^ 24) + 2 ^ 88)

/-- The 32 bytes of a sample (type 2) or a stop record (type 3) of a wave (R379): its lowest-numbered team with the phase, its cause, its
PC, its group's coordinates, the clk. -/
def waveRecord (type wave : Nat) (team : Option (Nat × Word)) (cause pc gx gy gz clk : Nat) : List Byte :=
  let (id, phase) := match team with | some (i, p) => (i, p.toNat) | none => (0, 0xFFFFFFFF)
  natBytes 32 (type + 2 ^ 8 * (wave % 32) + 2 ^ 32 * (id % 256) + 2 ^ 40 * (cause % 256) + 2 ^ 64 * (gx % 2 ^ 32) + 2 ^ 96 * (gy % 2 ^ 16) +
    2 ^ 112 * (gz % 2 ^ 16) + 2 ^ 128 * (pc % 2 ^ 32) + 2 ^ 160 * phase + 2 ^ 192 * (clk % 2 ^ 64))

end Sys2Proof.Machine
end

