-- ==== Sys2Proof/Machine/Ends.lean ====
section
/-!
DEFINITION. Sys2Proof/Machine/Ends.lean: how groups leave the machine: what dropping a group takes with it, the squash of a
future (R115), the reset of a context (R371), the failure of a firmware core (R388).
-/

namespace Sys2Proof.Machine

open Sys2Proof

/-- Release the caps that a wave holds on lines or has asked for (R146, R196); the queued requests are served by the lines' next
steps. -/
def State.releaseLineCaps (s : State) (g w : Nat) : State :=
  let free (l : Line) : Line :=
    let l := { l with waiting := l.waiting.filter fun r => match r with | .cap g' w' _ => !(g' == g && w' == w) | _ => true }
    match l.cap with
    | some h => if h.g == g && h.w == w then { l with cap := none } else l
    | none => l
  { s with lines := (s.lines.mapVals fun _ l => free l).keep fun _ l => !decide (l = {}) }

/-- Posted writes that will not be performed go, with their places in the queues of their lines. -/
def State.dropPosted (s : State) (p : PostedWrite → Bool) : State :=
  let ids := (s.posted.filter p).map (·.id)
  let free (l : Line) : Line := { l with waiting := l.waiting.filter fun r => match r with | .write id => !ids.contains id | _ => true }
  { s with
    posted := s.posted.filter fun x => !p x
    lines := (s.lines.mapVals fun _ l => free l).keep fun _ l => !decide (l = {}) }

/-- Whether a path of the group waits. -/
def Waiter.ofGroup (w : Waiter) (gk : Nat) : Bool :=
  match w with
  | .path g _ _ | .issuing g _ _ => g == gk
  | _ => false

/-- Everything that a group's waves have in the machine and that goes with them unsaved: caps, posted writes that have not
performed, engine operations, fault replays, waiting GROWs (R115, R151, R371). -/
def State.dropWork (s : State) (gk : Nat) : State :=
  let s := (List.range Config.wavesPerCore).foldl (fun s w => s.releaseLineCaps gk w) s
  let s := s.dropPosted fun p => p.g == gk
  let ops := ((s.copies.filter fun o => o.g == gk).map fun o => Waiter.engine o.id) ++
    ((s.laneOps.filter fun o => o.g == gk).map fun o => Waiter.engine o.id) ++
    (match s.groups.find? gk with
     | some g => g.waves.flatMap fun w => w.matOps.map fun o => Waiter.engine o.id
     | none => [])
  { s with
    copies := s.copies.filter fun o => o.g ≠ gk
    laneOps := s.laneOps.filter fun o => o.g ≠ gk
    faults := s.faults.map fun f => { f with waiters := f.waiters.filter fun w => !(ops.contains w) && !(w.ofGroup gk) }
    faultResults := s.faultResults.filter fun f => f.g ≠ gk
    refused := s.refused.filter fun r => !(ops.contains r.who) && !(r.who.ofGroup gk)
    grows := s.grows.filter fun r => r.1 ≠ gk }

/-- Whether a resident wave of a core holds a register in a bank. -/
def State.bankHeld (s : State) (core bank : Nat) : Bool :=
  List.any s.groups fun (x : Nat × Group) => coreOfGroup x.1 == core && x.2.waves.any fun w => decide (bank < min w.n 16)

/-- The banks of a core in which `s` holds registers and `t` none. -/
def State.banksFreed (s t : State) (core : Nat) : List Nat :=
  (List.range 16).filter fun b => s.bankHeld core b && !t.bankHeld core b

/-- Banks whose last register has just been freed are gated 10 µs later (R318). -/
def State.gateLater (s : State) (core : Nat) (banks : List Nat) : State :=
  { s with bankFreed := banks.foldl (fun (t : Tab Nat) b => t.set (core * 16 + b) s.clk) s.bankFreed
           timers := s.timers ++ banks.map fun b => (s.clk + 14000, .gate core b) }

/-- Whether a core holds no group. -/
def State.coreIdle (s : State) (core : Nat) : Bool := !(List.any s.groups fun (x : Nat × Group) => coreOfGroup x.1 == core)

/-- A core that has fallen idle gates its vector pipes 10 µs later (R447). -/
def State.idleFrom (s : State) (core : Nat) : State := if s.coreIdle core then s.after 14000 (.pipes core) else s

/-- Remove a group without saving it; its resources are free at once. -/
def State.dropGroup (s : State) (gk : Nat) : State :=
  let s := s.dropWork gk
  let t := { s with groups := s.groups.erase gk }
  (t.gateLater (coreOfGroup gk) (s.banksFreed t (coreOfGroup gk))).idleFrom (coreOfGroup gk)

/-- The keys of the resident groups that satisfy p. -/
def State.groupKeys (s : State) (p : Nat → Group → Bool) : List Nat :=
  s.groups.keysWhere p

def State.dropGroups (s : State) (p : Nat → Group → Bool) : State := (s.groupKeys p).foldl State.dropGroup s

/-- A core with waves of a context whose samples are on takes the next one when it is due (R378). -/
def State.startSamples (s : State) (ctx core : Nat) : State :=
  if (s.context ctx).traceCfg.getLsbD 9 then s.postOnce (.traceSample ctx core) else s

/-- Whether a user group is resident on a die. -/
def State.userOn (s : State) (d : Nat) : Bool :=
  List.any s.groups fun (x : Nat × Group) => dieOfGroup x.1 == d && coreOfGroup x.1 % Config.coresPerDie != 0

/-- The banks that a window of n registers needs awake on a core (R318), and its vector pipes (R447). -/
def State.wakeBanks (s : State) (core n : Nat) : State :=
  { s with awakeBanks := (List.range (min n 16)).foldl (fun b i => insertSorted (core * 16 + i) b) s.awakeBanks
           gatedUnits := s.gatedUnits.filter fun u => u ≠ core }

/-- The clk that the gated banks of a window of n registers need to wake, four of them every 6 ns (R318). -/
def State.bankWake (s : State) (core n : Nat) : Nat :=
  let gated := (List.range (min n 16)).filter fun b => !s.awakeBanks.contains (core * 16 + b)
  ceilDiv (ceilDiv gated.length 4 * 42) 5

/-- A planned voltage offset is applied once its die holds no user group (R443). -/
def State.applyOffsets (s : State) : State :=
  { s with power := s.power.mapVals fun d (p : Power) =>
      match p.nextOffset with
      | some x => if s.userOn d then p else { p with offset := x, nextOffset := none }
      | none => p }

/-- Remove the gangs of the launches that satisfy p from the table and from their queues. -/
def State.dropGangs (s : State) (p : Launch → Bool) : State :=
  let dead := s.gangs.keysWhere fun _ x => match s.launches.find? x.launch with | some l => p l | none => true
  { s with
    gangs := s.gangs.keep fun k _ => !dead.contains k
    queues := s.queues.mapVals fun _ q => { q with gangs := q.gangs.filter fun x => !dead.contains x } }

/-- The lowest-numbered team of a wave, with its phase. -/
def State.lowestTeam (s : State) (g : Group) (wi : Nat) : Option (Nat × Word) :=
  match g.launch with
  | some l =>
    match s.launches.find? l with
    | some x => (List.range x.teams.length).findSome? fun i =>
        match x.teams[i]? with
        | some t => if (g.linear, wi) ∈ t.members then some (i, t.phase) else none
        | none => none
    | none => none
  | none => none

/-- The stop records of a group's waves whose transactions a squash discards: code 8, FUTURE_SQUASH, at the PC of the wave's first path
(R115, R207, R379). -/
def State.squashRecords (s : State) (gk : Nat) : State :=
  match s.groups.find? gk with
  | none => s
  | some g =>
    if bitsOf (s.context g.ctx).traceCfg.toNat 0 5 < 12 then s
    else
      (List.range g.waves.length).foldl (fun (s : State) wi =>
        match g.waves[wi]? with
        | none => s
        | some w =>
          if w.tx.isNone then s
          else
            let pc := match w.slotA, w.slotB with | some p, _ => p.pc.toNat | none, some p => p.pc.toNat | none, none => 0
            s.traceRecord g.ctx (waveRecord 3 wi (s.lowestTeam g wi) 8 pc g.gidX g.gidY g.gidZ s.clk)) s

/-- Squash a future with a reason (R115): its waves end unsaved, its versions and deferred effects are discarded, its launches
and waiting gangs go. The tag becomes FREE when scrubbing has finished. -/
def State.squash (s : State) (tag reason : Nat) : State :=
  let t := s.tag tag
  if t.state = .live ∨ t.state = .sealed then
    let mine (_ : Nat) (g : Group) : Bool := g.ctx == t.ctx && g.tag == tag
    let s := ((s.groupKeys mine).foldl State.squashRecords s).dropGroups mine
    let s := s.dropGangs fun l => l.ctx == t.ctx && l.tag == tag
    let c := s.context t.ctx
    let s := s.setContext t.ctx { c with saved := c.saved.filter fun x => x.group.tag ≠ tag }
    let s := { s with launches := s.launches.keep fun _ l => !(l.ctx == t.ctx && l.tag == tag && l.ending.isNone) }
    let s := { s with runs := s.runs.mapVals fun k (r : Run) =>
      if k = t.run then { r with nodes := r.nodes.map fun (n : NodeState) => if n.tag = tag then { n with done := true } else n } else r }
    let s := s.setTag tag { t with state := .squashed, reason := reason, effects := [], committing := false }
    s.post (.scrubbingFinish t.ctx tag)
  else s

/-- Squash every LIVE or SEALED future that satisfies p. -/
def State.squashAll (s : State) (p : FutureTag → Bool) (reason : Nat) : State :=
  (List.range 16).foldl (fun s t => if t ≠ 0 && p (s.tag t) then s.squash t reason else s) s

/-- The queues bound to a context, ascending. -/
def State.boundQueues (s : State) (ctx : Nat) : List Nat := (List.range 256).filter fun q => (s.queue q).ctx == ctx

/-- Reset a context (R371) with the sub-code of its log entries (R361). -/
def State.resetContext (s : State) (ctx sub : Nat) : State :=
  if ctx = 0 then s
  else
    let s := s.dropGroups fun _ g => g.ctx == ctx
    let s := s.squashAll (fun t => t.ctx == ctx) 5
    -- signal 3 to every incomplete launch and running graph run: their completion records are written next
    let ends := (s.launches.keysWhere fun _ l => l.ctx == ctx && l.ending.isNone && !l.written) ++
      s.runs.keysWhere fun _ r => r.ctx == ctx && !r.written
    let s := s.dropGangs fun l => l.ctx == ctx
    let s := { s with
      launches := s.launches.mapVals fun _ (l : Launch) =>
        if l.ctx = ctx && l.ending.isNone then { l with gangs := [], ending := some (3, 0), node := none } else l
      runs := s.runs.mapVals fun _ (r : Run) => if r.ctx = ctx then { r with reset := true } else r
      forkWaits := s.forkWaits.filter fun f => match s.runs.find? f.1 with | some r => r.ctx ≠ ctx | none => false }
    let s := ends.foldl (fun (s : State) i => s.post (.completionSignal i)) s
    let c := s.context ctx
    let s := s.setContext ctx { c with graphs := c.graphs.mapVals fun _ g => { g with run := none } }
    -- code 18 in every bound queue's log, ascending; then enable is cleared
    let s := (s.boundQueues ctx).foldl (fun s q => s.logError q 0 0 18 sub 0) s
    let s := (s.boundQueues ctx).foldl (fun s q => s.setQueue q { s.queue q with enable := false, pending := [], fetched := none }) s
    -- copies of the context that run on from before a queue was bound anew, and packets' bytes that have not performed
    let s := { s with queues := s.queues.mapVals fun _ (q : Queue) =>
      { q with pending := q.pending.filter fun p => match p.2 with | .copy c _ _ _ _ => c ≠ ctx | _ => true } }
    let s := s.dropPosted fun p => match p.front with | some (c, 0, _) => c == ctx | _ => false
    let c := s.context ctx
    s.setContext ctx { c with stopped := false, preempting := false, preemptAge := 0, d1Done := false, heldAge := 0, sliceFor := [], saved := [] }

/-- A double trap of a firmware wave, or its trap whose standard action is fail: the core parks and the die is reported
failed (R361, R388). -/
def State.failFirmware (s : State) (d : Nat) : State :=
  let x := s.die d
  { s.setDie d { x with failed := true, ready := false } with management := s.management ++ [(1, d)] }

end Sys2Proof.Machine
end

