-- ==== Sys2Proof/Decode.lean ====
section
/-!
DEFINITION. Sys2Proof/Decode.lean: from the bits of an instruction word to the instruction, and back. Formats R, J and M of
rule R127, the register field of rule R129, the opcode map of rule R135. The decoder is total and rejects by name. Whether
an operand is one the instruction accepts is no matter of decoding (rule R138 puts it later): see Machine/Shape.lean.
-/

namespace Sys2Proof

/-- The register that field value b names (rule R129). -/
def Reg.ofField (b : BitVec 8) : Reg :=
  if h : b.toNat < 192 then .v ⟨b.toNat, h⟩
  else if h' : b.toNat < 224 then .k ⟨b.toNat - 192, by omega⟩
  else .c ⟨b.toNat - 224, by have := b.isLt; omega⟩

/-- The field value that names register r (rule R129). -/
def Reg.toField : Reg → BitVec 8
  | .v n => BitVec.ofNat 8 n.val
  | .k n => BitVec.ofNat 8 (192 + n.val)
  | .c n => BitVec.ofNat 8 (224 + n.val)

/-- The opcode byte, bits [31:24] (rule R127). -/
def opcodeOf (w : Word) : BitVec 8 := w.extractLsb' 24 8
/-- Field D, bits [23:16]. -/
def fieldD (w : Word) : BitVec 8 := w.extractLsb' 16 8
/-- Field A, bits [15:8]. -/
def fieldA (w : Word) : BitVec 8 := w.extractLsb' 8 8
/-- Field B, bits [7:0]. -/
def fieldB (w : Word) : BitVec 8 := w.extractLsb' 0 8
/-- The 24 bits below the opcode: a displacement, an id or a mode image (rule R127). -/
def low24 (w : Word) : BitVec 24 := w.extractLsb' 0 24
/-- The displacement of TRY, bits [22:0] (rule R127). -/
def low23 (w : Word) : BitVec 23 := w.extractLsb' 0 23
/-- The per-lane flag of TRY, bit [23] (rule R127). -/
def bit23 (w : Word) : Bool := w.getLsbD 23

/-- Fields of a mode image (rule R133). -/
def modeType (m : ModeImage) : Nat := (m.extractLsb' 15 5).toNat
def modeRound (m : ModeImage) : Nat := (m.extractLsb' 12 3).toNat
def modeScope (m : ModeImage) : Nat := (m.extractLsb' 7 3).toNat

/-- A mode image that holds no reserved value and no set bit in [4:0] (rule R133). -/
def modeLegal (m : ModeImage) : Bool :=
  modeType m < 16 && modeRound m < 6 && modeScope m < 7 && m.extractLsb' 0 5 == 0#5

/-- What the decoder says of a word. -/
inductive Decoded where
  | ok (i : Instr)
  /-- The opcode byte is not an instruction (rule R135). -/
  | illegalOp
  /-- A reserved part of the word is not 0: sub-cause 1 the word, 4 the mode image (rules R128, R133, R360). -/
  | reservedField (sub : Nat)
deriving DecidableEq, Repr

/-- The instruction, provided the fields it does not use are 0 (rule R128). -/
def unused (zero : Bool) (i : Instr) : Decoded := if zero then .ok i else .reservedField 1

/-- Opcode row 0x0 (rule R135). -/
def decodeRow0 (w : Word) : Decoded :=
  match (opcodeOf w).toNat % 16 with
  | 0 => unused (fieldD w == 0#8 && fieldA w == 0#8 && fieldB w == 0#8) .nop
  | 1 => if modeLegal (low24 w) then .ok (.mode (low24 w)) else .reservedField 4
  | 2 => unused (fieldA w == 0#8 && fieldB w == 0#8) (.ldlit (.ofField (fieldD w)))
  | 3 => .ok (.bra (low24 w))
  | 4 => unused (fieldD w == 0#8 && fieldB w == 0#8) (.brx (.ofField (fieldA w)))
  | 5 => .ok (.call (low24 w))
  | 6 => unused (fieldD w == 0#8 && fieldA w == 0#8 && fieldB w == 0#8) .ret
  | 7 => unused (fieldD w == 0#8 && fieldA w == 0#8 && fieldB w == 0#8) .join
  | 8 => unused (fieldD w == 0#8 && fieldA w == 0#8 && fieldB w == 0#8) .exit
  | 9 => unused (fieldD w == 0#8 && fieldA w == 0#8 && fieldB w == 0#8) .yield
  | 10 => unused (fieldD w == 0#8 && fieldB w == 0#8) (.sleepuntil (.ofField (fieldA w)))
  | 11 => .ok (.mark (low24 w))
  | 12 => .ok (.idem (low24 w))
  | 13 => unused (fieldD w == 0#8 && fieldA w == 0#8 && fieldB w == 0#8) .idemend
  | 14 => unused (fieldD w == 0#8 && fieldA w == 0#8) (.trap (fieldB w))
  | _ => unused (fieldD w == 0#8 && fieldA w == 0#8 && fieldB w == 0#8) .bkpt

/-- Opcode row 0x1 (rule R135). -/
def decodeRow1 (w : Word) : Decoded :=
  match (opcodeOf w).toNat % 16 with
  | 0 => .ok (.iadd (.ofField (fieldD w)) (.ofField (fieldA w)) (.ofField (fieldB w)))
  | 1 => .ok (.isub (.ofField (fieldD w)) (.ofField (fieldA w)) (.ofField (fieldB w)))
  | 2 => .ok (.imul (.ofField (fieldD w)) (.ofField (fieldA w)) (.ofField (fieldB w)))
  | 3 => .ok (.imulhi (.ofField (fieldD w)) (.ofField (fieldA w)) (.ofField (fieldB w)))
  | 4 => .ok (.nmulhi (.ofField (fieldD w)) (.ofField (fieldA w)) (.ofField (fieldB w)))
  | 5 => .ok (.imad (.ofField (fieldD w)) (.ofField (fieldA w)) (.ofField (fieldB w)))
  | 6 => .ok (.shl (.ofField (fieldD w)) (.ofField (fieldA w)) (.ofField (fieldB w)))
  | 7 => .ok (.shr (.ofField (fieldD w)) (.ofField (fieldA w)) (.ofField (fieldB w)))
  | 8 => .ok (.sar (.ofField (fieldD w)) (.ofField (fieldA w)) (.ofField (fieldB w)))
  | 9 => .ok (.andW (.ofField (fieldD w)) (.ofField (fieldA w)) (.ofField (fieldB w)))
  | 10 => .ok (.orW (.ofField (fieldD w)) (.ofField (fieldA w)) (.ofField (fieldB w)))
  | 11 => .ok (.xorW (.ofField (fieldD w)) (.ofField (fieldA w)) (.ofField (fieldB w)))
  | 12 => .ok (.imin (.ofField (fieldD w)) (.ofField (fieldA w)) (.ofField (fieldB w)))
  | 13 => .ok (.imax (.ofField (fieldD w)) (.ofField (fieldA w)) (.ofField (fieldB w)))
  | 14 => .ok (.nmin (.ofField (fieldD w)) (.ofField (fieldA w)) (.ofField (fieldB w)))
  | _ => .ok (.nmax (.ofField (fieldD w)) (.ofField (fieldA w)) (.ofField (fieldB w)))

/-- Opcode row 0x2 (rule R135). -/
def decodeRow2 (w : Word) : Decoded :=
  match (opcodeOf w).toNat % 16 with
  | 0 => unused (fieldB w == 0#8) (.popc (.ofField (fieldD w)) (.ofField (fieldA w)))
  | 1 => unused (fieldB w == 0#8) (.clz (.ofField (fieldD w)) (.ofField (fieldA w)))
  | 2 => unused (fieldB w == 0#8) (.brev (.ofField (fieldD w)) (.ofField (fieldA w)))
  | 3 => .ok (.bfx (.ofField (fieldD w)) (.ofField (fieldA w)) (.ofField (fieldB w)))
  | 4 => .ok (.bfi (.ofField (fieldD w)) (.ofField (fieldA w)) (.ofField (fieldB w)))
  | 5 => .ok (.add64 (.ofField (fieldD w)) (.ofField (fieldA w)) (.ofField (fieldB w)))
  | 6 => .ok (.sub64 (.ofField (fieldD w)) (.ofField (fieldA w)) (.ofField (fieldB w)))
  | 7 => .ok (.mad64 (.ofField (fieldD w)) (.ofField (fieldA w)) (.ofField (fieldB w)))
  | 8 => .ok (.sel (.ofField (fieldD w)) (.ofField (fieldA w)) (.ofField (fieldB w)))
  | 9 => unused (fieldB w == 0#8) (.mov (.ofField (fieldD w)) (.ofField (fieldA w)))
  | 10 => .ok (.movu (.ofField (fieldD w)) (.ofField (fieldA w)) (.ofField (fieldB w)))
  | 11 => .ok (.shuf (.ofField (fieldD w)) (.ofField (fieldA w)) (.ofField (fieldB w)))
  | 12 => .ok (.shufx (.ofField (fieldD w)) (.ofField (fieldA w)) (.ofField (fieldB w)))
  | 13 => unused (fieldB w == 0#8) (.ballot (.ofField (fieldD w)) (.ofField (fieldA w)))
  | 14 => unused (fieldB w == 0#8) (.vany (fieldD w) (.ofField (fieldA w)))
  | _ => unused (fieldB w == 0#8) (.vall (fieldD w) (.ofField (fieldA w)))

/-- Opcode row 0x3 (rule R135). -/
def decodeRow3 (w : Word) : Decoded :=
  match (opcodeOf w).toNat % 16 with
  | 0 => .ok (.icmpeq (fieldD w) (.ofField (fieldA w)) (.ofField (fieldB w)))
  | 1 => .ok (.icmpne (fieldD w) (.ofField (fieldA w)) (.ofField (fieldB w)))
  | 2 => .ok (.icmplt (fieldD w) (.ofField (fieldA w)) (.ofField (fieldB w)))
  | 3 => .ok (.icmple (fieldD w) (.ofField (fieldA w)) (.ofField (fieldB w)))
  | 4 => .ok (.ncmplt (fieldD w) (.ofField (fieldA w)) (.ofField (fieldB w)))
  | 5 => .ok (.ncmple (fieldD w) (.ofField (fieldA w)) (.ofField (fieldB w)))
  | 6 => .ok (.cmpeq (fieldD w) (.ofField (fieldA w)) (.ofField (fieldB w)))
  | 7 => .ok (.cmpne (fieldD w) (.ofField (fieldA w)) (.ofField (fieldB w)))
  | 8 => .ok (.cmplt (fieldD w) (.ofField (fieldA w)) (.ofField (fieldB w)))
  | 9 => .ok (.cmple (fieldD w) (.ofField (fieldA w)) (.ofField (fieldB w)))
  | 10 => .ok (.cmpun (fieldD w) (.ofField (fieldA w)) (.ofField (fieldB w)))
  | 11 => .ok (.qand (fieldD w) (fieldA w) (fieldB w))
  | 12 => .ok (.qor (fieldD w) (fieldA w) (fieldB w))
  | 13 => .ok (.qxor (fieldD w) (fieldA w) (fieldB w))
  | 14 => unused (fieldB w == 0#8) (.qtov (.ofField (fieldD w)) (fieldA w))
  | _ => unused (fieldB w == 0#8) (.vtoq (fieldD w) (.ofField (fieldA w)))

/-- Opcode row 0x4 (rule R135). -/
def decodeRow4 (w : Word) : Decoded :=
  match (opcodeOf w).toNat % 16 with
  | 0 => .ok (.addT (.ofField (fieldD w)) (.ofField (fieldA w)) (.ofField (fieldB w)))
  | 1 => .ok (.subT (.ofField (fieldD w)) (.ofField (fieldA w)) (.ofField (fieldB w)))
  | 2 => .ok (.mulT (.ofField (fieldD w)) (.ofField (fieldA w)) (.ofField (fieldB w)))
  | 3 => .ok (.fma (.ofField (fieldD w)) (.ofField (fieldA w)) (.ofField (fieldB w)))
  | 4 => .ok (.fms (.ofField (fieldD w)) (.ofField (fieldA w)) (.ofField (fieldB w)))
  | 5 => .ok (.fnma (.ofField (fieldD w)) (.ofField (fieldA w)) (.ofField (fieldB w)))
  | 6 => .ok (.minT (.ofField (fieldD w)) (.ofField (fieldA w)) (.ofField (fieldB w)))
  | 7 => .ok (.maxT (.ofField (fieldD w)) (.ofField (fieldA w)) (.ofField (fieldB w)))
  | 8 => unused (fieldB w == 0#8) (.absT (.ofField (fieldD w)) (.ofField (fieldA w)))
  | 9 => unused (fieldB w == 0#8) (.negT (.ofField (fieldD w)) (.ofField (fieldA w)))
  | 10 => .ok (.clamp (.ofField (fieldD w)) (.ofField (fieldA w)) (.ofField (fieldB w)))
  | 11 => .ok (.divT (.ofField (fieldD w)) (.ofField (fieldA w)) (.ofField (fieldB w)))
  | 12 => unused (fieldB w == 0#8) (.sqrt (.ofField (fieldD w)) (.ofField (fieldA w)))
  | 13 => unused (fieldB w == 0#8) (.rcp (.ofField (fieldD w)) (.ofField (fieldA w)))
  | 14 => unused (fieldB w == 0#8) (.rsq (.ofField (fieldD w)) (.ofField (fieldA w)))
  | _ => unused (fieldB w == 0#8) (.exp2 (.ofField (fieldD w)) (.ofField (fieldA w)))

/-- Opcode row 0x5 (rule R135). -/
def decodeRow5 (w : Word) : Decoded :=
  match (opcodeOf w).toNat % 16 with
  | 0 => unused (fieldB w == 0#8) (.log2 (.ofField (fieldD w)) (.ofField (fieldA w)))
  | 1 => unused (fieldB w == 0#8) (.sinpi (.ofField (fieldD w)) (.ofField (fieldA w)))
  | 2 => unused (fieldB w == 0#8) (.cospi (.ofField (fieldD w)) (.ofField (fieldA w)))
  | 3 => unused (fieldB w == 0#8) (.fract (.ofField (fieldD w)) (.ofField (fieldA w)))
  | 4 => unused (fieldB w == 0#8) (.floor (.ofField (fieldD w)) (.ofField (fieldA w)))
  | 5 => unused (fieldB w == 0#8) (.ceil (.ofField (fieldD w)) (.ofField (fieldA w)))
  | 6 => unused (fieldB w == 0#8) (.trunc (.ofField (fieldD w)) (.ofField (fieldA w)))
  | 7 => unused (fieldB w == 0#8) (.rint (.ofField (fieldD w)) (.ofField (fieldA w)))
  | 8 => .ok (.cvt (.ofField (fieldD w)) (.ofField (fieldA w)) (fieldB w))
  | 9 => .ok (.pack (.ofField (fieldD w)) (.ofField (fieldA w)) (.ofField (fieldB w)))
  | 10 => unused (fieldB w == 0#8) (.unpacklo (.ofField (fieldD w)) (.ofField (fieldA w)))
  | 11 => unused (fieldB w == 0#8) (.unpackhi (.ofField (fieldD w)) (.ofField (fieldA w)))
  | 12 => .ok (.dot2 (.ofField (fieldD w)) (.ofField (fieldA w)) (.ofField (fieldB w)))
  | 13 => .ok (.dot4 (.ofField (fieldD w)) (.ofField (fieldA w)) (.ofField (fieldB w)))
  | 14 => .ok (.scaleb (.ofField (fieldD w)) (.ofField (fieldA w)) (.ofField (fieldB w)))
  | _ => unused (fieldB w == 0#8) (.classT (.ofField (fieldD w)) (.ofField (fieldA w)))

/-- Opcode row 0x6 (rule R135). -/
def decodeRow6 (w : Word) : Decoded :=
  match (opcodeOf w).toNat % 16 with
  | 0 => .ok (.ld8 (.ofField (fieldD w)) (.ofField (fieldA w)) (.ofField (fieldB w)))
  | 1 => .ok (.ld8s (.ofField (fieldD w)) (.ofField (fieldA w)) (.ofField (fieldB w)))
  | 2 => .ok (.ld16 (.ofField (fieldD w)) (.ofField (fieldA w)) (.ofField (fieldB w)))
  | 3 => .ok (.ld16s (.ofField (fieldD w)) (.ofField (fieldA w)) (.ofField (fieldB w)))
  | 4 => .ok (.ld32 (.ofField (fieldD w)) (.ofField (fieldA w)) (.ofField (fieldB w)))
  | 5 => .ok (.ld64 (.ofField (fieldD w)) (.ofField (fieldA w)) (.ofField (fieldB w)))
  | 6 => .ok (.ld128 (.ofField (fieldD w)) (.ofField (fieldA w)) (.ofField (fieldB w)))
  | 7 => .ok (.lda32 (.ofField (fieldD w)) (.ofField (fieldA w)) (.ofField (fieldB w)))
  | 8 => .ok (.lda64 (.ofField (fieldD w)) (.ofField (fieldA w)) (.ofField (fieldB w)))
  | 9 => .ok (.st8 (.ofField (fieldD w)) (.ofField (fieldA w)) (.ofField (fieldB w)))
  | 10 => .ok (.st16 (.ofField (fieldD w)) (.ofField (fieldA w)) (.ofField (fieldB w)))
  | 11 => .ok (.st32 (.ofField (fieldD w)) (.ofField (fieldA w)) (.ofField (fieldB w)))
  | 12 => .ok (.st64 (.ofField (fieldD w)) (.ofField (fieldA w)) (.ofField (fieldB w)))
  | 13 => .ok (.st128 (.ofField (fieldD w)) (.ofField (fieldA w)) (.ofField (fieldB w)))
  | 14 => .ok (.str32 (.ofField (fieldD w)) (.ofField (fieldA w)) (.ofField (fieldB w)))
  | _ => .ok (.str64 (.ofField (fieldD w)) (.ofField (fieldA w)) (.ofField (fieldB w)))

/-- Opcode row 0x7 (rule R135). -/
def decodeRow7 (w : Word) : Decoded :=
  match (opcodeOf w).toNat % 16 with
  | 0 => .ok (.fence (fieldD w) (fieldA w) (fieldB w))
  | 1 => .ok (.aadd (.ofField (fieldD w)) (.ofField (fieldA w)) (.ofField (fieldB w)))
  | 2 => .ok (.amin (.ofField (fieldD w)) (.ofField (fieldA w)) (.ofField (fieldB w)))
  | 3 => .ok (.amax (.ofField (fieldD w)) (.ofField (fieldA w)) (.ofField (fieldB w)))
  | 4 => .ok (.aand (.ofField (fieldD w)) (.ofField (fieldA w)) (.ofField (fieldB w)))
  | 5 => .ok (.aor (.ofField (fieldD w)) (.ofField (fieldA w)) (.ofField (fieldB w)))
  | 6 => .ok (.axor (.ofField (fieldD w)) (.ofField (fieldA w)) (.ofField (fieldB w)))
  | 7 => .ok (.axchg (.ofField (fieldD w)) (.ofField (fieldA w)) (.ofField (fieldB w)))
  | 8 => .ok (.acas (.ofField (fieldD w)) (.ofField (fieldA w)) (.ofField (fieldB w)))
  | 9 => .ok (.ainc (.ofField (fieldD w)) (.ofField (fieldA w)) (.ofField (fieldB w)))
  | 10 => .ok (.cap (.ofField (fieldD w)) (.ofField (fieldA w)) (fieldB w))
  | 11 => unused (fieldB w == 0#8) (.uncap (.ofField (fieldD w)) (.ofField (fieldA w)))
  | 12 => unused (fieldD w == 0#8 && fieldB w == 0#8) (.pref (.ofField (fieldA w)))
  | 13 => unused (fieldD w == 0#8 && fieldB w == 0#8) (.wbl (.ofField (fieldA w)))
  | 14 => unused (fieldD w == 0#8 && fieldB w == 0#8) (.dropl (.ofField (fieldA w)))
  | _ => .illegalOp

/-- Opcode row 0x8 (rule R135). -/
def decodeRow8 (w : Word) : Decoded :=
  match (opcodeOf w).toNat % 16 with
  | 0 => .ok (.tryT (bit23 w) (low23 w))
  | 1 => unused (fieldD w == 0#8 && fieldA w == 0#8 && fieldB w == 0#8) .tcommit
  | 2 => unused (fieldD w == 0#8 && fieldA w == 0#8) (.tabort (fieldB w))
  | 3 => unused (fieldA w == 0#8 && fieldB w == 0#8) (.tstat (.ofField (fieldD w)))
  | 4 => unused (fieldA w == 0#8 && fieldB w == 0#8) (.taddr (.ofField (fieldD w)))
  | 5 => unused (fieldD w == 0#8 && fieldA w == 0#8) (.barw (fieldB w))
  | 6 => unused (fieldA w == 0#8) (.bara (.ofField (fieldD w)) (fieldB w))
  | 7 => unused (fieldD w == 0#8) (.barwt (fieldA w) (.ofField (fieldB w)))
  | 8 => unused (fieldD w == 0#8) (.barx (fieldA w) (.ofField (fieldB w)))
  | 9 => .ok (.tredadd (.ofField (fieldD w)) (.ofField (fieldA w)) (fieldB w))
  | 10 => .ok (.tredmin (.ofField (fieldD w)) (.ofField (fieldA w)) (fieldB w))
  | 11 => .ok (.tredmax (.ofField (fieldD w)) (.ofField (fieldA w)) (fieldB w))
  | 12 => unused (fieldD w == 0#8 && fieldA w == 0#8) (.grow (fieldB w))
  | 13 => unused (fieldD w == 0#8 && fieldA w == 0#8) (.shrink (fieldB w))
  | 14 => unused (fieldD w == 0#8 && fieldA w == 0#8 && fieldB w == 0#8) .earlygo
  | _ => unused (fieldD w == 0#8) (.waitc (fieldA w) (fieldB w))

/-- Opcode row 0x9 (rule R135). -/
def decodeRow9 (w : Word) : Decoded :=
  match (opcodeOf w).toNat % 16 with
  | 0 => .ok (.ldf32 (.ofField (fieldD w)) (.ofField (fieldA w)) (.ofField (fieldB w)))
  | 1 => unused (fieldB w == 0#8) (.fcommit (.ofField (fieldD w)) (.ofField (fieldA w)))
  | 2 => unused (fieldB w == 0#8) (.fsquash (.ofField (fieldD w)) (.ofField (fieldA w)))
  | 3 => unused (fieldB w == 0#8) (.fstate (.ofField (fieldD w)) (.ofField (fieldA w)))
  | 4 => unused (fieldD w == 0#8) (.flip (.ofField (fieldA w)) (fieldB w))
  | 5 => .ok (.signal (fieldD w) (.ofField (fieldA w)) (.ofField (fieldB w)))
  | 6 => unused (fieldD w == 0#8) (.glaunch (.ofField (fieldA w)) (.ofField (fieldB w)))
  | _ => .illegalOp

/-- Opcode row 0xA (rule R135). -/
def decodeRowA (w : Word) : Decoded :=
  match (opcodeOf w).toNat % 16 with
  | 0 => unused (fieldB w == 0#8) (.tdef (fieldD w) (.ofField (fieldA w)))
  | 1 => unused (fieldA w == 0#8 && fieldB w == 0#8) (.trel (fieldD w))
  | 2 => unused (fieldB w == 0#8) (.tcur (fieldD w) (.ofField (fieldA w)))
  | 3 => unused (fieldB w == 0#8) (.tcurhi (fieldD w) (.ofField (fieldA w)))
  | 4 => .ok (.cpy (.ofField (fieldD w)) (fieldA w) (fieldB w))
  | 5 => .ok (.cpyt (.ofField (fieldD w)) (fieldA w) (fieldB w))
  | 6 => .ok (.cpyq (.ofField (fieldD w)) (fieldA w) (fieldB w))
  | 7 => .ok (.cpyx (.ofField (fieldD w)) (fieldA w) (fieldB w))
  | 8 => .ok (.gath (.ofField (fieldD w)) (fieldA w) (.ofField (fieldB w)))
  | 9 => .ok (.scata (.ofField (fieldD w)) (fieldA w) (.ofField (fieldB w)))
  | 10 => .ok (.tquery (.ofField (fieldD w)) (fieldA w) (fieldB w))
  | _ => .illegalOp

/-- Opcode row 0xB (rule R135). -/
def decodeRowB (w : Word) : Decoded :=
  match (opcodeOf w).toNat % 16 with
  | 0 => unused (fieldB w == 0#8) (.mbld (fieldD w) (fieldA w))
  | 1 => .ok (.mma (fieldD w) (fieldA w) (fieldB w))
  | 2 => .ok (.mmas (fieldD w) (fieldA w) (fieldB w))
  | 3 => unused (fieldD w == 0#8 && fieldA w == 0#8 && fieldB w == 0#8) .mbatch
  | 4 => unused (fieldA w == 0#8 && fieldB w == 0#8) (.mzero (fieldD w))
  | 5 => unused (fieldB w == 0#8) (.mdrain (fieldD w) (fieldA w))
  | 6 => unused (fieldB w == 0#8) (.mdraina (fieldD w) (fieldA w))
  | 7 => .ok (.mrd (.ofField (fieldD w)) (fieldA w) (.ofField (fieldB w)))
  | 8 => .ok (.mwr (fieldD w) (.ofField (fieldA w)) (.ofField (fieldB w)))
  | _ => .illegalOp

/-- Opcode row 0xC (rule R135). -/
def decodeRowC (w : Word) : Decoded :=
  match (opcodeOf w).toNat % 16 with
  | 0 => .ok (.rayq (.ofField (fieldD w)) (.ofField (fieldA w)) (fieldB w))
  | 1 => .ok (.rayqa (.ofField (fieldD w)) (.ofField (fieldA w)) (fieldB w))
  | 2 => .ok (.tex (.ofField (fieldD w)) (.ofField (fieldA w)) (fieldB w))
  | 3 => .ok (.texl (.ofField (fieldD w)) (.ofField (fieldA w)) (fieldB w))
  | 4 => .ok (.texg (.ofField (fieldD w)) (.ofField (fieldA w)) (fieldB w))
  | _ => .illegalOp

/-- Opcode row 0xD (rule R135). -/
def decodeRowD (w : Word) : Decoded :=
  match (opcodeOf w).toNat % 16 with
  | 0 => unused (fieldA w == 0#8 && fieldB w == 0#8) (.rdtime (.ofField (fieldD w)))
  | 1 => unused (fieldA w == 0#8) (.rdsr (.ofField (fieldD w)) (fieldB w))
  | 2 => unused (fieldD w == 0#8) (.wrsr (.ofField (fieldA w)) (fieldB w))
  | 3 => unused (fieldD w == 0#8 && fieldA w == 0#8 && fieldB w == 0#8) .tret
  | 4 => unused (fieldD w == 0#8) (.tlbinv (.ofField (fieldA w)) (.ofField (fieldB w)))
  | 5 => unused (fieldD w == 0#8 && fieldA w == 0#8) (.irq (fieldB w))
  | 6 => unused (fieldB w == 0#8) (.haltg (.ofField (fieldD w)) (.ofField (fieldA w)))
  | 7 => unused (fieldB w == 0#8) (.resumeg (.ofField (fieldD w)) (.ofField (fieldA w)))
  | 8 => .ok (.gsave (.ofField (fieldD w)) (.ofField (fieldA w)) (.ofField (fieldB w)))
  | 9 => .ok (.gload (.ofField (fieldD w)) (.ofField (fieldA w)) (.ofField (fieldB w)))
  | 10 => unused (fieldA w == 0#8) (.linkq (.ofField (fieldD w)) (fieldB w))
  | 11 => unused (fieldA w == 0#8) (.linkup (.ofField (fieldD w)) (fieldB w))
  | 12 => unused (fieldA w == 0#8) (.dierst (.ofField (fieldD w)) (fieldB w))
  | 13 => .ok (.homebyp (.ofField (fieldD w)) (fieldA w) (fieldB w))
  | 14 => unused (fieldA w == 0#8) (.flushd (.ofField (fieldD w)) (fieldB w))
  | _ => unused (fieldD w == 0#8 && fieldA w == 0#8 && fieldB w == 0#8) .park

/-- The instruction a word stands for, or by what name it is rejected. -/
def decodeWord (w : Word) : Decoded :=
  match (opcodeOf w).toNat / 16 with
  | 0 => decodeRow0 w
  | 1 => decodeRow1 w
  | 2 => decodeRow2 w
  | 3 => decodeRow3 w
  | 4 => decodeRow4 w
  | 5 => decodeRow5 w
  | 6 => decodeRow6 w
  | 7 => decodeRow7 w
  | 8 => decodeRow8 w
  | 9 => decodeRow9 w
  | 10 => decodeRowA w
  | 11 => decodeRowB w
  | 12 => decodeRowC w
  | 13 => decodeRowD w
  | _ => .illegalOp

/-- Whether a word is a privileged instruction, which a user wave may not execute (rule R135): row 0xD, except RDTIME,
RDSR with a user selector (below 0x40, rule R383) and WRSR of srseed (selector 0x02). Decided before the reserved fields
are looked at (rule R138). -/
def privilegedWord (w : Word) : Bool :=
  (opcodeOf w).toNat / 16 == 13 &&
    !(opcodeOf w == 0xD0#8 || (opcodeOf w == 0xD1#8 && (fieldB w).toNat < 0x40) ||
      (opcodeOf w == 0xD2#8 && fieldB w == 0x02#8))

/-- The four bytes of a word as memory holds them, lowest address first (rule R8). -/
def wordBytes (w : Word) : List Byte :=
  [w.extractLsb' 0 8, w.extractLsb' 8 8, w.extractLsb' 16 8, w.extractLsb' 24 8]

/-- The word that four bytes of memory hold, lowest address first (rule R8). Absent bytes count as 0. -/
def bytesWord : List Byte → Word
  | b0 :: b1 :: b2 :: b3 :: _ => (((b3 ++ b2) ++ b1) ++ b0 : BitVec 32)
  | _ => 0#32

/-- Decoding from memory: the instruction that the bytes at an instruction slot hold. -/
def decodeBytes (bs : List Byte) : Decoded := decodeWord (bytesWord bs)

/-- The decoder as the host asks it: bit 0 of w is the least significant bit of the first word. Every instruction of the
table has 32 bits; a row that is no instruction word has none. -/
def decodeTableWord (nbits w : Nat) : Option Instr :=
  if nbits = 0 then none
  else
    match decodeBytes (wordBytes (BitVec.ofNat 32 (w % 2 ^ nbits))) with
    | .ok i => some i
    | _ => none

/-- A word of format R (rule R127). -/
def wordR (op d a b : BitVec 8) : Word := ((op ++ d) ++ a) ++ b
/-- A word of format J, its id variant, or format M (rule R127). -/
def wordJ (op : BitVec 8) (x : BitVec 24) : Word := op ++ x
/-- A word of the TRY variant of format J (rule R127). -/
def wordTry (op : BitVec 8) (lane : Bool) (x : BitVec 23) : Word := (op ++ BitVec.ofBool lane) ++ x

/-- The word of an instruction; a step of the device has none. -/
def encode : Instr → Option Word
  | .nop => some (wordR 0x00#8 0#8 0#8 0#8)
  | .mode x => some (wordJ 0x01#8 x)
  | .ldlit d => some (wordR 0x02#8 d.toField 0#8 0#8)
  | .bra x => some (wordJ 0x03#8 x)
  | .brx a => some (wordR 0x04#8 0#8 a.toField 0#8)
  | .call x => some (wordJ 0x05#8 x)
  | .ret => some (wordR 0x06#8 0#8 0#8 0#8)
  | .join => some (wordR 0x07#8 0#8 0#8 0#8)
  | .exit => some (wordR 0x08#8 0#8 0#8 0#8)
  | .yield => some (wordR 0x09#8 0#8 0#8 0#8)
  | .sleepuntil a => some (wordR 0x0A#8 0#8 a.toField 0#8)
  | .mark x => some (wordJ 0x0B#8 x)
  | .idem x => some (wordJ 0x0C#8 x)
  | .idemend => some (wordR 0x0D#8 0#8 0#8 0#8)
  | .trap b => some (wordR 0x0E#8 0#8 0#8 b)
  | .bkpt => some (wordR 0x0F#8 0#8 0#8 0#8)
  | .iadd d a b => some (wordR 0x10#8 d.toField a.toField b.toField)
  | .isub d a b => some (wordR 0x11#8 d.toField a.toField b.toField)
  | .imul d a b => some (wordR 0x12#8 d.toField a.toField b.toField)
  | .imulhi d a b => some (wordR 0x13#8 d.toField a.toField b.toField)
  | .nmulhi d a b => some (wordR 0x14#8 d.toField a.toField b.toField)
  | .imad d a b => some (wordR 0x15#8 d.toField a.toField b.toField)
  | .shl d a b => some (wordR 0x16#8 d.toField a.toField b.toField)
  | .shr d a b => some (wordR 0x17#8 d.toField a.toField b.toField)
  | .sar d a b => some (wordR 0x18#8 d.toField a.toField b.toField)
  | .andW d a b => some (wordR 0x19#8 d.toField a.toField b.toField)
  | .orW d a b => some (wordR 0x1A#8 d.toField a.toField b.toField)
  | .xorW d a b => some (wordR 0x1B#8 d.toField a.toField b.toField)
  | .imin d a b => some (wordR 0x1C#8 d.toField a.toField b.toField)
  | .imax d a b => some (wordR 0x1D#8 d.toField a.toField b.toField)
  | .nmin d a b => some (wordR 0x1E#8 d.toField a.toField b.toField)
  | .nmax d a b => some (wordR 0x1F#8 d.toField a.toField b.toField)
  | .popc d a => some (wordR 0x20#8 d.toField a.toField 0#8)
  | .clz d a => some (wordR 0x21#8 d.toField a.toField 0#8)
  | .brev d a => some (wordR 0x22#8 d.toField a.toField 0#8)
  | .bfx d a b => some (wordR 0x23#8 d.toField a.toField b.toField)
  | .bfi d a b => some (wordR 0x24#8 d.toField a.toField b.toField)
  | .add64 d a b => some (wordR 0x25#8 d.toField a.toField b.toField)
  | .sub64 d a b => some (wordR 0x26#8 d.toField a.toField b.toField)
  | .mad64 d a b => some (wordR 0x27#8 d.toField a.toField b.toField)
  | .sel d a b => some (wordR 0x28#8 d.toField a.toField b.toField)
  | .mov d a => some (wordR 0x29#8 d.toField a.toField 0#8)
  | .movu d a b => some (wordR 0x2A#8 d.toField a.toField b.toField)
  | .shuf d a b => some (wordR 0x2B#8 d.toField a.toField b.toField)
  | .shufx d a b => some (wordR 0x2C#8 d.toField a.toField b.toField)
  | .ballot d a => some (wordR 0x2D#8 d.toField a.toField 0#8)
  | .vany d a => some (wordR 0x2E#8 d a.toField 0#8)
  | .vall d a => some (wordR 0x2F#8 d a.toField 0#8)
  | .icmpeq d a b => some (wordR 0x30#8 d a.toField b.toField)
  | .icmpne d a b => some (wordR 0x31#8 d a.toField b.toField)
  | .icmplt d a b => some (wordR 0x32#8 d a.toField b.toField)
  | .icmple d a b => some (wordR 0x33#8 d a.toField b.toField)
  | .ncmplt d a b => some (wordR 0x34#8 d a.toField b.toField)
  | .ncmple d a b => some (wordR 0x35#8 d a.toField b.toField)
  | .cmpeq d a b => some (wordR 0x36#8 d a.toField b.toField)
  | .cmpne d a b => some (wordR 0x37#8 d a.toField b.toField)
  | .cmplt d a b => some (wordR 0x38#8 d a.toField b.toField)
  | .cmple d a b => some (wordR 0x39#8 d a.toField b.toField)
  | .cmpun d a b => some (wordR 0x3A#8 d a.toField b.toField)
  | .qand d a b => some (wordR 0x3B#8 d a b)
  | .qor d a b => some (wordR 0x3C#8 d a b)
  | .qxor d a b => some (wordR 0x3D#8 d a b)
  | .qtov d a => some (wordR 0x3E#8 d.toField a 0#8)
  | .vtoq d a => some (wordR 0x3F#8 d a.toField 0#8)
  | .addT d a b => some (wordR 0x40#8 d.toField a.toField b.toField)
  | .subT d a b => some (wordR 0x41#8 d.toField a.toField b.toField)
  | .mulT d a b => some (wordR 0x42#8 d.toField a.toField b.toField)
  | .fma d a b => some (wordR 0x43#8 d.toField a.toField b.toField)
  | .fms d a b => some (wordR 0x44#8 d.toField a.toField b.toField)
  | .fnma d a b => some (wordR 0x45#8 d.toField a.toField b.toField)
  | .minT d a b => some (wordR 0x46#8 d.toField a.toField b.toField)
  | .maxT d a b => some (wordR 0x47#8 d.toField a.toField b.toField)
  | .absT d a => some (wordR 0x48#8 d.toField a.toField 0#8)
  | .negT d a => some (wordR 0x49#8 d.toField a.toField 0#8)
  | .clamp d a b => some (wordR 0x4A#8 d.toField a.toField b.toField)
  | .divT d a b => some (wordR 0x4B#8 d.toField a.toField b.toField)
  | .sqrt d a => some (wordR 0x4C#8 d.toField a.toField 0#8)
  | .rcp d a => some (wordR 0x4D#8 d.toField a.toField 0#8)
  | .rsq d a => some (wordR 0x4E#8 d.toField a.toField 0#8)
  | .exp2 d a => some (wordR 0x4F#8 d.toField a.toField 0#8)
  | .log2 d a => some (wordR 0x50#8 d.toField a.toField 0#8)
  | .sinpi d a => some (wordR 0x51#8 d.toField a.toField 0#8)
  | .cospi d a => some (wordR 0x52#8 d.toField a.toField 0#8)
  | .fract d a => some (wordR 0x53#8 d.toField a.toField 0#8)
  | .floor d a => some (wordR 0x54#8 d.toField a.toField 0#8)
  | .ceil d a => some (wordR 0x55#8 d.toField a.toField 0#8)
  | .trunc d a => some (wordR 0x56#8 d.toField a.toField 0#8)
  | .rint d a => some (wordR 0x57#8 d.toField a.toField 0#8)
  | .cvt d a b => some (wordR 0x58#8 d.toField a.toField b)
  | .pack d a b => some (wordR 0x59#8 d.toField a.toField b.toField)
  | .unpacklo d a => some (wordR 0x5A#8 d.toField a.toField 0#8)
  | .unpackhi d a => some (wordR 0x5B#8 d.toField a.toField 0#8)
  | .dot2 d a b => some (wordR 0x5C#8 d.toField a.toField b.toField)
  | .dot4 d a b => some (wordR 0x5D#8 d.toField a.toField b.toField)
  | .scaleb d a b => some (wordR 0x5E#8 d.toField a.toField b.toField)
  | .classT d a => some (wordR 0x5F#8 d.toField a.toField 0#8)
  | .ld8 d a b => some (wordR 0x60#8 d.toField a.toField b.toField)
  | .ld8s d a b => some (wordR 0x61#8 d.toField a.toField b.toField)
  | .ld16 d a b => some (wordR 0x62#8 d.toField a.toField b.toField)
  | .ld16s d a b => some (wordR 0x63#8 d.toField a.toField b.toField)
  | .ld32 d a b => some (wordR 0x64#8 d.toField a.toField b.toField)
  | .ld64 d a b => some (wordR 0x65#8 d.toField a.toField b.toField)
  | .ld128 d a b => some (wordR 0x66#8 d.toField a.toField b.toField)
  | .lda32 d a b => some (wordR 0x67#8 d.toField a.toField b.toField)
  | .lda64 d a b => some (wordR 0x68#8 d.toField a.toField b.toField)
  | .st8 d a b => some (wordR 0x69#8 d.toField a.toField b.toField)
  | .st16 d a b => some (wordR 0x6A#8 d.toField a.toField b.toField)
  | .st32 d a b => some (wordR 0x6B#8 d.toField a.toField b.toField)
  | .st64 d a b => some (wordR 0x6C#8 d.toField a.toField b.toField)
  | .st128 d a b => some (wordR 0x6D#8 d.toField a.toField b.toField)
  | .str32 d a b => some (wordR 0x6E#8 d.toField a.toField b.toField)
  | .str64 d a b => some (wordR 0x6F#8 d.toField a.toField b.toField)
  | .fence d a b => some (wordR 0x70#8 d a b)
  | .aadd d a b => some (wordR 0x71#8 d.toField a.toField b.toField)
  | .amin d a b => some (wordR 0x72#8 d.toField a.toField b.toField)
  | .amax d a b => some (wordR 0x73#8 d.toField a.toField b.toField)
  | .aand d a b => some (wordR 0x74#8 d.toField a.toField b.toField)
  | .aor d a b => some (wordR 0x75#8 d.toField a.toField b.toField)
  | .axor d a b => some (wordR 0x76#8 d.toField a.toField b.toField)
  | .axchg d a b => some (wordR 0x77#8 d.toField a.toField b.toField)
  | .acas d a b => some (wordR 0x78#8 d.toField a.toField b.toField)
  | .ainc d a b => some (wordR 0x79#8 d.toField a.toField b.toField)
  | .cap d a b => some (wordR 0x7A#8 d.toField a.toField b)
  | .uncap d a => some (wordR 0x7B#8 d.toField a.toField 0#8)
  | .pref a => some (wordR 0x7C#8 0#8 a.toField 0#8)
  | .wbl a => some (wordR 0x7D#8 0#8 a.toField 0#8)
  | .dropl a => some (wordR 0x7E#8 0#8 a.toField 0#8)
  | .tryT f x => some (wordTry 0x80#8 f x)
  | .tcommit => some (wordR 0x81#8 0#8 0#8 0#8)
  | .tabort b => some (wordR 0x82#8 0#8 0#8 b)
  | .tstat d => some (wordR 0x83#8 d.toField 0#8 0#8)
  | .taddr d => some (wordR 0x84#8 d.toField 0#8 0#8)
  | .barw b => some (wordR 0x85#8 0#8 0#8 b)
  | .bara d b => some (wordR 0x86#8 d.toField 0#8 b)
  | .barwt a b => some (wordR 0x87#8 0#8 a b.toField)
  | .barx a b => some (wordR 0x88#8 0#8 a b.toField)
  | .tredadd d a b => some (wordR 0x89#8 d.toField a.toField b)
  | .tredmin d a b => some (wordR 0x8A#8 d.toField a.toField b)
  | .tredmax d a b => some (wordR 0x8B#8 d.toField a.toField b)
  | .grow b => some (wordR 0x8C#8 0#8 0#8 b)
  | .shrink b => some (wordR 0x8D#8 0#8 0#8 b)
  | .earlygo => some (wordR 0x8E#8 0#8 0#8 0#8)
  | .waitc a b => some (wordR 0x8F#8 0#8 a b)
  | .ldf32 d a b => some (wordR 0x90#8 d.toField a.toField b.toField)
  | .fcommit d a => some (wordR 0x91#8 d.toField a.toField 0#8)
  | .fsquash d a => some (wordR 0x92#8 d.toField a.toField 0#8)
  | .fstate d a => some (wordR 0x93#8 d.toField a.toField 0#8)
  | .flip a b => some (wordR 0x94#8 0#8 a.toField b)
  | .signal d a b => some (wordR 0x95#8 d a.toField b.toField)
  | .glaunch a b => some (wordR 0x96#8 0#8 a.toField b.toField)
  | .tdef d a => some (wordR 0xA0#8 d a.toField 0#8)
  | .trel d => some (wordR 0xA1#8 d 0#8 0#8)
  | .tcur d a => some (wordR 0xA2#8 d a.toField 0#8)
  | .tcurhi d a => some (wordR 0xA3#8 d a.toField 0#8)
  | .cpy d a b => some (wordR 0xA4#8 d.toField a b)
  | .cpyt d a b => some (wordR 0xA5#8 d.toField a b)
  | .cpyq d a b => some (wordR 0xA6#8 d.toField a b)
  | .cpyx d a b => some (wordR 0xA7#8 d.toField a b)
  | .gath d a b => some (wordR 0xA8#8 d.toField a b.toField)
  | .scata d a b => some (wordR 0xA9#8 d.toField a b.toField)
  | .tquery d a b => some (wordR 0xAA#8 d.toField a b)
  | .mbld d a => some (wordR 0xB0#8 d a 0#8)
  | .mma d a b => some (wordR 0xB1#8 d a b)
  | .mmas d a b => some (wordR 0xB2#8 d a b)
  | .mbatch => some (wordR 0xB3#8 0#8 0#8 0#8)
  | .mzero d => some (wordR 0xB4#8 d 0#8 0#8)
  | .mdrain d a => some (wordR 0xB5#8 d a 0#8)
  | .mdraina d a => some (wordR 0xB6#8 d a 0#8)
  | .mrd d a b => some (wordR 0xB7#8 d.toField a b.toField)
  | .mwr d a b => some (wordR 0xB8#8 d a.toField b.toField)
  | .rayq d a b => some (wordR 0xC0#8 d.toField a.toField b)
  | .rayqa d a b => some (wordR 0xC1#8 d.toField a.toField b)
  | .tex d a b => some (wordR 0xC2#8 d.toField a.toField b)
  | .texl d a b => some (wordR 0xC3#8 d.toField a.toField b)
  | .texg d a b => some (wordR 0xC4#8 d.toField a.toField b)
  | .rdtime d => some (wordR 0xD0#8 d.toField 0#8 0#8)
  | .rdsr d b => some (wordR 0xD1#8 d.toField 0#8 b)
  | .wrsr a b => some (wordR 0xD2#8 0#8 a.toField b)
  | .tret => some (wordR 0xD3#8 0#8 0#8 0#8)
  | .tlbinv a b => some (wordR 0xD4#8 0#8 a.toField b.toField)
  | .irq b => some (wordR 0xD5#8 0#8 0#8 b)
  | .haltg d a => some (wordR 0xD6#8 d.toField a.toField 0#8)
  | .resumeg d a => some (wordR 0xD7#8 d.toField a.toField 0#8)
  | .gsave d a b => some (wordR 0xD8#8 d.toField a.toField b.toField)
  | .gload d a b => some (wordR 0xD9#8 d.toField a.toField b.toField)
  | .linkq d b => some (wordR 0xDA#8 d.toField 0#8 b)
  | .linkup d b => some (wordR 0xDB#8 d.toField 0#8 b)
  | .dierst d b => some (wordR 0xDC#8 d.toField 0#8 b)
  | .homebyp d a b => some (wordR 0xDD#8 d.toField a b)
  | .flushd d b => some (wordR 0xDE#8 d.toField 0#8 b)
  | .park => some (wordR 0xDF#8 0#8 0#8 0#8)
  | _ => none

end Sys2Proof
end

