-- ==== Sys2Proof/Machine/Shape.lean ====
section
/-!
DEFINITION. Sys2Proof/Machine/Shape.lean: what each instruction's entry says of its fields: which are registers, read or
written, of what width and kind, which are predicates or selectors and within what limits, whether it consults the guard,
and its latency class. Everything that depends on an instruction's operands alone is decided from here: whether a word is
legal (R129 to R132, R138 item 5), which registers it reads and writes (R55, R126, R137, R362).
-/

namespace Sys2Proof.Machine

open Sys2Proof

/-- How many consecutive registers an operand names: one, a pair, a quad, eight; or one or a pair as the mode type, or a
type selector, says (R131, R161, R173). -/
inductive Width where
  | one | pair | quad | eight
  | typed
  | ofType (code : Nat)
deriving DecidableEq, Repr

/-- Whether the instruction reads the operand, writes it, or both. -/
inductive Use where
  | read | write | both
deriving DecidableEq, Repr

/-- Which fixed registers a field accepts (R130, R132). -/
inductive CSet where
  /-- no c register -/
  | none
  /-- c0 only: the zero source, or the sink -/
  | zero
  /-- every readable one, c0 to c14 -/
  | readable
  /-- every readable one but c3 -/
  | uniform
deriving DecidableEq, Repr

/-- Which k registers a field accepts. `ifUniform`: only when every register source of the instruction is a k register or
a fixed register other than c3 (R132, R184, R192). -/
inductive KSet where
  | none | any | ifUniform
deriving DecidableEq, Repr

/-- The registers a field accepts. -/
structure Allow where
  v : Bool
  k : KSet
  c : CSet
deriving DecidableEq, Repr

/-- What one of the fields D, A, B is. -/
inductive Field where
  | reg (r : Reg) (use : Use) (width : Width) (allow : Allow)
  | pred (q : PredField) (use : Use)
  | sel (x : Selector) (lo hi : Nat)
deriving DecidableEq, Repr

/-- What an instruction's entry says of its operands. -/
structure Shape where
  d : Option Field := none
  a : Option Field := none
  b : Option Field := none
  /-- whether the instruction consults the guard (R139) -/
  guard : Bool := true
  /-- whether it reads k31 without naming it (RET, R142) -/
  readsLink : Bool := false
  /-- whether it writes k31 without naming it (CALL, R143) -/
  writesLink : Bool := false
deriving DecidableEq, Repr

def Allow.any : Allow := ⟨true, .any, .readable⟩
def Allow.uniformSource : Allow := ⟨false, .any, .uniform⟩
def Allow.vOnly : Allow := ⟨true, .none, .none⟩
def Allow.kOnly : Allow := ⟨false, .any, .none⟩
def Allow.kOrSink : Allow := ⟨false, .any, .zero⟩
def Allow.vOrSink : Allow := ⟨true, .none, .zero⟩
/-- A destination of R132's first case, or of a load or an atomic: v, c0, or k when the sources are uniform. -/
def Allow.dest : Allow := ⟨true, .ifUniform, .zero⟩
def Allow.anyDest : Allow := ⟨true, .any, .zero⟩
/-- An address pair: an even v, an even k, or c0 (R180). -/
def Allow.address : Allow := ⟨true, .any, .zero⟩
/-- A lane address or a uniform one without c0 (R199). -/
def Allow.lineAddress : Allow := ⟨true, .any, .none⟩

/-- A source of any kind. -/
def src (r : Reg) (w : Width := .one) : Option Field := some (.reg r .read w .any)
/-- A destination that may be v, k with uniform sources, or c0. -/
def dst (r : Reg) (w : Width := .one) : Option Field := some (.reg r .write w .dest)
/-- The same, read before it is written. -/
def dstRead (r : Reg) (w : Width := .one) : Option Field := some (.reg r .both w .dest)
/-- A v destination. -/
def dstV (r : Reg) (w : Width := .one) : Option Field := some (.reg r .write w .vOnly)
/-- A k destination or c0. -/
def dstK (r : Reg) (w : Width := .one) : Option Field := some (.reg r .write w .kOrSink)
def srcV (r : Reg) (w : Width := .one) : Option Field := some (.reg r .read w .vOnly)
def srcK (r : Reg) (w : Width := .one) : Option Field := some (.reg r .read w .kOnly)
def qDst (q : PredField) : Option Field := some (.pred q .write)
def qSrc (q : PredField) : Option Field := some (.pred q .read)
def sel (x : Selector) (hi : Nat) (lo : Nat := 0) : Option Field := some (.sel x lo hi)
/-- The address pair of a memory instruction (R180). -/
def addrPair (r : Reg) : Option Field := some (.reg r .read .pair .address)

/-- Whether a type code names a 64-bit type: f64, i64, n64 (R134). -/
def type64 (code : Nat) : Bool := code == 5 || code == 8 || code == 9

/-- The number of registers an operand names under a mode (R131, R161, R173). -/
def Width.regs (w : Width) (mode : ModeImage) : Nat :=
  match w with
  | .one => 1
  | .pair => 2
  | .quad => 4
  | .eight => 8
  | .typed => if type64 (modeType mode) then 2 else 1
  | .ofType t => if type64 t then 2 else 1

/-- The alignment of the operand's base register: its number of registers (R131, R183). -/
def Width.align (w : Width) (mode : ModeImage) : Nat := w.regs mode

/-- Special registers that are 64 bits wide (R382). -/
def sr64 (sel : Selector) : Bool := sel == 0x41#8 || sel == 0x49#8

/-- A three-register integer form (R153, R154). -/
def shape3 (d a b : Reg) : Shape := { d := dst d, a := src a, b := src b }
/-- A two-register integer form (R154). -/
def shape2 (d a : Reg) : Shape := { d := dst d, a := src a }
/-- A typed form of rows 0x4 and 0x5 (R161). -/
def shapeT3 (d a b : Reg) : Shape := { d := dst d .typed, a := src a .typed, b := src b .typed }
def shapeT3d (d a b : Reg) : Shape := { d := dstRead d .typed, a := src a .typed, b := src b .typed }
def shapeT2 (d a : Reg) : Shape := { d := dst d .typed, a := src a .typed }
/-- A compare (R159). -/
def shapeCmp (d : PredField) (a b : Reg) (w : Width) : Shape := { d := qDst d, a := src a w, b := src b w }
/-- A load of n registers (R183). -/
def shapeLoad (d a b : Reg) (w : Width) : Shape := { d := dst d w, a := addrPair a, b := src b }
/-- A store of n registers (R183). The data of ST128 may be v, k or c0 only. -/
def shapeStore (d a b : Reg) (w : Width) : Shape :=
  { d := some (.reg d .read w (if w = .quad then ⟨true, .any, .zero⟩ else .any)), a := addrPair a, b := src b }
/-- An atomic (R190, R192). -/
def shapeAtomic (d a b : Reg) (use : Use) : Shape :=
  { d := some (.reg d use .typed .dest), a := addrPair a, b := src b .typed }
/-- A line operation (R199). -/
def shapeLine (a : Reg) : Shape := { a := some (.reg a .read .pair .lineAddress) }
/-- A copy between two tensors (R236's table): a promise, a destination and a source id. -/
def shapeCopy (d : Reg) (a b : Selector) : Shape := { d := dstK d .pair, a := sel a 255, b := sel b 255 }
/-- A status of row 0xD with a handle (R385). -/
def shapeHandle (d a : Reg) : Shape := { d := dstK d, a := srcK a, guard := false }
/-- A status of row 0xD with a die (R385). -/
def shapeDie (d : Reg) (b : Selector) : Shape := { d := dstK d, b := sel b 3, guard := false }

/-- What each instruction's entry says of its fields. A step of the device has no fields. -/
def shape : Instr → Shape
  -- row 0x0 (R141 to R152)
  | .nop => { guard := false }
  | .mode _ => { guard := false }
  | .ldlit d => { d := some (.reg d .write .one .anyDest) }
  | .bra _ => {}
  | .brx a => { a := srcK a }
  | .call _ => { writesLink := true }
  | .ret => { readsLink := true }
  | .join => { guard := false }
  | .exit => {}
  | .yield => { guard := false }
  | .sleepuntil a => { a := srcK a .pair, guard := false }
  | .mark _ => { guard := false }
  | .idem _ => { guard := false }
  | .idemend => { guard := false }
  | .trap b => { b := sel b 255 }
  | .bkpt => { guard := false }
  -- row 0x1 (R153)
  | .iadd d a b => shape3 d a b
  | .isub d a b => shape3 d a b
  | .imul d a b => shape3 d a b
  | .imulhi d a b => shape3 d a b
  | .nmulhi d a b => shape3 d a b
  | .imad d a b => { d := dstRead d, a := src a, b := src b }
  | .shl d a b => shape3 d a b
  | .shr d a b => shape3 d a b
  | .sar d a b => shape3 d a b
  | .andW d a b => shape3 d a b
  | .orW d a b => shape3 d a b
  | .xorW d a b => shape3 d a b
  | .imin d a b => shape3 d a b
  | .imax d a b => shape3 d a b
  | .nmin d a b => shape3 d a b
  | .nmax d a b => shape3 d a b
  -- row 0x2 (R154 to R157)
  | .popc d a => shape2 d a
  | .clz d a => shape2 d a
  | .brev d a => shape2 d a
  | .bfx d a b => shape3 d a b
  | .bfi d a b => { d := dstRead d, a := src a, b := src b }
  | .add64 d a b => { d := dst d .pair, a := src a .pair, b := src b .pair }
  | .sub64 d a b => { d := dst d .pair, a := src a .pair, b := src b .pair }
  | .mad64 d a b => { d := dstRead d .pair, a := src a, b := src b }
  | .sel d a b => { d := dstV d, a := src a, b := src b }
  | .mov d a => shape2 d a
  | .movu d a b => { d := dstK d, a := srcV a, b := some (.reg b .read .one .uniformSource) }
  | .shuf d a b => { d := dstV d, a := srcV a, b := src b }
  | .shufx d a b => { d := dstV d, a := srcV a, b := some (.reg b .read .one .uniformSource) }
  | .ballot d a => { d := dstK d, a := src a }
  | .vany d a => { d := qDst d, a := src a }
  | .vall d a => { d := qDst d, a := src a }
  -- row 0x3 (R159, R160)
  | .icmpeq d a b => shapeCmp d a b .one
  | .icmpne d a b => shapeCmp d a b .one
  | .icmplt d a b => shapeCmp d a b .one
  | .icmple d a b => shapeCmp d a b .one
  | .ncmplt d a b => shapeCmp d a b .one
  | .ncmple d a b => shapeCmp d a b .one
  | .cmpeq d a b => shapeCmp d a b .typed
  | .cmpne d a b => shapeCmp d a b .typed
  | .cmplt d a b => shapeCmp d a b .typed
  | .cmple d a b => shapeCmp d a b .typed
  | .cmpun d a b => shapeCmp d a b .typed
  | .qand d a b => { d := qDst d, a := qSrc a, b := qSrc b }
  | .qor d a b => { d := qDst d, a := qSrc a, b := qSrc b }
  | .qxor d a b => { d := qDst d, a := qSrc a, b := qSrc b }
  | .qtov d a => { d := dstV d, a := qSrc a }
  | .vtoq d a => { d := qDst d, a := src a }
  -- rows 0x4 and 0x5 (R162, R173, R176, R178, R179)
  | .addT d a b => shapeT3 d a b
  | .subT d a b => shapeT3 d a b
  | .mulT d a b => shapeT3 d a b
  | .fma d a b => shapeT3d d a b
  | .fms d a b => shapeT3d d a b
  | .fnma d a b => shapeT3d d a b
  | .minT d a b => shapeT3 d a b
  | .maxT d a b => shapeT3 d a b
  | .absT d a => shapeT2 d a
  | .negT d a => shapeT2 d a
  | .clamp d a b => shapeT3d d a b
  | .divT d a b => shapeT3 d a b
  | .sqrt d a => shapeT2 d a
  | .rcp d a => shapeT2 d a
  | .rsq d a => shapeT2 d a
  | .exp2 d a => shapeT2 d a
  | .log2 d a => shapeT2 d a
  | .sinpi d a => shapeT2 d a
  | .cospi d a => shapeT2 d a
  | .fract d a => shapeT2 d a
  | .floor d a => shapeT2 d a
  | .ceil d a => shapeT2 d a
  | .trunc d a => shapeT2 d a
  | .rint d a => shapeT2 d a
  | .cvt d a b => { d := dst d .typed, a := src a (.ofType b.toNat), b := sel b 15 }
  | .pack d a b => shape3 d a b
  | .unpacklo d a => shape2 d a
  | .unpackhi d a => shape2 d a
  | .dot2 d a b => { d := dstRead d, a := src a, b := src b }
  | .dot4 d a b => { d := dstRead d, a := src a, b := src b }
  | .scaleb d a b => { d := dst d .typed, a := src a .typed, b := src b }
  | .classT d a => { d := dst d, a := src a .typed }
  -- row 0x6 (R183)
  | .ld8 d a b => shapeLoad d a b .one
  | .ld8s d a b => shapeLoad d a b .one
  | .ld16 d a b => shapeLoad d a b .one
  | .ld16s d a b => shapeLoad d a b .one
  | .ld32 d a b => shapeLoad d a b .one
  | .ld64 d a b => shapeLoad d a b .pair
  | .ld128 d a b => shapeLoad d a b .quad
  | .lda32 d a b => shapeLoad d a b .one
  | .lda64 d a b => shapeLoad d a b .pair
  | .st8 d a b => shapeStore d a b .one
  | .st16 d a b => shapeStore d a b .one
  | .st32 d a b => shapeStore d a b .one
  | .st64 d a b => shapeStore d a b .pair
  | .st128 d a b => shapeStore d a b .quad
  | .str32 d a b => shapeStore d a b .one
  | .str64 d a b => shapeStore d a b .pair
  -- row 0x7 (R187, R190, R194, R199)
  | .fence d a b => { d := sel d 3 1, a := sel a 6, b := sel b 15, guard := false }
  | .aadd d a b => shapeAtomic d a b .write
  | .amin d a b => shapeAtomic d a b .write
  | .amax d a b => shapeAtomic d a b .write
  | .aand d a b => shapeAtomic d a b .write
  | .aor d a b => shapeAtomic d a b .write
  | .axor d a b => shapeAtomic d a b .write
  | .axchg d a b => shapeAtomic d a b .write
  | .acas d a b => shapeAtomic d a b .both
  | .ainc d a b => shapeAtomic d a b .write
  | .cap d a b => { d := dstK d, a := srcK a .pair, b := sel b 3, guard := false }
  | .uncap d a => { d := dstK d, a := srcK a .pair, guard := false }
  | .pref a => shapeLine a
  | .wbl a => shapeLine a
  | .dropl a => shapeLine a
  -- row 0x8 (R201)
  | .tryT _ _ => { guard := false }
  | .tcommit => { guard := false }
  | .tabort b => { b := sel b 255 128 }
  | .tstat d => { d := dstV d }
  | .taddr d => { d := dstV d .pair }
  | .barw b => { b := sel b 255, guard := false }
  | .bara d b => { d := dstK d, b := sel b 255, guard := false }
  | .barwt a b => { a := sel a 255, b := srcK b, guard := false }
  | .barx a b => { a := sel a 255, b := srcK b, guard := false }
  | .tredadd d a b => { d := dstV d, a := src a, b := sel b 255 }
  | .tredmin d a b => { d := dstV d, a := src a, b := sel b 255 }
  | .tredmax d a b => { d := dstV d, a := src a, b := sel b 255 }
  | .grow b => { b := sel b 23 1, guard := false }
  | .shrink b => { b := sel b 23 1, guard := false }
  | .earlygo => { guard := false }
  | .waitc a b => { a := sel a 3, b := sel b 63, guard := false }
  -- row 0x9 (R202)
  | .ldf32 d a b => { d := dstV d, a := srcV a .pair, b := srcK b }
  | .fcommit d a => { d := dstK d, a := srcK a }
  | .fsquash d a => { d := dstK d, a := srcK a }
  | .fstate d a => { d := dstK d, a := srcK a }
  | .flip a b => { a := srcK a .pair, b := sel b 1 }
  | .signal d a b => { d := sel d 1, a := srcK a .pair, b := some (.reg b .read .one .uniformSource) }
  | .glaunch a b => { a := srcK a, b := srcK b .pair }
  -- row 0xA (R236)
  | .tdef d a => { d := sel d 255, a := srcK a .pair }
  | .trel d => { d := sel d 255 }
  | .tcur d a => { d := sel d 255, a := srcK a .pair }
  | .tcurhi d a => { d := sel d 255, a := srcK a .pair }
  | .cpy d a b => shapeCopy d a b
  | .cpyt d a b => shapeCopy d a b
  | .cpyq d a b => shapeCopy d a b
  | .cpyx d a b => shapeCopy d a b
  | .gath d a b => { d := dstK d .pair, a := sel a 255, b := srcV b }
  | .scata d a b => { d := dstK d .pair, a := sel a 255, b := srcV b }
  | .tquery d a b => { d := dstK d, a := sel a 255, b := sel b 14 }
  -- row 0xB (R251)
  | .mbld d a => { d := sel d 15, a := sel a 255 }
  | .mma d a b => { d := sel d 15, a := sel a 255, b := sel b 15 }
  | .mmas d a b => { d := sel d 15, a := sel a 255, b := sel b 15 }
  | .mbatch => {}
  | .mzero d => { d := sel d 15 }
  | .mdrain d a => { d := sel d 255, a := sel a 15 }
  | .mdraina d a => { d := sel d 255, a := sel a 15 }
  | .mrd d a b => { d := dstV d .pair, a := sel a 15, b := srcK b }
  | .mwr d a b => { d := sel d 15, a := srcV a .pair, b := srcK b }
  -- row 0xC (R261)
  | .rayq d a b => { d := dstV d .quad, a := srcV a .eight, b := sel b 255 }
  | .rayqa d a b => { d := dstV d .quad, a := srcV a .eight, b := sel b 255 }
  | .tex d a b => { d := dstV d .quad, a := srcV a .quad, b := sel b 255 }
  | .texl d a b => { d := dstV d .quad, a := srcV a .quad, b := sel b 255 }
  | .texg d a b => { d := dstV d .quad, a := srcV a .eight, b := sel b 255 }
  -- row 0xD (R382, R383, R385)
  | .rdtime d => { d := some (.reg d .write .pair .kOnly), guard := false }
  | .rdsr d b => { d := some (.reg d .write (if sr64 b then .pair else .one) .kOnly), b := sel b 255, guard := false }
  | .wrsr a b => { a := srcK a (if sr64 b then .pair else .one), b := sel b 255, guard := false }
  | .tret => { guard := false }
  | .tlbinv a b => { a := srcK a .pair, b := srcK b, guard := false }
  | .irq b => { b := sel b 255, guard := false }
  | .haltg d a => shapeHandle d a
  | .resumeg d a => shapeHandle d a
  | .gsave d a b => { d := dstK d, a := srcK a, b := srcK b .pair, guard := false }
  | .gload d a b => { d := dstK d, a := srcK a, b := srcK b .pair, guard := false }
  | .linkq d b => shapeDie d b
  | .linkup d b => shapeDie d b
  | .dierst d b => shapeDie d b
  | .homebyp d a b => { d := dstK d, a := sel a 3, b := sel b 1, guard := false }
  | .flushd d b => shapeDie d b
  | .park => { guard := false }
  -- steps of the device
  | .txCommit _ _ => { guard := false }
  | .growGrant _ _ _ => { guard := false }
  | .sleepEnd _ _ _ => { guard := false }
  | .capHeld _ => { guard := false }
  | .capExpiry _ => { guard := false }
  | .leaseExpiry _ _ => { guard := false }
  | .heatDecay _ => { guard := false }
  | .leaseReadRequest _ _ => { guard := false }
  | .guestReadRequest _ _ => { guard := false }
  | .homeWrite _ => { guard := false }
  | .nearAtomicGrant _ _ => { guard := false }
  | .ownershipRecall _ => { guard := false }
  | .guestInvalidate _ _ => { guard := false }
  | .cardInvalidate _ _ => { guard := false }
  | .exclusiveRequest _ _ => { guard := false }
  | .snpinv _ => { guard := false }
  | .snpdata _ => { guard := false }
  | .snpcur _ => { guard := false }
  | .replicaUpdate _ _ => { guard := false }
  | .fillRequest _ _ _ => { guard := false }
  | .pageWalk _ _ => { guard := false }
  | .fillRedirect _ _ _ => { guard := false }
  | .faultResolved _ => { guard := false }
  | .faultFailed _ _ => { guard := false }
  | .nvmeCompletion _ _ => { guard := false }
  | .nvmeTimeout _ => { guard := false }
  | .regionCmd _ => { guard := false }
  | .regionSwitchPoint => { guard := false }
  | .commitPoint _ _ => { guard := false }
  | .foldingFinish _ _ => { guard := false }
  | .scrubbingFinish _ _ => { guard := false }
  | .forkTakeTags _ _ => { guard := false }
  | .joinDeadline _ _ => { guard := false }
  | .deferredEffect _ _ => { guard := false }
  | .copyLanding _ => { guard := false }
  | .copyComplete _ => { guard := false }
  | .matrixPass _ _ => { guard := false }
  | .mbldComplete _ _ => { guard := false }
  | .batchComplete _ _ => { guard := false }
  | .rayComplete _ => { guard := false }
  | .texComplete _ => { guard := false }
  | .resultWriteback _ _ _ => { guard := false }
  | .gangPlacement _ => { guard := false }
  | .groupRetire _ => { guard := false }
  | .completionSignal _ => { guard := false }
  | .earlyTrigger _ => { guard := false }
  | .tailWrite _ _ => { guard := false }
  | .launchRegister _ _ => { guard := false }
  | .queueEnable _ => { guard := false }
  | .queueDisable _ => { guard := false }
  | .registerWrite _ _ _ => { guard := false }
  | .trailerRead _ => { guard := false }
  | .nopPacket _ => { guard := false }
  | .launchPacket _ => { guard := false }
  | .launchShort _ => { guard := false }
  | .graphRun _ => { guard := false }
  | .graphLoad _ => { guard := false }
  | .signalPacket _ => { guard := false }
  | .waitPacket _ => { guard := false }
  | .waitPoll _ => { guard := false }
  | .copyPacket _ => { guard := false }
  | .accountOpen _ => { guard := false }
  | .accountClose _ => { guard := false }
  | .commitPacket _ => { guard := false }
  | .tensorDef _ => { guard := false }
  | .preemptCmd _ => { guard := false }
  | .readmitCmd _ => { guard := false }
  | .resetCmd _ => { guard := false }
  | .haltCmd _ => { guard := false }
  | .resumeCmd _ => { guard := false }
  | .saveCmd _ => { guard := false }
  | .loadCmd _ => { guard := false }
  | .attachCmd _ => { guard := false }
  | .detachCmd _ => { guard := false }
  | .sliceExpiry _ => { guard := false }
  | .d1Deadline _ => { guard := false }
  | .d2Deadline _ => { guard := false }
  | .watchdogExpiry _ _ => { guard := false }
  | .traceSample _ _ => { guard := false }
  | .attCmd _ => { guard := false }
  | .latchPoint _ _ => { guard := false }
  | .firmwareBoot _ => { guard := false }
  | .deviceReset => { guard := false }
  | .linkRetrain _ => { guard := false }
  | .flitReplay _ => { guard := false }
  | .linkUp _ => { guard := false }
  | .peerDown _ => { guard := false }
  | .eccCorrected _ _ _ _ => { guard := false }
  | .eccUncorrected _ _ _ _ => { guard := false }
  | .patrolScrub _ => { guard := false }
  | .replan _ => { guard := false }
  | .lowSlack _ => { guard := false }
  | .thermalLimit _ => { guard := false }
  | .governorWindow _ => { guard := false }
  | .bankGate _ _ => { guard := false }
  | .hostBar2Read _ _ => { guard := false }
  | .hostBar2Write _ _ _ => { guard := false }
  | .contextCreation _ _ => { guard := false }
  | .powerGating _ => { guard := false }
  | .temperatureDrop _ => { guard := false }
  | .pldmRequest _ _ => { guard := false }
  | .cxlMemAccess _ _ _ _ => { guard := false }

/-- The latency classes of rule R136. -/
inductive Latency where
  | fixed (clk : Nat)
  | varying
  /-- the instruction writes no register -/
  | nothing
deriving DecidableEq, Repr

/-- 4, 5 or 6 clk, or variable when the mode type is 64-bit (R136, R159, R164). -/
def Latency.unless64 (clk : Nat) (mode : ModeImage) : Latency :=
  if type64 (modeType mode) then .varying else .fixed clk

/-- The latency of an instruction's register result under a mode (R136). -/
def latency (mode : ModeImage) : Instr → Latency
  | .ldlit _ => .fixed 4
  | .iadd _ _ _ | .isub _ _ _ | .imul _ _ _ | .imulhi _ _ _ | .nmulhi _ _ _ | .imad _ _ _ | .shl _ _ _ | .shr _ _ _
  | .sar _ _ _ | .andW _ _ _ | .orW _ _ _ | .xorW _ _ _ | .imin _ _ _ | .imax _ _ _ | .nmin _ _ _ | .nmax _ _ _ => .fixed 4
  | .popc _ _ | .clz _ _ | .brev _ _ | .bfx _ _ _ | .bfi _ _ _ | .sel _ _ _ | .mov _ _ => .fixed 4
  | .movu _ _ _ | .shuf _ _ _ | .shufx _ _ _ | .ballot _ _ | .vany _ _ | .vall _ _ => .fixed 6
  | .icmpeq _ _ _ | .icmpne _ _ _ | .icmplt _ _ _ | .icmple _ _ _ | .ncmplt _ _ _ | .ncmple _ _ _
  | .qand _ _ _ | .qor _ _ _ | .qxor _ _ _ | .qtov _ _ | .vtoq _ _ => .fixed 4
  | .cmpeq _ _ _ | .cmpne _ _ _ | .cmplt _ _ _ | .cmple _ _ _ | .cmpun _ _ _ => .unless64 4 mode
  | .addT _ _ _ | .subT _ _ _ | .mulT _ _ _ | .fma _ _ _ | .fms _ _ _ | .fnma _ _ _ | .minT _ _ _ | .maxT _ _ _
  | .absT _ _ | .negT _ _ | .clamp _ _ _ | .fract _ _ | .floor _ _ | .ceil _ _ | .trunc _ _ | .rint _ _
  | .cvt _ _ _ | .pack _ _ _ | .unpacklo _ _ | .unpackhi _ _ | .dot2 _ _ _ | .dot4 _ _ _ | .scaleb _ _ _
  | .classT _ _ => .unless64 5 mode
  | i =>
    match (shape i).d, (shape i).writesLink with
    | some (.reg _ .read _ _), false => .nothing
    | some (.reg _ _ _ _), _ => .varying
    | _, true => .varying
    | _, _ => .nothing

/-- Whether a register operand names registers with no per-lane difference: k, or a fixed register other than c3 (R132). -/
def uniformReg : Reg → Bool
  | .v _ => false
  | .k _ => true
  | .c n => n.val != 3

/-- Whether a field is a register source that differs between lanes. -/
def perLaneSource : Option Field → Bool
  | some (.reg r .read _ _) => !uniformReg r
  | _ => false

/-- Whether every register source in A and B is uniform (R132, R184, R192). -/
def uniformSources (sh : Shape) : Bool := !perLaneSource sh.a && !perLaneSource sh.b

/-- Whether a field accepts its register (R129 to R132). -/
def regAccepted (uniform : Bool) (mode : ModeImage) (r : Reg) (w : Width) (al : Allow) : Bool :=
  match r with
  | .v n => al.v && n.val % w.align mode == 0
  | .k n =>
    n.val % w.align mode == 0 &&
      match al.k with
      | .none => false
      | .any => true
      | .ifUniform => uniform
  | .c n =>
    match al.c with
    | .none => false
    | .zero => n.val == 0
    | .readable => n.val < 15
    | .uniform => n.val < 15 && n.val != 3

/-- Whether a field holds a legal operand. -/
def fieldAccepted (uniform : Bool) (mode : ModeImage) : Option Field → Bool
  | none => true
  | some (.reg r _ w al) => regAccepted uniform mode r w al
  | some (.pred q _) => q.toNat < 8
  | some (.sel x lo hi) => lo ≤ x.toNat && x.toNat ≤ hi

/-- Whether a selector names a special register that is assigned (R382). -/
def srAssigned (sel : Selector) : Bool :=
  (1 ≤ sel.toNat && sel.toNat ≤ 0x0D) || (0x40 ≤ sel.toNat && sel.toNat ≤ 0x4B)

/-- Whether a special register may be written: srseed, schedmask, trapbase, pacecheck, faultq_head, schedmask0 to 3,
faultq_base, fwwake (R382). -/
def srWritable (sel : Selector) : Bool :=
  let n := sel.toNat
  n == 0x02 || n == 0x40 || n == 0x41 || n == 0x42 || n == 0x43 || (0x45 ≤ n && n ≤ 0x48) || n == 0x49 || n == 0x4B

/-- Whether the selector of RDSR or WRSR names a register the instruction may name (R383). -/
def srAccepted : Instr → Bool
  | .rdsr _ b => srAssigned b
  | .wrsr _ b => srWritable b
  | _ => true

/-- The first field that holds an illegal operand: 1 D, 2 A, 3 B, the sub-cause of ILLEGAL_OPERAND (R360). -/
def operandFault (mode : ModeImage) (i : Instr) : Option Nat :=
  let sh := shape i
  let u := uniformSources sh
  if !fieldAccepted u mode sh.d then some 1
  else if !fieldAccepted u mode sh.a then some 2
  else if !fieldAccepted u mode sh.b || !srAccepted i then some 3
  else none

/-- The registers of an operand, from its base. -/
def regRun (r : Reg) (n : Nat) : List Reg :=
  match r with
  | .v b => (List.range n).filterMap fun j => if h : b.val + j < 192 then some (.v ⟨b.val + j, h⟩) else none
  | .k b => (List.range n).filterMap fun j => if h : b.val + j < 32 then some (.k ⟨b.val + j, h⟩) else none
  | .c b => [.c b]

/-- The registers a field reads (written = false) or writes. -/
def fieldRegs (mode : ModeImage) (written : Bool) : Option Field → List Reg
  | some (.reg r use w _) =>
    if use = .both || use = (if written then .write else .read) then regRun r (w.regs mode) else []
  | _ => []

/-- The predicates a field reads or writes. -/
def fieldPreds (written : Bool) : Option Field → List Nat
  | some (.pred q use) => if use = .both || use = (if written then .write else .read) then [q.toNat] else []
  | _ => []

/-- The guard predicate of a mode, when it has one (R133, R139). -/
def guardPred (mode : ModeImage) : Nat := (mode.extractLsb' 20 3).toNat
def guardInverted (mode : ModeImage) : Bool := mode.getLsbD 23
def guarded (mode : ModeImage) : Bool := guardPred mode != 0 || guardInverted mode

/-- The registers an instruction reads and writes, k31 of CALL and RET included. -/
def readRegs (mode : ModeImage) (i : Instr) : List Reg :=
  let sh := shape i
  fieldRegs mode false sh.d ++ fieldRegs mode false sh.a ++ fieldRegs mode false sh.b ++
    (if sh.readsLink then [.k 31] else [])

def writtenRegs (mode : ModeImage) (i : Instr) : List Reg :=
  let sh := shape i
  fieldRegs mode true sh.d ++ (if sh.writesLink then [.k 31] else [])

/-- The predicates an instruction reads, the guard's included (R139), and writes. -/
def readPreds (mode : ModeImage) (i : Instr) : List Nat :=
  let sh := shape i
  fieldPreds false sh.d ++ fieldPreds false sh.a ++ fieldPreds false sh.b ++
    (if sh.guard && guardPred mode != 0 then [guardPred mode] else [])

def writtenPreds (i : Instr) : List Nat := fieldPreds true (shape i).d

/-- The v registers that A names when it is read as a register: those a last-read mark declares dead (R126). -/
def markedRegs (mode : ModeImage) (i : Instr) : List Nat :=
  match (shape i).a with
  | some (.reg (.v b) use w _) =>
    if use = .write then []
    else (regRun (.v b) (if w.regs mode = 2 then 2 else 1)).filterMap fun r => match r with | .v n => some n.val | _ => none
  | _ => []

/-- Whether the instruction is privileged (R135, R383): row 0xD but RDTIME, RDSR of a user selector, WRSR of srseed. -/
def privileged : Instr → Bool
  | .rdsr _ b => 0x40 ≤ b.toNat
  | .wrsr _ b => b != 0x02#8
  | .tret | .tlbinv _ _ | .irq _ | .haltg _ _ | .resumeg _ _ | .gsave _ _ _ | .gload _ _ _ | .linkq _ _ | .linkup _ _
  | .dierst _ _ | .homebyp _ _ _ | .flushd _ _ | .park => true
  | _ => false

end Sys2Proof.Machine
end

