-- ==== Sys2Proof/Machine/Flags.lean ====
section
/-!
DEFINITION. Sys2Proof/Machine/Flags.lean: the fields of the mode image (R133), the guard's polarity, and what the integer
compares say (R159). The OV9 has no arithmetic status flags (R65): its flags are the predicates q1 to q7.
-/

namespace Sys2Proof.Machine

open Sys2Proof

def modeSat (m : ModeImage) : Bool := m.getLsbD 11
def modeFtz (m : ModeImage) : Bool := m.getLsbD 10
/-- 0 rlx, 1 acq, 2 rel, 3 ar (R133). -/
def modeOrder (m : ModeImage) : Nat := (m.extractLsb' 5 2).toNat

/-- The mode image at wave start, at a handler's entry and after a restart (R27, R133, R357). -/
def modeStart : ModeImage := 0x000200#24

/-- The guard after polarity: the lanes whose guard bit is 1, from the value of the predicate named by `gq` (R133). -/
def guardLanes (m : ModeImage) (q : LaneMask) : LaneMask :=
  let q := if guardPred m = 0 then 0xFFFFFFFF#32 else q
  if guardInverted m then ~~~q else q

/-- The integer compares of row 0x3 (R159). -/
inductive IntCompare where
  | eq | ne | slt | sle | ult | ule
deriving DecidableEq, Repr

def IntCompare.holds (c : IntCompare) (a b : Word) : Bool :=
  match c with
  | .eq => a == b
  | .ne => a != b
  | .slt => a.slt b
  | .sle => a.sle b
  | .ult => a.ult b
  | .ule => a.ule b

/-- A predicate with new bits in the lanes of S and its old bits elsewhere (R159). -/
def mergeLanes (old new lanes : LaneMask) : LaneMask := (old &&& ~~~lanes) ||| (new &&& lanes)

end Sys2Proof.Machine
end

