-- ==== Sys2Proof/Machine/Operands.lean ====
section
/-!
DEFINITION. Sys2Proof/Machine/Operands.lean: the wave that acts, and what its operands read: v, k and q registers with the
outcomes of early reads, dead registers and lane reads of other paths (R126, R137, R158), fixed registers in the mode type
(R63, R130), pairs, address pairs (R180).
-/

namespace Sys2Proof.Machine

open Sys2Proof

/-- The path that acts, with its wave and group at hand. The copies are the authoritative ones until they are put back. -/
structure Ctx where
  s : State
  gk : Nat
  g : Group
  wi : Nat
  w : Wave
  slotB : Bool
  p : Path
  cur : Issue
deriving DecidableEq, Repr

/-- The path in a slot. -/
def Wave.slot (w : Wave) (slotB : Bool) : Option Path := if slotB then w.slotB else w.slotA
def Wave.setSlot (w : Wave) (slotB : Bool) (p : Option Path) : Wave := if slotB then { w with slotB := p } else { w with slotA := p }

/-- The clk before which a slot's next instruction may not leave the collector (R125), and the picker's rank of the slot (R124). -/
def Wave.pace (w : Wave) (slotB : Bool) : Nat := if slotB then w.paceB else w.paceA
def Wave.setPace (w : Wave) (slotB : Bool) (t : Nat) : Wave := if slotB then { w with paceB := t } else { w with paceA := t }
def Wave.yields (w : Wave) (slotB : Bool) : Bool := if slotB then w.yieldB else w.yieldA
def Wave.setYield (w : Wave) (slotB y : Bool) : Wave := if slotB then { w with yieldB := y } else { w with yieldA := y }

/-- The clk at which every fixed-latency result issued so far has been written (R313). -/
def Wave.settledAt (w : Wave) (clk : Nat) : Nat := w.flights.foldl (fun m e => max m e.done) clk

/-- The path that has issued, if there is one. -/
def State.ctx? (s : State) : Option Ctx :=
  match s.cur with
  | none => none
  | some cur =>
    match s.groups.find? cur.g with
    | none => none
    | some g =>
      match g.waves[cur.w]? with
      | none => none
      | some w =>
        match w.slot cur.slotB with
        | none => none
        | some p => some ⟨s, cur.g, g, cur.w, w, cur.slotB, p, cur⟩

/-- Put a wave back into its group. -/
def Group.setWave (g : Group) (wi : Nat) (w : Wave) : Group := { g with waves := g.waves.set wi w }

/-- The state with the wave of the context, its path not touched. -/
def Ctx.putWave (c : Ctx) : State := { c.s with groups := c.s.groups.set c.gk (c.g.setWave c.wi c.w) }

/-- The state with the path, the wave and the group of the context. -/
def Ctx.putPath (c : Ctx) : State := { c with w := c.w.setSlot c.slotB (some c.p) }.putWave

/-- The active mask, the mode, the core, the die, the future tag. -/
def Ctx.act (c : Ctx) : LaneMask := c.p.mask
def Ctx.mode (c : Ctx) : ModeImage := c.p.mode
def Ctx.core (c : Ctx) : Nat := coreOfGroup c.gk
def Ctx.die (c : Ctx) : Nat := dieOfGroup c.gk
def Ctx.tag (c : Ctx) : Nat := c.g.tag

/-- A firmware wave: it runs on core 0 of its die (R1, R380). -/
def Ctx.firmware (c : Ctx) : Bool := c.core % Config.coresPerDie == 0
/-- A privileged wave: a firmware wave, or a wave in handler mode (R380). -/
def Ctx.privileged (c : Ctx) : Bool := c.firmware || c.w.handler.isSome

/-- The code image that branches and fetches are checked against: the launch's, or the handler's in handler mode (R140, R358). -/
def Ctx.code (c : Ctx) : Code :=
  match c.w.handler with
  | some h => ⟨h.base, h.len⟩
  | none => c.g.code

/-! ## v, k and q registers -/

def vKey (n l : Nat) : Nat := n * 32 + l

/-- A register's value before a producer's write, from the entry of a result in flight. -/
def InFlight.before (e : InFlight) (l : Nat) : Word := e.old.getD (if e.old.length = 1 then 0 else l) 0#32

/-- An early read takes the value before or after each producer that it comes too early for (R137). -/
def earlyRead (free place : Nat) (name : RegName) (l : Nat) : List InFlight → Word → Word
  | [], x => x
  | e :: r, x =>
    earlyRead free (place + 1) name l r
      (if e.reg = name && 0 < e.left && e.lanes.getLsbD l && Config.freeChoice free place then e.before l else x)

/-- A lane read of a result that has not been written back takes the value before or after it (R158). -/
def pendingRead (free place n l : Nat) : List Outstanding → Word → Word
  | [], x => x
  | o :: r, x =>
    pendingRead free (place + 1) n l r
      (if o.regs.contains (.v n) && o.lanes.getLsbD l && Config.freeChoice free place then (o.old.find? (vKey n l)).getD x else x)

/-- The same for a result of fixed latency that is not written yet. -/
def laneRead (free clk place n l : Nat) : List LaneFlight → Word → Word
  | [], x => x
  | e :: r, x =>
    laneRead free clk (place + 1) n l r
      (if e.n = n && clk < e.done && e.lanes.getLsbD l && Config.freeChoice free place then e.old.getD l 0#32 else x)

/-- The v register n of lane l as an instruction of the path reads it. A lane of another path may still have a result of its
own in flight (R158); a dead register reads its value or 0 (R126). -/
def Ctx.readV (c : Ctx) (n l : Nat) : Word :=
  let x := Tab.get 0#32 c.w.v (vKey n l)
  let place := vKey n l * 64
  let x :=
    if c.act.getLsbD l then earlyRead c.s.free place (.v n) l c.p.inflight x
    else
      pendingRead c.s.free (place + 32) n l c.w.scoreboard (laneRead c.s.free c.s.clk place n l c.w.flights x)
  if (Tab.get 0#32 c.w.dead n).getLsbD l && Config.freeChoice c.s.free (place + 63) then 0#32 else x

/-- The k register n (R26). Writes of the other slot are always interlocked (R137). -/
def Ctx.readK (c : Ctx) (n : Nat) : Word :=
  earlyRead c.s.free ((6144 + n) * 64) (.k n) 0 (c.p.inflight.map fun e => { e with lanes := 0xFFFFFFFF#32 }) (Tab.get 0#32 c.w.k n)

/-- The predicate n: q0 reads as all ones (R129). An early read chooses per lane (R137). -/
def Ctx.readQ (c : Ctx) (n : Nat) : LaneMask :=
  if n = 0 then 0xFFFFFFFF#32
  else
    let x := Tab.get 0#32 c.w.q n
    c.p.inflight.foldl (fun x e =>
      if e.reg = .q n && 0 < e.left then
        laneSet fun l => if e.lanes.getLsbD l && Config.freeChoice c.s.free ((8192 + n) * 64 + l) then (e.before 0).getLsbD l else x.getLsbD l
      else x) x

/-- The guard after polarity, and the lanes of S: active lanes whose guard bit is 1 (R139). -/
def Ctx.guard (c : Ctx) : LaneMask := guardLanes c.mode (c.readQ (guardPred c.mode))
def Ctx.S (c : Ctx) : LaneMask := c.act &&& c.guard

/-! ## Writing registers -/

/-- Write v register n in the lanes given: the lanes are no longer dead or poisoned (R126, R362). -/
def Wave.writeV (w : Wave) (n : Nat) (lanes : LaneMask) (f : Nat → Word) : Wave :=
  { w with
    v := (lanesOf lanes).foldl (fun t l => t.put 0#32 (vKey n l) (f l)) w.v
    dead := w.dead.put 0#32 n (Tab.get 0#32 w.dead n &&& ~~~lanes)
    poison := (w.poison.map fun p => if p.reg = .v n then { p with lanes := p.lanes &&& ~~~lanes } else p).filter
      fun p => p.lanes ≠ 0#32 }

/-- Write k register n (R26). -/
def Wave.writeK (w : Wave) (n : Nat) (x : Word) : Wave :=
  { w with k := w.k.put 0#32 n x, poison := w.poison.filter fun p => p.reg ≠ .k n }

/-- Write predicate n in the lanes given; a write to q0 is discarded (R129). -/
def Wave.writeQ (w : Wave) (n : Nat) (lanes bits : LaneMask) : Wave :=
  if n = 0 then w else { w with q := w.q.put 0#32 n (mergeLanes (Tab.get 0#32 w.q n) bits lanes) }

/-! ## Fixed registers (R63, R130) -/

/-- The element constants of c8 to c14 for a type code: (width, the seven constants) of a scalar or of each element. -/
def typeConstants (code : Nat) : Nat × List Nat :=
  match code with
  | 0x00 => (32, [0x3F800000, 0x3F000000, 0x40000000, 0x7F800000, 0x7FC00000, 0x00800000, 0x7F7FFFFF])
  | 0x01 | 0x0A => (16, [0x3C00, 0x3800, 0x4000, 0x7C00, 0x7E00, 0x0400, 0x7BFF])
  | 0x02 | 0x0B => (16, [0x3F80, 0x3F00, 0x4000, 0x7F80, 0x7FC0, 0x0080, 0x7F7F])
  | 0x03 => (8, [0x38, 0x30, 0x40, 0x7E, 0x7F, 0x08, 0x7E])
  | 0x04 => (8, [0x3C, 0x38, 0x40, 0x7C, 0x7E, 0x04, 0x7B])
  | 0x05 => (64, [0x3FF0000000000000, 0x3FE0000000000000, 0x4000000000000000, 0x7FF0000000000000, 0x7FF8000000000000,
                  0x0010000000000000, 0x7FEFFFFFFFFFFFFF])
  | 0x06 => (32, [1, 0, 2, 0x7FFFFFFF, 0, 0x80000000, 0x7FFFFFFF])
  | 0x07 => (32, [1, 0, 2, 0xFFFFFFFF, 0, 0, 0xFFFFFFFF])
  | 0x08 => (64, [1, 0, 2, 0x7FFFFFFFFFFFFFFF, 0, 0x8000000000000000, 0x7FFFFFFFFFFFFFFF])
  | 0x09 => (64, [1, 0, 2, 0xFFFFFFFFFFFFFFFF, 0, 0, 0xFFFFFFFFFFFFFFFF])
  | 0x0C => (16, [1, 0, 2, 0x7FFF, 0, 0x8000, 0x7FFF])
  | 0x0D => (16, [1, 0, 2, 0xFFFF, 0, 0, 0xFFFF])
  | 0x0E => (8, [1, 0, 2, 0x7F, 0, 0x80, 0x7F])
  | _ => (8, [1, 0, 2, 0xFF, 0, 0, 0xFF])

/-- How many elements a type holds in its register: 1 for scalars, 2 for the x2, 4 for the x4 types (R134, R173). -/
def elementCount (code : Nat) : Nat :=
  match code with
  | 0x03 | 0x04 | 0x0E | 0x0F => 4
  | 0x0A | 0x0B | 0x0C | 0x0D => 2
  | _ => 1

/-- n copies of an element of w bits side by side. -/
def replicate (w x : Nat) : Nat → Nat
  | 0 => 0
  | n + 1 => x + 2 ^ w * replicate w x n

/-- The constant of c(8 + i) of a type, each element of a packed type holding its element constant. -/
def typeConstant (code i : Nat) : Nat :=
  let (w, cs) := typeConstants code
  replicate w (cs.getD i 0) (elementCount code)

/-- The 64-bit type of the same kind, and the 32-bit type of the same kind (R63). -/
def wideKind (code : Nat) : Nat :=
  match code with
  | 0x06 | 0x08 | 0x0C | 0x0E => 0x08
  | 0x07 | 0x09 | 0x0D | 0x0F => 0x09
  | _ => 0x05
def narrowKind (code : Nat) : Nat :=
  match code with
  | 0x05 => 0x00
  | 0x08 => 0x06
  | 0x09 => 0x07
  | n => n

/-- The core id that c7 and the coreid selector read: [15:8] die, [7:0] core (R130, R382). -/
def coreId (core : Nat) : Nat := core / Config.coresPerDie * 256 + core % Config.coresPerDie

/-- A fixed register read as a 32-bit operand in lane l (R63, R130). -/
def Ctx.fixed (c : Ctx) (n l : Nat) : Word :=
  match n with
  | 0 => 0#32
  | 1 => 1#32
  | 2 => 0xFFFFFFFF#32
  | 3 => BitVec.ofNat 32 l
  | 4 => BitVec.ofNat 32 c.wi
  | 5 => BitVec.ofNat 32 c.g.linear
  | 6 => BitVec.ofNat 32 c.g.tag
  | 7 => BitVec.ofNat 32 (coreId c.core)
  | n => BitVec.ofNat 32 (typeConstant (narrowKind (modeType c.mode)) (n - 8))

/-- A fixed register read as a 64-bit operand (R63, R130). -/
def Ctx.fixed64 (c : Ctx) (n l : Nat) : DWord :=
  if n < 8 then (c.fixed n l).setWidth 64 else BitVec.ofNat 64 (typeConstant (wideKind (modeType c.mode)) (n - 8))

/-! ## Operands -/

/-- val(x, l) of R139: a 32-bit operand in lane l. -/
def Ctx.val (c : Ctx) (r : Reg) (l : Nat) : Word :=
  match r with
  | .v n => c.readV n.val l
  | .k n => c.readK n.val
  | .c n => c.fixed n.val l

/-- A 64-bit operand in lane l: the even register holds bits [31:0] (R61). -/
def Ctx.val64 (c : Ctx) (r : Reg) (l : Nat) : DWord :=
  match r with
  | .v n => c.readV (n.val + 1) l ++ c.readV n.val l
  | .k n => c.readK (n.val + 1) ++ c.readK n.val
  | .c n => c.fixed64 n.val l

/-- Word j of a multi-register operand in lane l. -/
def Ctx.valAt (c : Ctx) (r : Reg) (j l : Nat) : Word :=
  match r with
  | .v n => c.readV (n.val + j) l
  | .k n => c.readK (n.val + j)
  | .c n => if j = 0 then c.fixed n.val l else 0#32

/-- A typed operand: the register or, under a 64-bit type, the pair (R161), as a number. -/
def Ctx.valT (c : Ctx) (code : Nat) (r : Reg) (l : Nat) : Nat :=
  if type64 code then (c.val64 r l).toNat else (c.val r l).toNat

/-- The address of lane l of a memory operand [A, B] (R180). -/
def Ctx.address (c : Ctx) (a b : Reg) (l : Nat) : Nat := (addOffset (c.val64 a l) (c.val b l)).toNat

/-- The address of an operand [A] without offset. -/
def Ctx.address1 (c : Ctx) (a : Reg) (l : Nat) : Nat := (c.val64 a l).toNat

end Sys2Proof.Machine
end

