-- ==== Sys2Proof/Machine/CodeImage.lean ====
section
/-!
DEFINITION. Sys2Proof/Machine/CodeImage.lean: combs as the core reads them: words of a code image, literal slots, straight-line
order, legal branch targets (R121 to R123, R126, R140).
-/

namespace Sys2Proof.Machine

open Sys2Proof

/-- The ASID through which a path's code is fetched: the context's, or the device's own addresses for a handler, whose image
the firmware names (R358, R380). -/
def Ctx.codeAsid (c : Ctx) : Nat := if c.w.handler.isSome then 0 else c.g.ctx

/-- The physical place of the code byte at a virtual address, in the trunk version (R126); none where it cannot be fetched. -/
def State.codePlace (s : State) (asid va : Nat) : Option Nat :=
  if !canonical va || bitOf va 56 then none
  else
    match s.translate asid va with
    | .ok t => if t.read then some (memPlace 0 (t.pa va)) else none
    | .fault _ _ _ => none

/-- The code word at a virtual address; 0, a NOP, where it cannot be fetched. What stands in memory now is fetched, also of a comb that is
stored while it may run (R126; DEDUCED, log entry 114). -/
def State.codeWord (s : State) (asid va : Nat) : Word :=
  bytesWord ((List.range 4).map fun i =>
    match s.codePlace asid (va + i) with
    | some p => s.byteAt p
    | none => 0#8)

/-- Whether a word is an LDLIT (R121). -/
def isLdlit (w : Word) : Bool := opcodeOf w == 0x02#8

/-- Whether slot n of the comb at va holds a literal, scanning from slot 1 upward (R121). -/
def State.literalSlot (s : State) (asid comb : Nat) : Nat → Bool
  | 0 => false
  | 1 => false
  | n + 2 => !s.literalSlot asid comb (n + 1) && isLdlit (s.codeWord asid (comb + 4 * (n + 1)))

/-- The comb slot that a code offset names. -/
def slotOf (off : Nat) : Nat := off / 4 % 8
/-- The offset of the comb that a code offset lies in. -/
def combOf (off : Nat) : Nat := off / 32 * 32

/-- Whether a code offset is a legal branch target: inside the image, a multiple of 4, not word 0 of a comb, not a literal slot
(R140). -/
def State.targetLegal (s : State) (asid : Nat) (code : Code) (off : Nat) : Bool :=
  off % 4 == 0 && off < code.len && slotOf off ≠ 0 && !s.literalSlot asid (code.base + combOf off) (slotOf off)

/-- The next instruction in straight-line order after a code offset (R123): a literal slot is skipped, and slot 7 is followed by
slot 1 of the next comb. -/
def nextOffset (off : Nat) (ldlit : Bool) : Nat :=
  let n := slotOf off + (if ldlit then 2 else 1)
  if n < 8 then combOf off + 4 * n else combOf off + 36

/-- Bits of a control word: slot codes, yield hint, reserved bits (R122). -/
def slotCode (ctl : Word) (slot : Nat) : BitVec 4 := ctl.extractLsb' (4 * (slot - 1)) 4
def ctlYield (ctl : Word) : Bool := ctl.getLsbD 28
def ctlReserved (ctl : Word) : Bool := ctl.extractLsb' 29 3 != 0#3

/-- The pace of a slot code and its last-read mark (R122). -/
def paceOf (code : BitVec 4) : Nat := (code.extractLsb' 0 3).toNat
def marked (code : BitVec 4) : Bool := code.getLsbD 3

end Sys2Proof.Machine
end

