-- ==== Sys2Proof/Machine/Numbers.lean ====
section
/-!
DEFINITION. Sys2Proof/Machine/Numbers.lean: the number formats (R60, R61), exact values, the rounding helper (R68 to R71), the
stochastic generator (R72), integer reduction (R74), and the conversions of one element (R75).
-/

namespace Sys2Proof.Machine

open Sys2Proof

/-! ## Formats -/

/-- A float format (R60): its width, exponent and fraction widths, bias, and whether the all-ones exponent holds infinity and
NaN (every format but E4M3). -/
structure Fmt where
  bits : Nat
  ebits : Nat
  fbits : Nat
  bias : Nat
  hasInf : Bool
deriving DecidableEq, Repr

def fmtF64 : Fmt := ⟨64, 11, 52, 1023, true⟩
def fmtF32 : Fmt := ⟨32, 8, 23, 127, true⟩
def fmtF16 : Fmt := ⟨16, 5, 10, 15, true⟩
def fmtBf16 : Fmt := ⟨16, 8, 7, 127, true⟩
def fmtE5M2 : Fmt := ⟨8, 5, 2, 15, true⟩
def fmtE4M3 : Fmt := ⟨8, 4, 3, 7, false⟩

/-- What the elements of a type are: floats of a format, or integers, signed or not, of a width. -/
inductive Elem where
  | float (f : Fmt)
  | int (signed : Bool) (w : Nat)
deriving DecidableEq, Repr

/-- The element of a type code (R134). -/
def elemOf (code : Nat) : Elem :=
  match code with
  | 0x00 => .float fmtF32
  | 0x01 | 0x0A => .float fmtF16
  | 0x02 | 0x0B => .float fmtBf16
  | 0x03 => .float fmtE4M3
  | 0x04 => .float fmtE5M2
  | 0x05 => .float fmtF64
  | 0x06 => .int true 32
  | 0x07 => .int false 32
  | 0x08 => .int true 64
  | 0x09 => .int false 64
  | 0x0C => .int true 16
  | 0x0D => .int false 16
  | 0x0E => .int true 8
  | _ => .int false 8

/-- The width of an element in bits. -/
def Elem.width : Elem → Nat
  | .float f => f.bits
  | .int _ w => w

/-- The canonical quiet NaN (R64). -/
def Fmt.nan (f : Fmt) : Nat := if f.hasInf then (2 ^ f.ebits - 1) * 2 ^ f.fbits + 2 ^ (f.fbits - 1) else 2 ^ (f.bits - 1) - 1
/-- The sign bit, set or not. -/
def Fmt.sign (f : Fmt) (neg : Bool) : Nat := if neg then 2 ^ (f.bits - 1) else 0
/-- The largest finite magnitude, as bits (R60). -/
def Fmt.max (f : Fmt) : Nat := if f.hasInf then (2 ^ f.ebits - 1) * 2 ^ f.fbits - 1 else 2 ^ (f.bits - 1) - 2
/-- Infinity; E4M3 has none: the canonical NaN, or the largest finite value under `sat` (R69, R70). -/
def Fmt.inf (f : Fmt) (neg sat : Bool) : Nat :=
  if f.hasInf then f.sign neg + (2 ^ f.ebits - 1) * 2 ^ f.fbits else if sat then f.sign neg + f.max else f.nan

/-- An exact float value: a NaN, an infinity, or a signed quotient of naturals; zero keeps its sign. -/
inductive FV where
  | nan
  | inf (neg : Bool)
  | fin (neg : Bool) (num den : Nat)
deriving DecidableEq, Repr

/-- ±m × 2^e as a quotient. -/
def fvScaled (neg : Bool) (m : Nat) (e : Int) : FV := if 0 ≤ e then .fin neg (m * 2 ^ e.toNat) 1 else .fin neg m (2 ^ (-e).toNat)

/-- The value that bits hold (R60); a subnormal reads as a signed zero under `ftz` (R71). -/
def Fmt.value (f : Fmt) (ftz : Bool) (x : Nat) : FV :=
  let neg := bitOf x (f.bits - 1)
  let e := bitsOf x f.fbits f.ebits
  let m := bitsOf x 0 f.fbits
  if e = 2 ^ f.ebits - 1 && f.hasInf then (if m = 0 then .inf neg else .nan)
  else if e = 2 ^ f.ebits - 1 && m = 2 ^ f.fbits - 1 then .nan
  else if e = 0 then (if ftz then .fin neg 0 1 else fvScaled neg m (1 - (f.bias : Int) - f.fbits))
  else fvScaled neg (m + 2 ^ f.fbits) ((e : Int) - f.bias - f.fbits)

/-! ## Magnitudes: quotients and square roots of quotients -/

/-- An exact magnitude: num ÷ den, or its square root. -/
inductive Mag where
  | quot (num den : Nat)
  | root (num den : Nat)
deriving DecidableEq, Repr

/-- Square root of a natural, bit by bit from bit `n` down. -/
def isqrtFrom (x : Nat) : Nat → Nat → Nat
  | 0, r => r
  | n + 1, r => isqrtFrom x n (if (r + 2 ^ n) * (r + 2 ^ n) ≤ x then r + 2 ^ n else r)

/-- The square root of a natural, rounded down. -/
def isqrt (x : Nat) : Nat := isqrtFrom x (Nat.log2 x / 2 + 1) 0

/-- num × 2^k ÷ den as a quotient of naturals. -/
def shiftQuot (num den : Nat) (k : Int) : Nat × Nat := if 0 ≤ k then (num * 2 ^ k.toNat, den) else (num, den * 2 ^ (-k).toNat)

/-- The magnitude × 2^k rounded down, and whether anything was cut off. -/
def Mag.floorAt (m : Mag) (k : Int) : Nat × Bool :=
  match m with
  | .quot num den => let (n, d) := shiftQuot num den k; (n / d, n % d ≠ 0)
  | .root num den =>
    let (n, d) := shiftQuot num den (2 * k)
    let r := isqrt (n / d)
    (r, r * r * d ≠ n)

/-- floor(log2) of a positive quotient. -/
def quotLog2 (num den : Nat) : Int :=
  let k : Int := (Nat.log2 num : Int) - Nat.log2 den
  let (n, d) := shiftQuot num den (-k)
  if d ≤ n then k else k - 1

/-- floor(log2) of a positive magnitude. -/
def Mag.log2 (m : Mag) : Int :=
  match m with
  | .quot num den => quotLog2 num den
  | .root num den => quotLog2 num den / 2

/-! ## Rounding (R68 to R72) -/

/-- How a result is rounded: the mode's `round`, `sat` and `ftz`, and the generator's step for rsr; without one, rsr is rne
(R73). -/
structure Rounding where
  round : Nat
  sat : Bool
  ftz : Bool
  draw : Option Word := none
deriving DecidableEq, Repr

/-- Whether a magnitude is rounded up, from its integral part, the first 25 bits of its fraction and whether more follow. -/
def Rounding.up (r : Rounding) (neg : Bool) (q low : Nat) (more : Bool) : Bool :=
  let nearest := decide (2 ^ 24 < low) || (low == 2 ^ 24 && (more || q % 2 == 1))
  match r.round with
  | 0 => nearest
  | 1 => false
  | 2 => !neg && (low ≠ 0 || more)
  | 3 => neg && (low ≠ 0 || more)
  | 4 => 2 ^ 24 ≤ low
  | _ =>
    match r.draw with
    | some x => x.toNat / 256 < low / 2
    | none => nearest

/-- What an overflow gives (R69, R70). -/
def Fmt.overflow (f : Fmt) (r : Rounding) (neg up : Bool) : Nat :=
  let inf :=
    match r.round with
    | 0 | 4 => true
    | 1 => false
    | 2 => !neg
    | 3 => neg
    | _ => if r.draw.isSome then up else true
  if inf && !r.sat then f.inf neg false else f.sign neg + f.max

/-- round(x, r, t) of a signed magnitude for a float type t. -/
def Fmt.roundMag (f : Fmt) (r : Rounding) (neg : Bool) (m : Mag) : Nat :=
  match m with
  | .quot 0 _ | .root 0 _ => f.sign neg
  | m =>
    let e := Max.max (m.log2 - (f.fbits : Int)) (1 - (f.bias : Int) - f.fbits)
    let (x, more) := m.floorAt (25 - e)
    let q := x / 2 ^ 25
    let up := r.up neg q (x % 2 ^ 25) more
    let q := q + up.toNat
    -- the bits of the magnitude: a carry out of the significand moves into the exponent by itself
    let code := if q < 2 ^ f.fbits then q else (e + f.fbits + f.bias).toNat * 2 ^ f.fbits + (q - 2 ^ f.fbits)
    if f.max < code then f.overflow r neg up
    else if r.ftz && code < 2 ^ f.fbits then f.sign neg
    else f.sign neg + code

/-- An exact value passed once through round. -/
def Fmt.round (f : Fmt) (r : Rounding) : FV → Nat
  | .nan => f.nan
  | .inf neg => f.inf neg r.sat
  | .fin neg num den => f.roundMag r neg (.quot num den)

/-- A signed magnitude rounded to an integer. -/
def Rounding.toInt (r : Rounding) (neg : Bool) (m : Mag) : Int :=
  let (x, more) := m.floorAt 25
  let q := x / 2 ^ 25
  let q := q + (r.up neg q (x % 2 ^ 25) more).toNat
  if neg then -(q : Int) else q

/-! ## The stochastic generator (R72) -/

/-- The state of lane l after seeding with s. -/
def seedLane (s : Word) (l : Nat) : Word :=
  let x := s ^^^ BitVec.ofNat 32 (0x9E3779B9 * (l + 1))
  if x = 0#32 then 1#32 else x

/-- One step: the new state, which is also the value drawn. -/
def stepLane (x : Word) : Word :=
  let x := x ^^^ (x <<< 13)
  let x := x ^^^ (x >>> 17)
  x ^^^ (x <<< 5)

/-! ## Exact arithmetic (R65 to R67) -/

def FV.neg : FV → FV
  | .nan => .nan
  | .inf n => .inf !n
  | .fin n a b => .fin (!n) a b

/-- The exact product; 0 × inf is invalid. -/
def FV.mul : FV → FV → FV
  | .nan, _ | _, .nan => .nan
  | .inf m, .inf n => .inf (m != n)
  | .inf m, .fin n a _ | .fin n a _, .inf m => if a = 0 then .nan else .inf (m != n)
  | .fin m a b, .fin n c d => .fin (m != n) (a * c) (b * d)

/-- The exact quotient (R65). -/
def FV.div : FV → FV → FV
  | .nan, _ | _, .nan => .nan
  | .inf _, .inf _ => .nan
  | .inf m, .fin n _ _ => .inf (m != n)
  | .fin m _ _, .inf n => .fin (m != n) 0 1
  | .fin m a b, .fin n c d => if c = 0 then (if a = 0 then .nan else .inf (m != n)) else .fin (m != n) (a * d) (b * c)

/-- The signed numerator over a common denominator. -/
def FV.atDen (den : Nat) : FV → Int
  | .fin n a b => if n then -((a * (den / b) : Nat) : Int) else ((a * (den / b) : Nat) : Int)
  | _ => 0

/-- The exact sum of terms whose denominators are powers of two, with the sign of a zero sum (R65, R67): `rdn` says that the
rounding mode is rdn. -/
def fvSum (rdn : Bool) (ts : List FV) : FV :=
  let pos := ts.any fun t => t == .inf false
  let neg := ts.any fun t => t == .inf true
  if ts.any (fun t => t == .nan) || (pos && neg) then .nan
  else if pos then .inf false
  else if neg then .inf true
  else
    let den := ts.foldl (fun m t => match t with | .fin _ _ b => max m b | _ => m) 1
    let total := ts.foldl (fun x t => x + t.atDen den) 0
    if total = 0 then
      let zero (n : Bool) : Bool := ts.all fun t => match t with | .fin m a _ => a == 0 && m == n | _ => false
      .fin (if zero true then true else if zero false then false else rdn) 0 1
    else .fin (decide (total < 0)) total.natAbs den

/-- Whether a value lies below another one, −0 below +0 (R66); neither is NaN. -/
def FV.below : FV → FV → Bool
  | .inf true, y => y != .inf true
  | .inf false, _ => false
  | _, .inf n => !n
  | .fin m a b, .fin n c d =>
    let x : Int := if m then -((a * d : Nat) : Int) else ((a * d : Nat) : Int)
    let y : Int := if n then -((c * b : Nat) : Int) else ((c * b : Nat) : Int)
    x < y || (x == y && m && !n)
  | _, _ => false

/-- Whether two values compare equal, zeros of both signs included (R160). -/
def FV.same (x y : FV) : Bool :=
  match x, y with
  | .nan, _ | _, .nan => false
  | .inf m, .inf n => m == n
  | .fin m a b, .fin n c d => a * d == c * b && (m == n || a == 0)
  | _, _ => false

/-- Numeric less-than of a compare (R160): zeros are equal. -/
def FV.less (x y : FV) : Bool :=
  match x, y with
  | .nan, _ | _, .nan => false
  | x, y => x.below y && !x.same y

/-- MIN and MAX of two float elements by their bits (R66, R167): a flushed input is returned as the signed zero. -/
def Fmt.minMax (f : Fmt) (isMax ftz : Bool) (x y : Nat) : Nat :=
  let vx := f.value ftz x
  let vy := f.value ftz y
  let out (v : FV) (b : Nat) : Nat := match v with | .fin n 0 _ => f.sign n | .nan => f.nan | _ => b
  match vx, vy with
  | .nan, .nan => f.nan
  | .nan, _ => out vy y
  | _, .nan => out vx x
  | _, _ => if vx.below vy then (if isMax then out vy y else out vx x) else (if isMax then out vx x else out vy y)

/-! ## Integers (R74) -/

/-- The value of an integer element. -/
def intValue (signed : Bool) (w x : Nat) : Int := if signed then signedOf w x else (x : Int)
/-- The limits of an integer type. -/
def intMin (signed : Bool) (w : Nat) : Int := if signed then -(2 ^ (w - 1) : Int) else 0
def intMax (signed : Bool) (w : Nat) : Int := if signed then (2 ^ (w - 1) : Int) - 1 else (2 ^ w : Int) - 1
/-- An integer clamped to its type's range, as bits. -/
def clampInt (signed : Bool) (w : Nat) (x : Int) : Nat := wrapBits w (min (max x (intMin signed w)) (intMax signed w))
/-- An exact integer reduced to a type: wrapped, or clamped under `sat`. -/
def reduceInt (signed : Bool) (w : Nat) (sat : Bool) (x : Int) : Nat := if sat then clampInt signed w x else wrapBits w x

/-- Integer division, toward zero, with the results of division by zero. -/
def divInt (signed : Bool) (w : Nat) (sat : Bool) (a b : Int) : Nat :=
  if b = 0 then
    if signed then wrapBits w (if 0 ≤ a then intMax signed w else intMin signed w) else 2 ^ w - 1
  else reduceInt signed w sat (Int.tdiv a b)

/-! ## Conversion of one element (R75) -/

/-- A float value as an integer of a type: rounded, then clamped whatever `sat` says. -/
def FV.toIntElem (r : Rounding) (signed : Bool) (w : Nat) : FV → Nat
  | .nan => 0
  | .inf neg => wrapBits w (if neg then intMin signed w else intMax signed w)
  | .fin neg num den => clampInt signed w (r.toInt neg (.quot num den))

/-- One element of a source type as an element of a destination type. -/
def convertElem (r : Rounding) (src dst : Elem) (x : Nat) : Nat :=
  match src, dst with
  | .float f, .float g => g.round r (f.value r.ftz x)
  | .float f, .int signed w => (f.value r.ftz x).toIntElem r signed w
  | .int signed w, .float g =>
    let v := intValue signed w x
    g.round r (.fin (decide (v < 0)) v.natAbs 1)
  | .int signed w, .int signed' w' =>
    if w < w' then wrapBits w' (intValue signed w x)
    else if signed = signed' && w = w' then x
    else reduceInt signed' w' r.sat (intValue signed w x)

/-! ## Classes (R179) -/

/-- The bit of CLASS that an encoding sets. -/
def Fmt.classBit (f : Fmt) (x : Nat) : Nat :=
  let neg := bitOf x (f.bits - 1)
  let e := bitsOf x f.fbits f.ebits
  let m := bitsOf x 0 f.fbits
  if e = 2 ^ f.ebits - 1 then
    if m = 0 then (if neg then 2 else 9) else if bitOf m (f.fbits - 1) then 1 else 0
  else if e = 0 then
    if m = 0 then (if neg then 5 else 6) else if neg then 4 else 7
  else if neg then 3
  else 8

end Sys2Proof.Machine
end

