-- ==== Sys2Proof/Machine/Approx.lean ====
section
/-!
DEFINITION. Sys2Proof/Machine/Approx.lean: the approximate functions RCP, RSQ, EXP2, LOG2, SINPI, COSPI (R170, R171): exact results
where R171 names them; elsewhere a free f32 within the bounds of R170 of the function's value, which is computed here in fixed
point with 192 bits of fraction.
-/

namespace Sys2Proof.Machine

open Sys2Proof

/-- The six functions of R170. -/
inductive ApproxFn where
  | rcp | rsq | exp2 | log2 | sinpi | cospi
deriving DecidableEq, Repr

def ApproxFn.code : ApproxFn → Nat
  | .rcp => 0
  | .rsq => 1
  | .exp2 => 2
  | .log2 => 3
  | .sinpi => 4
  | .cospi => 5

/-- Bits of fraction of the fixed-point numbers. -/
def fxBits : Nat := 192
/-- ln 2 and π in fixed point. -/
def fxLn2 : Nat := 4350955369971217654477563090224794165364344896676135745069
def fxPi : Nat := 19720096697726538562396133364228268891463450865190089732560

def fxMul (x y : Nat) : Nat := x * y / 2 ^ fxBits

/-- The terms y^k ÷ k! from k on, added up. -/
def expTerms (y : Nat) : Nat → Nat → Nat → Nat → Nat
  | 0, _, _, acc => acc
  | n + 1, k, term, acc => expTerms y n (k + 1) (fxMul term y / k) (acc + term)

/-- 2^x for x in [0, 1). -/
def fxExp2 (x : Nat) : Nat := expTerms (fxMul x fxLn2) 48 1 (2 ^ fxBits) 0

/-- The binary digits of log2 of a number in [1, 2), one per squaring. -/
def log2Digits : Nat → Nat → Nat → Nat
  | 0, _, acc => acc
  | n + 1, x, acc =>
    let y := fxMul x x
    if 2 ^ (fxBits + 1) ≤ y then log2Digits n (y / 2) (2 * acc + 1) else log2Digits n y (2 * acc)

/-- The terms of the sine series from t^k ÷ k! on, signs alternating. -/
def sinTerms (t2 : Nat) : Nat → Nat → Nat → Bool → Int → Int
  | 0, _, _, _, acc => acc
  | n + 1, k, term, minus, acc =>
    sinTerms t2 n (k + 2) (fxMul term t2 / ((k + 1) * (k + 2))) (!minus) (if minus then acc - term else acc + term)

/-- sin(πx) for x in [0, 1/2]. -/
def fxSinPi (x : Nat) : Nat :=
  let t := fxMul x fxPi
  (sinTerms (fxMul t t) 24 1 t false 0).toNat

/-- sin(πx) of a non-negative quotient, with a half turn added when `neg`. -/
def sinPiValue (neg : Bool) (num den : Nat) : FV :=
  let x := num % (2 * den)
  let neg := if den ≤ x then !neg else neg
  let x := if den ≤ x then x - den else x
  let x := if den < 2 * x then den - x else x
  .fin neg (fxSinPi (x * 2 ^ fxBits / den)) (2 ^ fxBits)

/-- The function's value at a finite input outside the rows of R171. -/
def ApproxFn.value (fn : ApproxFn) (neg : Bool) (num den : Nat) : FV :=
  match fn with
  | .rcp => .fin neg den num
  | .rsq =>
    let m : Mag := .root den num
    let k := 192 - m.log2
    fvScaled false (m.floorAt k).1 (-k)
  | .exp2 =>
    let n : Int := if neg then -((ceilDiv num den : Nat) : Int) else ((num / den : Nat) : Int)
    let frac := if neg then ceilDiv num den * den - num else num % den
    fvScaled false (fxExp2 (frac * 2 ^ fxBits / den)) (min (max n (-400)) 400 - fxBits)
  | .log2 =>
    let e := quotLog2 num den
    let (a, b) := shiftQuot num den (fxBits - e)
    let x : Int := e * 2 ^ 100 + log2Digits 100 (a / b) 0
    .fin (decide (x < 0)) x.natAbs (2 ^ 100)
  | .sinpi => sinPiValue neg num den
  | .cospi => sinPiValue false (2 * num + den) (2 * den)

/-- The exact result of R171, if the input has one. -/
def ApproxFn.exact (fn : ApproxFn) (x : FV) : Option FV :=
  let pow2 (num den : Nat) : Option Int :=
    let k := quotLog2 num den
    let (a, b) := shiftQuot num den (-k)
    if a = b then some k else none
  match fn, x with
  | _, .nan => some .nan
  | .rcp, .inf n => some (.fin n 0 1)
  | .rcp, .fin n 0 _ => some (.inf n)
  | .rcp, .fin n num den =>
    match pow2 num den with
    | some k => if -126 ≤ -k && -k ≤ 127 then some (fvScaled n 1 (-k)) else none
    | none => none
  | .rsq, .fin n 0 _ => some (.inf n)
  | .rsq, .inf n => some (if n then .nan else .fin false 0 1)
  | .rsq, .fin n num den =>
    if n then some .nan
    else
      match pow2 num den with
      | some k => if k % 2 = 0 then some (fvScaled false 1 (-(k / 2))) else none
      | none => none
  | .exp2, .inf n => some (if n then .fin false 0 1 else .inf false)
  | .exp2, .fin n num den =>
    if num % den = 0 then
      let k : Int := if n then -((num / den : Nat) : Int) else ((num / den : Nat) : Int)
      if -149 ≤ k && k ≤ 127 then some (fvScaled false 1 k) else none
    else none
  | .log2, .fin _ 0 _ => some (.inf true)
  | .log2, .inf n => some (if n then .nan else .inf false)
  | .log2, .fin n num den =>
    if n then some .nan
    else
      match pow2 num den with
      | some k => some (.fin (decide (k < 0)) k.natAbs 1)
      | none => none
  | .sinpi, .inf _ => some .nan
  | .sinpi, .fin n num den =>
    if num % den = 0 then some (.fin n 0 1)
    else if 2 * num % den = 0 then
      -- n + 0.5: +1 for even n, −1 for odd n; a negative a is −(m + 0.5) = (−m − 1) + 0.5
      let odd := num / den % 2 == 1
      some (.fin (odd != n) 1 1)
    else none
  | .cospi, .inf _ => some .nan
  | .cospi, .fin _ num den =>
    if num % den = 0 then some (.fin (num / den % 2 == 1) 1 1)
    else if 2 * num % den = 0 then some (.fin false 0 1)
    else none

/-- Whether two finite values differ by at most k × 2^e. -/
def FV.within (x y : FV) (k : Nat) (e : Int) : Bool :=
  match x, y with
  | .fin m a b, .fin n c d =>
    let p : Int := if m then -((a * d : Nat) : Int) else ((a * d : Nat) : Int)
    let q : Int := if n then -((c * b : Nat) : Int) else ((c * b : Nat) : Int)
    let gap := (p - q).natAbs
    if 0 ≤ e then gap ≤ k * 2 ^ e.toNat * (b * d) else gap * 2 ^ (-e).toNat ≤ k * (b * d)
  | _, _ => false

/-- The exponent of an f32 ulp at a value. -/
def ulpExp : FV → Int
  | .fin _ num den => if num = 0 then -149 else max (quotLog2 num den - 23) (-149)
  | _ => 0

/-- Whether an f32 lies within the bound of R170 of the function's value at the input. -/
def ApproxFn.allowed (fn : ApproxFn) (x y c : FV) : Bool :=
  match fn with
  | .rcp => c.within y 1 (ulpExp y)
  | .rsq => c.within y 2 (ulpExp y)
  | .exp2 => c.within y 2 (ulpExp y)
  | .log2 =>
    match x with
    | .fin _ num den => if den ≤ 2 * num && num ≤ 2 * den then c.within y 1 (-22) else c.within y 2 (ulpExp y)
    | _ => false
  | .sinpi => c.within y 1 (-22)
  | .cospi => c.within y 1 (-22)

/-- The f32 result: exact, or what the core returns when that lies within the bound, else the value rounded to nearest. -/
def ApproxFn.f32 (fn : ApproxFn) (sat ftz : Bool) (x : FV) : Nat :=
  let r : Rounding := ⟨0, sat, ftz, none⟩
  match fn.exact x, x with
  | some y, _ => fmtF32.round r y
  | none, .fin neg num den =>
    let y := fn.value neg num den
    let bits := (Config.approx fn.code ftz (BitVec.ofNat 32 (fmtF32.round ⟨0, false, false, none⟩ x))).toNat
    let c := fmtF32.value false bits
    if fn.allowed x y c then fmtF32.round r c else fmtF32.round r y
  | none, _ => fmtF32.nan

/-- The result in an element type: under a 16-bit type the f32 result rounded to nearest (R170), also where the
rounding passes the bound that R170 states for LOG2, SINPI and COSPI (DEDUCED, log entry 115). -/
def ApproxFn.apply (fn : ApproxFn) (f : Fmt) (sat ftz : Bool) (x : Nat) : Nat :=
  let y := fn.f32 sat ftz (f.value ftz x)
  if f = fmtF32 then y else f.round ⟨0, sat, ftz, none⟩ (fmtF32.value false y)

end Sys2Proof.Machine
end

