-- ==== Sys2Proof/Machine/Elements.lean ====
section
/-!
DEFINITION. Sys2Proof/Machine/Elements.lean: what the typed instructions compute on one element (R166 to R178).
-/

namespace Sys2Proof.Machine

open Sys2Proof

/-- Element e of an operand (R61). -/
def elemAt (w x e : Nat) : Nat := bitsOf x (w * e) w

/-- The rounding of a mode. -/
def roundingOf (m : ModeImage) : Rounding := ⟨modeRound m, modeSat m, modeFtz m, none⟩

/-! ## Element operations -/

/-- A sum of products: floats exactly and rounded once, integers reduced (R166). -/
def sumElem (terms : (Nat → FV) → List Nat → List FV) (ints : Int → Int → Int → Int) (el : Elem) (r : Rounding) (a b d : Nat) : Nat :=
  match el with
  | .float f => f.round r (fvSum (r.round == 3) (terms (fun x => f.value r.ftz x) [a, b, d]))
  | .int signed w => reduceInt signed w r.sat (ints (intValue signed w a) (intValue signed w b) (intValue signed w d))

/-- Three operands by position. -/
def fvAt (v : Nat → FV) (xs : List Nat) (i : Nat) : FV := v (xs.getD i 0)

def addElem : Elem → Rounding → Nat → Nat → Nat → Nat := sumElem (fun v xs => [fvAt v xs 0, fvAt v xs 1]) fun a b _ => a + b
def subElem : Elem → Rounding → Nat → Nat → Nat → Nat := sumElem (fun v xs => [fvAt v xs 0, (fvAt v xs 1).neg]) fun a b _ => a - b
def fmaElem : Elem → Rounding → Nat → Nat → Nat → Nat :=
  sumElem (fun v xs => [(fvAt v xs 0).mul (fvAt v xs 1), fvAt v xs 2]) fun a b d => a * b + d
def fmsElem : Elem → Rounding → Nat → Nat → Nat → Nat :=
  sumElem (fun v xs => [(fvAt v xs 0).mul (fvAt v xs 1), (fvAt v xs 2).neg]) fun a b d => a * b - d
def fnmaElem : Elem → Rounding → Nat → Nat → Nat → Nat :=
  sumElem (fun v xs => [((fvAt v xs 0).mul (fvAt v xs 1)).neg, fvAt v xs 2]) fun a b d => -(a * b) + d

def mulElem (el : Elem) (r : Rounding) (a b : Nat) : Nat :=
  match el with
  | .float f => f.round r ((f.value r.ftz a).mul (f.value r.ftz b))
  | .int signed w => reduceInt signed w r.sat (intValue signed w a * intValue signed w b)

/-- MIN or MAX of two elements (R167). -/
def minMaxElem (isMax : Bool) (el : Elem) (ftz : Bool) (a b : Nat) : Nat :=
  match el with
  | .float f => f.minMax isMax ftz a b
  | .int signed w => if (decide (intValue signed w a ≤ intValue signed w b)) = isMax then b else a

/-- ABS and NEG (R168). -/
def absElem (el : Elem) (r : Rounding) (a : Nat) : Nat :=
  match el with
  | .float f =>
    match f.value r.ftz a with
    | .nan => f.nan
    | .fin _ 0 _ => 0
    | _ => a % 2 ^ (f.bits - 1)
  | .int signed w => if signed then reduceInt signed w r.sat (intValue signed w a).natAbs else a

def negElem (el : Elem) (r : Rounding) (a : Nat) : Nat :=
  match el with
  | .float f =>
    match f.value r.ftz a with
    | .nan => f.nan
    | .fin n 0 _ => f.sign !n
    | _ => (a + 2 ^ (f.bits - 1)) % 2 ^ f.bits
  | .int signed w => reduceInt signed w r.sat (-(intValue signed w a))

/-- DIV (R169, R74). -/
def divElem (el : Elem) (r : Rounding) (a b : Nat) : Nat :=
  match el with
  | .float f => f.round r ((f.value r.ftz a).div (f.value r.ftz b))
  | .int signed w => divInt signed w r.sat (intValue signed w a) (intValue signed w b)

/-- SQRT (R169). -/
def sqrtElem (el : Elem) (r : Rounding) (a : Nat) : Nat :=
  match el with
  | .float f =>
    match f.value r.ftz a with
    | .nan => f.nan
    | .fin n 0 _ => f.sign n
    | .inf n => if n then f.nan else f.inf false r.sat
    | .fin n num den => if n then f.nan else f.roundMag r false (.root num den)
  | .int _ _ => a

/-- An approximate function of an element (R170). -/
def approxElem (fn : ApproxFn) (el : Elem) (r : Rounding) (a : Nat) : Nat :=
  match el with
  | .float f => fn.apply f r.sat r.ftz a
  | .int _ _ => a

/-- An integral value near a, in a rounding mode (R172): zero keeps the sign of a. -/
def integralElem (round : Nat) (el : Elem) (r : Rounding) (a : Nat) : Nat :=
  match el with
  | .float f =>
    match f.value r.ftz a with
    | .nan => f.nan
    | .inf n => f.inf n r.sat
    | .fin n num den => f.roundMag ⟨0, false, false, none⟩ n (.quot (({ r with round := round }.toInt n (.quot num den)).natAbs) 1)
  | .int _ _ => a

/-- FRACT (R172): a − FLOOR(a), rounded; a result of 1 becomes the largest value below 1. An exact zero difference is −0 in rdn (R67), but
for a = −0. -/
def fractElem (el : Elem) (r : Rounding) (a : Nat) : Nat :=
  match el with
  | .float f =>
    match f.value r.ftz a with
    | .nan | .inf _ => f.nan
    | .fin n num den =>
      let frac := if n then ceilDiv num den * den - num else num % den
      let x := f.roundMag r (r.round == 3 && frac == 0 && !(n && num == 0)) (.quot frac den)
      let one := f.bias * 2 ^ f.fbits
      if x = one then one - 1 else x
  | .int _ _ => a

/-- SCALEB (R178): beyond ±5000 every format overflows or underflows alike. -/
def scalebElem (el : Elem) (r : Rounding) (a : Nat) (b : Word) : Nat :=
  match el with
  | .float f =>
    let k := min (max b.toInt (-5000)) 5000
    match f.value r.ftz a with
    | .fin n num den => let (x, y) := shiftQuot num den k; f.roundMag r n (.quot x y)
    | v => f.round r v
  | .int _ _ => a

/-- What PACK reads and UNPACK writes: the wider element of a packed type (R174). -/
def widerElem (code : Nat) : Elem :=
  match code with
  | 0x0A | 0x0B => .float fmtF32
  | 0x0C => .int true 32
  | 0x0D => .int false 32
  | 0x03 | 0x04 => .float fmtF16
  | 0x0E => .int true 16
  | _ => .int false 16

/-- The dot product of n elements and an accumulator (R176, R177). -/
def dotElem (n : Nat) (el : Elem) (r : Rounding) (a b d : Nat) : Nat :=
  let w := el.width
  match el with
  | .float f =>
    let ps := (List.range n).map fun e => (f.value r.ftz (elemAt w a e)).mul (f.value r.ftz (elemAt w b e))
    fmtF32.round r (fvSum (r.round == 3) (ps ++ [fmtF32.value r.ftz d]))
  | .int signed w =>
    let x := (List.range n).foldl (fun (x : Int) e => x + intValue signed w (elemAt w a e) * intValue signed w (elemAt w b e)) 0
    reduceInt signed 32 r.sat (x + intValue signed 32 d)

end Sys2Proof.Machine
end

