-- ==== Sys2Proof/Machine/TeamOps.lean ====
section
/-!
DEFINITION. Sys2Proof/Machine/TeamOps.lean: teams of a launch: arrivals and phase ends (R23, R217), reduction rounds (R220, R221),
and what the end of a wave does (R35, R38, R146).
-/

namespace Sys2Proof.Machine

open Sys2Proof

/-- A launch's group that is resident, by its linear index. -/
def State.groupOf (s : State) (launch linear : Nat) : Option (Nat × Group) :=
  List.find? (fun (x : Nat × Group) => x.2.launch == some launch && x.2.linear == linear) s.groups

/-- Whether a member wave of a launch has ended, all its writes performed (R219): its resident wave has no live lane, or its group
has left the launch's gangs. -/
def State.memberEnded (s : State) (launch linear wave : Nat) : Bool :=
  match s.groupOf launch linear with
  | some (gk, g) =>
    match g.waves[wave]? with
    | some w => w.live == 0#32 && s.quiet gk wave
    | none => true
  | none => !(List.any s.gangs fun (x : Nat × Gang) => x.2.launch == launch && x.2.groups.contains linear)

/-- Whether every member has arrived, an ended one counting as arrived (R23, R220). -/
def State.allArrived (s : State) (launch : Nat) (t : Team) (arrived : List (Nat × Nat)) : Bool :=
  t.members.all fun m => arrived.contains m || s.memberEnded launch m.1 m.2

/-- Whether a result of an operation is still to come to a wave. -/
def Wave.awaits (w : Wave) (id : Nat) : Bool := w.scoreboard.any fun o => o.id == id

/-- Write values to v register n of a wave in some lanes, outside any instruction of it, where the wave awaits the operation's result. For a
group that is saved, the result waits (R370). -/
def State.deliver (s : State) (gk wi n : Nat) (lanes : LaneMask) (f : Nat → Word) (id : Nat) : State :=
  let late : State :=
    { s with contexts := s.contexts.mapVals fun _ (c : Context) => { c with saved := c.saved.map fun (x : SavedGroup) =>
        if x.key = gk && (match x.group.waves[wi]? with | some w => w.awaits id | none => false) then { x with late := x.late ++ [(wi, n, lanes, f 0, id)] }
        else x } }
  match s.groups.find? gk with
  | none => late
  | some g =>
    match g.waves[wi]? with
    | none => late
    | some w => if w.awaits id then { s with groups := s.groups.set gk (g.setWave wi (w.writeV n lanes f)) } else late

/-- All of an operation's results are there: its registers leave the scoreboard. -/
def State.received (s : State) (gk wi id : Nat) : State :=
  match s.groups.find? gk with
  | none => s
  | some g =>
    match g.waves[wi]? with
    | none => s
    | some w => { s with groups := s.groups.set gk (g.setWave wi { w with scoreboard := w.scoreboard.filter fun o => o.id ≠ id }) }

/-- The three reductions (R220). -/
inductive ReduceKind where
  | sum | min | max
deriving DecidableEq, Repr

/-- The identity of a reduction when nothing is contributed (R221). -/
def ReduceKind.identity (k : ReduceKind) (type : Nat) : Word :=
  match k, type with
  | .sum, _ => 0#32
  | .min, 6 => 0x7FFFFFFF#32
  | .min, 7 => 0xFFFFFFFF#32
  | .min, _ => 0x7F800000#32
  | .max, 6 => 0x80000000#32
  | .max, 7 => 0#32
  | .max, _ => 0xFF800000#32

/-- The result of a round (R221): sums modulo 2^32, or exact and rounded once; the order of arrivals does not matter. -/
def ReduceKind.result (k : ReduceKind) (mode : ModeImage) (xs : List Word) : Word :=
  match xs with
  | [] => k.identity (modeType mode)
  | x :: rest =>
    match k, modeType mode with
    | .sum, 0 =>
      let r := roundingOf mode
      BitVec.ofNat 32 (fmtF32.round r (fvSum (r.round == 3) (xs.map fun y => fmtF32.value r.ftz y.toNat)))
    | .sum, _ => rest.foldl (fun a y => a + y) x
    | .min, t => BitVec.ofNat 32 (xs.foldl (fun a y => minMaxElem false (elemOf t) (modeFtz mode) a y.toNat) x.toNat)
    | .max, t => BitVec.ofNat 32 (xs.foldl (fun a y => minMaxElem true (elemOf t) (modeFtz mode) a y.toNat) x.toNat)

def Team.rounds (t : Team) : ReduceKind → List Reduction
  | .sum => t.sums
  | .min => t.mins
  | .max => t.maxs

def Team.setRounds (t : Team) (k : ReduceKind) (rs : List Reduction) : Team :=
  match k with
  | .sum => { t with sums := rs }
  | .min => { t with mins := rs }
  | .max => { t with maxs := rs }

def State.team (s : State) (launch id : Nat) : Option Team :=
  match s.launches.find? launch with
  | some l => l.teams[id]?
  | none => none

def State.setTeam (s : State) (launch id : Nat) (t : Team) : State :=
  match s.launches.find? launch with
  | some l => { s with launches := s.launches.set launch { l with teams := l.teams.set id t } }
  | none => s

/-- Whether the accesses that a member wave had issued before its arrival have been performed (R219). -/
def State.markDone (s : State) (launch : Nat) (m : Nat × Nat × Nat) : Bool :=
  match s.groupOf launch m.1 with
  | some (gk, _) => s.performedTo gk m.2.1 m.2.2
  | none => true

/-- Complete the rounds of a kind, first one first, as far as every member has arrived (R220). -/
def State.settleRounds (s : State) (launch id : Nat) (k : ReduceKind) : Nat → State
  | 0 => s
  | n + 1 =>
    match s.team launch id with
    | none => s
    | some t =>
      match t.rounds k with
      | [] => s
      | r :: rest =>
        if r.arrived ≠ [] && s.allArrived launch t r.arrived then
          let y := k.result (r.mode.getD modeStart) r.values
          let s := s.setTeam launch id (t.setRounds k rest)
          let s := r.takers.foldl (fun (s : State) x => (s.deliver x.1 x.2.1 x.2.2.1 x.2.2.2.1 (fun _ => y) x.2.2.2.2).received x.1 x.2.1 x.2.2.2.2) s
          s.settleRounds launch id k n
        else s

/-- Whether engine writes of a launch's groups have not reached every replica (R219, R280). -/
def State.engineLags (s : State) (launch : Nat) : Bool :=
  s.lags.any fun r => 64 ≤ r.w && (match s.groups.find? r.g with | some g => g.launch == some launch | none => false)

/-- End the team's phase when the arrivals equal its size and no byte is pending (R23), and what came before the arrivals has been
performed (R219). -/
def State.settlePhase (s : State) (launch id : Nat) : State :=
  match s.team launch id with
  | none => s
  | some t =>
    if t.arrived ≠ [] && t.pending = 0#32 && s.allArrived launch t t.arrived && t.marks.all (s.markDone launch) && !s.engineLags launch then
      s.setTeam launch id { t with phase := t.phase + 1#32, arrived := [], marks := [], age := 0, logged := false }
    else if t.arrived ≠ [] then s.postOnce (.watchdogExpiry launch id)
    else s

/-- End the team's phase and complete its reduction rounds where every member has arrived (R23, R220). -/
def State.settleTeam (s : State) (launch id : Nat) : State :=
  let rounds := match s.team launch id with | some t => t.sums.length + t.mins.length + t.maxs.length | none => 0
  (((s.settlePhase launch id).settleRounds launch id .sum rounds).settleRounds launch id .min rounds).settleRounds launch id .max rounds

/-- Settle every team of a launch. -/
def State.settleTeams (s : State) (launch : Nat) : State :=
  match s.launches.find? launch with
  | none => s
  | some l => (List.range l.teams.length).foldl (fun s i => s.settleTeam launch i) s

/-- A wave is past its early point: the first EARLYGO, or its end (R38). When every wave of the grid is, the trigger is due. -/
def State.pastEarly (s : State) (launch linear wave : Nat) : State :=
  match s.launches.find? launch with
  | none => s
  | some l =>
    let l := if l.earlyWaves.any fun x => x.1 == linear && x.2.1 == wave then l
      else { l with earlyWaves := l.earlyWaves ++ [(linear, wave, s.serial)] }
    let waves := l.record.gridX * l.record.gridY * l.record.gridZ * ceilDiv l.record.lanes 32
    let s := { s with launches := s.launches.set launch l }
    if l.earlyWaves.length = waves && !l.triggered then s.post (.earlyTrigger launch) else s

/-- Whether every wave of a group has ended. -/
def Group.ended (g : Group) : Bool := g.waves.all fun w => w.live == 0#32

/-- What the end of a wave does, once no lane of it lives (R35, R146): its caps are released, its teams count it as arrived, it is
past its early point; its group may retire when it was the last one. -/
def State.waveEnds (s : State) (gk wi : Nat) : State :=
  match s.groups.find? gk with
  | none => s
  | some g =>
    match g.waves[wi]? with
    | none => s
    | some w =>
      if w.live ≠ 0#32 then s
      else
        let w := { w with cap0 := .empty, cap1 := .empty, tx := none, slotA := none, slotB := none, stack := [] }
        let s := { s with groups := s.groups.set gk (g.setWave wi w) }.releaseLineCaps gk wi
        let s :=
          match g.launch with
          | some l => (s.pastEarly l g.linear wi).settleTeams l
          | none => s
        if (g.setWave wi w).ended then s.post (.groupRetire gk) else s

end Sys2Proof.Machine
end

