-- ==== Sys2Proof/Machine/Timers.lean ====
section
/-!
DEFINITION. Sys2Proof/Machine/Timers.lean: time passes (R2), and with it what counts clk: hang watchdogs (R374), the deadlines of a
pre-emption (R365), time slices (R369) and launch accounts (R444, R445).
-/

namespace Sys2Proof.Machine

open Sys2Proof

/-- Whether a context has a halted group. -/
def State.contextHalted (s : State) (ctx : Nat) : Bool := List.any s.groups fun (x : Nat × Group) => x.2.ctx == ctx && x.2.halted

/-- Whether the age of a team's watchdog stands still: a member's group is halted, or a pre-emption of the context is frozen (R365,
R374). -/
def State.watchFrozen (s : State) (launch : Nat) (l : Launch) (t : Team) : Bool :=
  ((s.context l.ctx).preempting && s.contextHalted l.ctx) ||
    List.any s.groups fun (x : Nat × Group) => x.2.launch == some launch && x.2.halted && t.members.any fun m => m.1 == x.2.linear

/-- Watchdog ages of a launch's teams n clk later. -/
def State.agedLaunch (s : State) (n : Nat) (id : Nat) (l : Launch) : Launch :=
  { l with teams := l.teams.map fun (t : Team) => if t.arrived = [] || s.watchFrozen id l t then t else { t with age := t.age + n } }

/-! ## Time slices -/

/-- The priority level of a launch. -/
def State.launchLevel (s : State) (l : Launch) : Nat := (s.queue l.queue).level

/-- The levels of the gangs with which a context holds user cores. -/
def State.heldLevels (s : State) (ctx : Nat) : List Nat :=
  s.gangs.filterMap fun (x : Nat × Gang) =>
    match s.launches.find? x.2.launch with
    | some l => if x.2.placed && l.ctx == ctx then some (s.launchLevel l) else none
    | none => none

/-- Whether a gang waits for placement: its context's placement is not stopped (R352). -/
def State.gangWaits (s : State) (x : Gang) : Bool :=
  match s.launches.find? x.launch with
  | some l => !x.placed && !(s.context l.ctx).stopped
  | none => false

/-- The contexts other than `ctx` with a gang that waits at a level the same as, or above, those of the gangs `ctx` holds. -/
def State.competitors (s : State) (ctx : Nat) : List Nat :=
  let held := s.heldLevels ctx
  if held = [] then []
  else
    s.gangs.foldl (fun (cs : List Nat) (x : Nat × Gang) =>
      match s.launches.find? x.2.launch with
      | some l => if l.ctx ≠ ctx && s.gangWaits x.2 && held.all (fun h => s.launchLevel l ≤ h) then insertSorted l.ctx cs else cs
      | none => cs) []

/-- What a context counts, n clk later. -/
def State.agedContext (s : State) (n : Nat) (i : Nat) (c : Context) : Context :=
  let c := if c.preempting && !s.contextHalted i then { c with preemptAge := c.preemptAge + n } else c
  if c.slice = 0#32 || c.stopped then c
  else { c with heldAge := if s.competitors i = [] then 0 else c.heldAge + n }

/-! ## Launch accounts -/

/-- Whether an account of a queue covers a launch or a run. -/
def Account.coversLaunch (a : Account) (q : Nat) (l : Launch) : Bool := l.queue == q && a.mark < l.mark
def Account.coversRun (a : Account) (q : Nat) (r : Run) : Bool := r.queue == q && a.mark < r.mark

def State.coversGroup (s : State) (a : Account) (q gk : Nat) : Bool :=
  match s.groups.find? gk with
  | some g =>
    match g.launch with
    | some l => match s.launches.find? l with | some l => a.coversLaunch q l | none => false
    | none => false
  | none => false

/-- Whether a wave only waits on faults. -/
def Wave.onFault (w : Wave) : Bool :=
  let at_ (p : Option Path) : Bool := match p with | some p => p.wait == .fault | none => true
  (w.slotA.isSome || w.slotB.isSome) && at_ w.slotA && at_ w.slotB

/-- Whether a waiter of a fault entry belongs to an account. -/
def State.coversWaiter (s : State) (a : Account) (q : Nat) : Waiter → Bool
  | .path g _ _ | .issuing g _ _ => s.coversGroup a q g
  | .engine id =>
    (s.copies.any fun o => o.id == id && s.coversGroup a q o.g) || (s.laneOps.any fun o => o.id == id && s.coversGroup a q o.g) ||
      List.any s.groups fun (x : Nat × Group) => (x.2.waves.any fun w => w.matOps.any fun o => o.id == id) && s.coversGroup a q x.1
  | .copy x | .packet x => x == q
  | .node r _ _ => match s.runs.find? r with | some r => a.coversRun q r | none => false
  | _ => false

/-- Whether a backing read is under way for a fault entry (R444). -/
def FaultEntry.reading (e : FaultEntry) : Bool :=
  match e.service with
  | .host _ | .nvme _ _ (some _) => true
  | _ => false

/-- Charge n clk to the one field that applies first (R445). -/
def State.charge (s : State) (n q : Nat) (x : Queue) (a : Account) : Account :=
  let running := List.any s.groups fun (y : Nat × Group) =>
    s.coversGroup a q y.1 && y.2.waves.any fun w => w.live != 0#32 && !w.onFault
  let mine := s.faults.filter fun e => e.waiters.any (s.coversWaiter a q)
  let waiting := x.pending.any fun p => a.mark < p.1 && (match p.2 with | .wait _ _ _ => true | _ => false)
  if running then { a with exec := a.exec + n }
  else if mine.any fun e => !e.reading then { a with fault := a.fault + n }
  else if mine ≠ [] || waiting then { a with io := a.io + n }
  else if x.pending.any fun p => a.mark < p.1 then { a with front := a.front + n }
  else { a with queue := a.queue + n }

/-- What a gang that alone is pre-empted counts toward its context's deadlines, n clk later (R365, R384). -/
def State.agedGang (s : State) (n : Nat) (x : Gang) : Gang :=
  match s.launches.find? x.launch with
  | some l => if x.evicted && !s.contextHalted l.ctx then { x with evictAge := x.evictAge + n } else x
  | none => x

/-- A retired page leaves the list once its leaf is resident again (R441). -/
def State.listedPages (s : State) : List (Nat × Nat) :=
  s.health.retiredPages.filter fun x => match s.walk x.1 (x.2 * 4096) with | .ok _ => false | .fault _ _ _ => true

/-- Time passes (R2): the turns that are due then join the agenda. -/
def State.tick (s : State) (n : Nat) : State :=
  { s with
    health := { s.health with retiredPages := s.listedPages }
    clk := s.clk + n
    agenda := s.agenda ++ (s.timers.filter fun x => x.1 ≤ s.clk + n).map fun x => x.2
    timers := s.timers.filter fun x => s.clk + n < x.1
    launches := s.launches.mapVals fun k l => s.agedLaunch n k l
    gangs := s.gangs.mapVals fun _ x => s.agedGang n x
    contexts := s.contexts.mapVals fun k c => s.agedContext n k c
    queues := s.queues.mapVals fun q x => { x with accounts := x.accounts.map (s.charge n q x) } }

end Sys2Proof.Machine
end

