-- ==== Sys2Proof/Machine/Ops.lean ====
section
/-!
DEFINITION. Sys2Proof/Machine/Ops.lean: the named operations of a wave: writes of registers, the divergence stack (R31 to R35,
R321), transactions' checkpoint and abort (R205, R211, R212), taking an exception and returning from it (R356 to R359, R388),
waiting, retiring, and the frame that every instruction's meaning stands in (`issue`).
-/

namespace Sys2Proof.Machine

open Sys2Proof

/-! ## Causes (R360) -/

def causeIllegalOp : Nat := 0x01
def causeReservedField : Nat := 0x02
def causeIllegalOperand : Nat := 0x03
def causeRegRange : Nat := 0x04
def causeBadTarget : Nat := 0x05
def causeUnderpaced : Nat := 0x06
def causeIllegalType : Nat := 0x07
def causePriv : Nat := 0x08
def causeAlign : Nat := 0x10
def causePageFault : Nat := 0x11
def causeProtection : Nat := 0x12
def causeFutUnversioned : Nat := 0x13
def causeFutRemote : Nat := 0x14
def causeFutEffect : Nat := 0x15
def causeShapeMismatch : Nat := 0x20
def causeTensorId : Nat := 0x21
def causeDeadlineMiss : Nat := 0x22
def causeCapOrder : Nat := 0x30
def causeNotMember : Nat := 0x32
def causeFencePeerLost : Nat := 0x33
def causeStackOverflow : Nat := 0x34
def causeSwTrap : Nat := 0x40
def causeBkpt : Nat := 0x41
def causeDebugHalt : Nat := 0x42
def causeEcc : Nat := 0x50

/-- A trap cause as the frame records it (R356, R360). -/
structure Trap where
  cause : Nat
  sub : Nat := 0
  addr : Nat := 0
  lanes : LaneMask
deriving DecidableEq, Repr

/-! ## Writing destinations -/

/-- put(d, l, y) of R139 over the lanes given: a k destination is written once, with the value of the lowest lane, when there
is one; c0 is the sink. -/
def Ctx.put (c : Ctx) (d : Reg) (lanes : LaneMask) (f : Nat → Word) : Ctx :=
  match d with
  | .v n => { c with w := c.w.writeV n.val lanes f }
  | .k n => if lanes = 0#32 then c else { c with w := c.w.writeK n.val (f (lowestLane lanes)) }
  | .c _ => c

/-- Word j of a multi-register destination. -/
def Ctx.putAt (c : Ctx) (d : Reg) (j : Nat) (lanes : LaneMask) (f : Nat → Word) : Ctx :=
  match d with
  | .v n => { c with w := c.w.writeV (n.val + j) lanes f }
  | .k n => if lanes = 0#32 then c else { c with w := c.w.writeK (n.val + j) (f (lowestLane lanes)) }
  | .c _ => c

/-- A 64-bit destination: bits [31:0] to the even register (R61). -/
def Ctx.put64 (c : Ctx) (d : Reg) (lanes : LaneMask) (f : Nat → DWord) : Ctx :=
  (c.putAt d 0 lanes fun l => (f l).extractLsb' 0 32).putAt d 1 lanes fun l => (f l).extractLsb' 32 32

/-- A typed destination: the register or, under a 64-bit type, the pair (R161). -/
def Ctx.putT (c : Ctx) (code : Nat) (d : Reg) (lanes : LaneMask) (f : Nat → Nat) : Ctx :=
  if type64 code then c.put64 d lanes fun l => BitVec.ofNat 64 (f l) else c.put d lanes fun l => BitVec.ofNat 32 (f l)

/-- A status or a single value for a k register or c0, whatever the lanes. -/
def Ctx.putOnce (c : Ctx) (d : Reg) (x : Word) : Ctx := c.put d 0xFFFFFFFF#32 fun _ => x
def Ctx.putOnce64 (c : Ctx) (d : Reg) (x : DWord) : Ctx := c.put64 d 0xFFFFFFFF#32 fun _ => x

/-- A predicate destination. -/
def Ctx.putQ (c : Ctx) (q : PredField) (lanes : LaneMask) (f : Nat → Bool) : Ctx :=
  { c with w := c.w.writeQ q.toNat lanes (laneSet f) }

/-! ## The divergence stack -/

/-- The spill entry i of a save slot, when its `used` bit is set (R321). -/
def Wave.spillEntry (w : Wave) (i : Nat) : Option Entry :=
  let x := bytesNat ((List.range 16).map fun j => Tab.get 0#8 w.save (0x400 + 16 * i + j))
  if bitOf x 95 then
    some ⟨BitVec.ofNat 32 x, BitVec.ofNat 32 (bitsOf x 32 32), BitVec.ofNat 24 (bitsOf x 64 24)⟩
  else none

/-- The spilled entries with their places. -/
def Wave.spills (w : Wave) : List (Nat × Entry) :=
  (List.range 64).filterMap fun i => (w.spillEntry i).map fun e => (i, e)

/-- Write bytes into the save slot. -/
def Wave.writeSave (w : Wave) (off : Nat) (bytes : List Byte) : Wave := { w with save := w.save.putAll 0#8 (placed off bytes) }

/-- Write spill entry i, or clear its `used` bit. -/
def Wave.setSpill (w : Wave) (i : Nat) (e : Option Entry) : Wave :=
  match e with
  | some e =>
    w.writeSave (0x400 + 16 * i) (natBytes 16 (e.pc.toNat + 2 ^ 32 * e.mask.toNat + 2 ^ 64 * e.mode.toNat + 2 ^ 95))
  | none => w.writeSave (0x400 + 16 * i + 11) [(Tab.get 0#8 w.save (0x400 + 16 * i + 11)) &&& 0x7F#8]

/-- How many entries the stack holds, on chip and spilled (R31, R321). -/
def Wave.stackCount (w : Wave) : Nat := w.stack.length + w.spills.length

/-- All entries. -/
def Wave.entries (w : Wave) : List Entry := w.stack ++ w.spills.map (·.2)

/-- Insert by ascending PC, behind entries of the same PC. -/
def insertEntry (e : Entry) : List Entry → List Entry
  | [] => [e]
  | x :: r => if e.pc.toNat < x.pc.toNat then e :: x :: r else x :: insertEntry e r

/-- The core keeps the 8 lowest-PC entries on chip and moves the rest to the spill area (R32). -/
def Wave.spillDown (w : Wave) : Wave :=
  if w.stack.length ≤ 8 then w
  else
    match w.stack.getLast?, (List.range 64).find? fun i => (w.spillEntry i).isNone with
    | some e, some i => { w with stack := w.stack.dropLast }.setSpill i (some e)
    | _, _ => w

/-- Push an entry. -/
def Wave.push (w : Wave) (e : Entry) : Wave := { w with stack := insertEntry e w.stack }.spillDown

/-- Merge lanes into the entry with the same PC and mode; none when there is no such entry (R31). -/
def Wave.mergeEntry (w : Wave) (e : Entry) : Option Wave :=
  match w.stack.find? fun x => x.pc == e.pc && x.mode == e.mode with
  | some x => some { w with stack := replaceFirst (fun y => y == x) { x with mask := x.mask ||| e.mask } w.stack }
  | none =>
    match w.spills.find? fun x => x.2.pc == e.pc && x.2.mode == e.mode with
    | some (i, x) => some (w.setSpill i (some ⟨x.pc, x.mask ||| e.mask, x.mode⟩))
    | none => none

/-- Place a path on the stack by merging or pushing; none when 64 entries stand there (R31, R212). -/
def Wave.stow (w : Wave) (e : Entry) : Option Wave :=
  match w.mergeEntry e with
  | some w' => some w'
  | none => if 64 ≤ w.stackCount then none else some (w.push e)

/-- The masks of the paths in the slots. -/
def Wave.slotMasks (w : Wave) : LaneMask :=
  (match w.slotA with | some p => p.mask | none => 0#32) ||| (match w.slotB with | some p => p.mask | none => 0#32)

/-- Remove the lowest-PC entry other than those for which `skip` holds, from the chip or the spill area. -/
def Wave.takeLowest (w : Wave) (skip : Entry → Bool) : Option (Entry × Wave) :=
  let low := (w.entries.filter fun e => !skip e).foldl (fun (m : Option Entry) e =>
    match m with
    | none => some e
    | some x => if e.pc.toNat < x.pc.toNat then some e else some x) none
  match low with
  | none => none
  | some e =>
    if e ∈ w.stack then some (e, { w with stack := w.stack.erase e })
    else
      match w.spills.find? fun x => x.2 == e with
      | some (i, _) => some (e, w.setSpill i none)
      | none => none

/-- After a pop the core refills the chip from the spill area while it has room (R32). -/
def Wave.refill : Nat → Wave → Wave
  | 0, w => w
  | n + 1, w =>
    if w.stack.length < 8 then
      match { w with stack := [] }.takeLowest fun _ => false with
      | some (e, w') => Wave.refill n { w' with stack := insertEntry e w.stack }
      | none => w
    else w

/-- The lowest-PC entry with the lanes it may run: it loses lanes that are ended or belong to another path; an entry left empty
is deleted and the next one taken (R321). The wave is answered without the entry and without those deleted. -/
def Wave.pop : Nat → (Entry → Bool) → Wave → Option Entry × Wave
  | 0, _, w => (none, w)
  | n + 1, skip, w =>
    match w.takeLowest skip with
    | none => (none, w)
    | some (e, w') =>
      let others := w'.entries.foldl (fun m x => m ||| x.mask) w'.slotMasks
      let mask := e.mask &&& w'.live &&& ~~~others
      if mask = 0#32 then w'.pop n skip else (some { e with mask := mask }, w'.refill 8)

/-- A path that comes from an entry: results issued before are written before its first instruction (R313); a bad PC or mode
raises its cause (R92, R321). -/
def Ctx.pathOf (c : Ctx) (e : Entry) : Path :=
  { pc := e.pc, mask := e.mask, mode := e.mode, readyAt := c.w.settledAt c.s.clk,
    raises :=
      if !c.s.targetLegal c.codeAsid c.code e.pc.toNat then some (causeBadTarget, 0, (c.code.base + e.pc.toNat) % 2 ^ 64)
      else if !modeLegal e.mode then some (causeReservedField, 5, 0)
      else none }

/-- Whether an entry waits at an outermost TCOMMIT, the only reason not to pop it (R209). -/
def Ctx.atCommit (c : Ctx) (e : Entry) : Bool :=
  match c.w.tx with
  | none => false
  | some t => e.mask &&& t.waiting &&& t.members != 0#32

/-- A free slot takes the lowest-PC entry; entries that wait at TCOMMIT only when no other entry exists (R34, R209). -/
def Ctx.fillSlot (c : Ctx) (slotB : Bool) : Ctx :=
  match c.w.slot slotB with
  | some _ => c
  | none =>
    match c.w.pop 65 c.atCommit with
    | (some e, w) => { c with w := w.setSlot slotB (some (c.pathOf e)) }
    | (none, w) =>
      match w.pop 65 fun _ => false with
      | (some e, w) => { c with w := w.setSlot slotB (some (c.pathOf e)) }
      | (none, w) => { c with w := w }

/-- Free slots take entries from the stack. -/
def Ctx.fillSlots (c : Ctx) : Ctx := (c.fillSlot false).fillSlot true

/-- Remove lanes from slots and entries; a slot or an entry left without lanes is freed or deleted (R212). -/
def Wave.removeLanes (w : Wave) (lanes : LaneMask) : Wave :=
  let path (p : Option Path) : Option Path :=
    match p with
    | some p => if p.mask &&& ~~~lanes = 0#32 then none else some { p with mask := p.mask &&& ~~~lanes }
    | none => none
  let left (e : Entry) : Entry := { e with mask := e.mask &&& ~~~lanes }
  let w := { w with slotA := path w.slotA, slotB := path w.slotB, stack := (w.stack.map left).filter fun e => e.mask ≠ 0#32 }
  w.spills.foldl (fun (w : Wave) (x : Nat × Entry) =>
    let m := x.2.mask &&& ~~~lanes
    if m = x.2.mask then w else w.setSpill x.1 (if m = 0#32 then none else some { x.2 with mask := m })) w

/-! ## Transactions: checkpoint and abort -/

/-- The lanes of the path that are members of the open transaction. -/
def Ctx.memberLanes (c : Ctx) : LaneMask :=
  match c.w.tx with
  | some t => c.act &&& t.members
  | none => 0#32

/-- A register's values: 32 of a v register, one of a k register, the mask of a predicate. -/
def Wave.snapshot (w : Wave) (r : RegName) : List Word :=
  match r with
  | .v n => (List.range 32).map fun l => Tab.get 0#32 w.v (vKey n l)
  | .k n => [Tab.get 0#32 w.k n]
  | .q n => [Tab.get 0#32 w.q n]

/-- The registers an instruction writes, by name. -/
def writtenNames (mode : ModeImage) (i : Instr) : List RegName :=
  ((writtenRegs mode i).filterMap fun r =>
    match r with
    | .v n => some (.v n.val)
    | .k n => some (.k n.val)
    | .c _ => none) ++
  ((writtenPreds i).filterMap fun q => if q = 0 then none else some (.q q))

/-- The registers an instruction reads, by name. -/
def readNames (mode : ModeImage) (i : Instr) : List RegName :=
  ((readRegs mode i).filterMap fun r =>
    match r with
    | .v n => some (.v n.val)
    | .k n => some (.k n.val)
    | .c _ => none) ++
  ((readPreds mode i).filterMap fun q => if q = 0 then none else some (.q q))

/-- The checkpoint with registers added that are about to be written, at their values in `before` (R205). -/
def Tx.shadowed (t : Tx) (before : Wave) (names : List RegName) : Tx :=
  names.foldl (fun t n => if t.shadow.any fun e => e.1 == n then t else { t with shadow := t.shadow ++ [(n, before.snapshot n)] }) t

/-- Restore shadowed registers in the lanes given; k registers only when `all` (R211). -/
def Wave.restoreShadow (w : Wave) (shadow : List (RegName × List Word)) (lanes : LaneMask) (all : Bool) : Wave :=
  shadow.foldr (fun e w =>
    match e.1 with
    | .v n => w.writeV n lanes fun l => e.2.getD l 0#32
    | .k n => if all then w.writeK n (e.2.headD 0#32) else w
    | .q n => w.writeQ n lanes (e.2.headD 0#32)) w

/-- The transaction without some lanes: their buffered stores and their sets go. -/
def Tx.without (t : Tx) (lanes : LaneMask) : Tx :=
  let out (k : Nat) : Bool := lanes.getLsbD (k % 32)
  { t with members := t.members &&& ~~~lanes
           waiting := t.waiting &&& ~~~lanes
           reads := t.reads.keep fun k _ => !out k
           writes := t.writes.keep fun k _ => !out k
           readLines := t.readLines.filter fun k => !out k
           torn := t.torn.filter fun k => !out k
           writeLines := t.writeLines.filter fun k => !out k }

/-- Lanes leave the transaction without an abort: they were switched off or ended (R146, R207). -/
def Wave.leaveTx (w : Wave) (lanes : LaneMask) : Wave :=
  match w.tx with
  | none => w
  | some t =>
    let t := t.without lanes
    { w with tx := if t.members = 0#32 then none else some t }

/-- The first half of an abort (R211, R213): restore, record code and address, leave the transaction. -/
def Wave.abortState (w : Wave) (lanes : LaneMask) (code addr : Nat) : Wave :=
  match w.tx with
  | none => w
  | some t =>
    let lanes := lanes &&& t.members
    let all := t.members &&& ~~~lanes = 0#32
    let w := w.restoreShadow t.shadow lanes all
    let w := (lanesOf lanes).foldl (fun w l =>
      { w with tcode := w.tcode.put 0#8 l (BitVec.ofNat 8 code), taddr := w.taddr.put 0#64 l (BitVec.ofNat 64 addr) }) w
    { w with tx := if all then none else some (t.without lanes) }

/-- Place an abort path (R212): slot A, slot B, a matching entry, the stack; none when nothing takes it. -/
def Wave.placePath (w : Wave) (e : Entry) (p : Path) : Option Wave :=
  match w.slotA, w.slotB with
  | none, _ => some { w with slotA := some p }
  | some _, none => some { w with slotB := some p }
  | some _, some _ => w.stow e

/-- Abort lanes of the transaction with a code (R211, R212). `origin` is the code offset of the instruction whose abort this
is. When the path does not fit, every remaining member aborts with code 10 and joins it; when it still does not fit, the
wave keeps the path unplaced and traps STACK_OVERFLOW from it. -/
def Ctx.abortLanes (c : Ctx) (lanes : LaneMask) (code addr origin : Nat) : Ctx :=
  match c.w.tx with
  | none => c
  | some t =>
    let lanes := lanes &&& t.members
    if lanes = 0#32 then c
    else
      let w := (c.w.abortState lanes code addr).removeLanes lanes
      let e : Entry := ⟨t.tryPc, lanes, t.tryMode⟩
      let path (e : Entry) : Path := { pc := e.pc, mask := e.mask, mode := e.mode, readyAt := w.settledAt c.s.clk }
      match w.placePath e (path e) with
      | some w' => { c with w := w' }.fillSlots
      | none =>
        let rest := t.members &&& ~~~lanes
        let w := (w.abortState rest 10 origin).removeLanes rest
        let e := { e with mask := lanes ||| rest }
        match w.placePath e (path e) with
        | some w' => { c with w := w' }.fillSlots
        | none => { c with w := { w with unplaced := some e } }

/-- The lanes an abort concerns: those given under the per-lane flag, all members under the whole-wave flag (R207). -/
def Ctx.concerned (c : Ctx) (lanes : LaneMask) : LaneMask :=
  match c.w.tx with
  | some t => if t.perLane then lanes &&& t.members else t.members
  | none => 0#32

/-! ## Taking an exception and returning from it -/

/-- The address of the trap frame: the save slot's base (R89, R356). -/
def frameBase : Nat := 0xFF83000000000000

/-- What a frame records (R356). -/
structure Frame where
  pc : Nat
  instr : Word
  lanes : LaneMask
  addr : Nat
  cause : Nat
  sub : Nat
  slotB : Bool
  tag : Nat
  depth : Nat
  inHandler : Bool := false
  faultPend : Bool := false
  halted : Bool := false
  mode : ModeImage
  k28 : Word
  k29 : Word
  k30 : Word
  k31 : Word
  stop : Nat
deriving DecidableEq, Repr

/-- The 64 bytes of a frame (R356). -/
def Frame.bytes (f : Frame) : List Byte :=
  natBytes 64 (f.pc % 2 ^ 32 + 2 ^ 32 * f.instr.toNat + 2 ^ 64 * f.lanes.toNat + 2 ^ 96 * (f.addr % 2 ^ 64) + 2 ^ 160 * (f.cause % 256) +
    2 ^ 168 * (f.sub % 256) + 2 ^ 176 * slotOf f.pc + 2 ^ 179 * f.slotB.toNat + 2 ^ 180 * f.tag + 2 ^ 184 * f.depth +
    2 ^ 187 * f.inHandler.toNat + 2 ^ 188 * f.faultPend.toNat + 2 ^ 189 * f.halted.toNat + 2 ^ 192 * f.mode.toNat +
    2 ^ 256 * f.k28.toNat + 2 ^ 288 * f.k29.toNat + 2 ^ 320 * f.k30.toNat + 2 ^ 352 * f.k31.toNat + 2 ^ 384 * (f.stop % 2 ^ 64))

/-- Bits of the frame that stands in the save slot at an offset. -/
def Wave.frameBits (w : Wave) (base lo n : Nat) : Nat :=
  bitsOf (bytesNat ((List.range 64).map fun i => Tab.get 0#8 w.save (base + i))) lo n

/-- The caps of a wave become expired and their lines are released (R196, R357 step 2). -/
def Ctx.releaseCaps (c : Ctx) : Ctx :=
  let expire (r : CapRecord) : CapRecord := match r with | .held va _ => .expired va | .asked _ _ => .empty | r => r
  { c with s := c.s.releaseLineCaps c.gk c.wi, w := { c.w with cap0 := expire c.w.cap0, cap1 := expire c.w.cap1 } }

/-- The frame of a stop of the acting path. -/
def Ctx.frame (c : Ctx) (t : Trap) (pc : Nat) : Frame :=
  { pc := pc, instr := if pc = c.p.pc.toNat then c.cur.word else c.s.codeWord c.codeAsid (c.code.base + pc), lanes := t.lanes,
    addr := t.addr, cause := t.cause, sub := t.sub, slotB := c.slotB, tag := c.g.tag,
    depth := match c.w.tx with | some x => x.depth | none => 0, mode := c.p.mode,
    k28 := Tab.get 0#32 c.w.k 28, k29 := Tab.get 0#32 c.w.k 29, k30 := Tab.get 0#32 c.w.k 30, k31 := Tab.get 0#32 c.w.k 31,
    stop := c.s.clk }

/-- The handler image that a die's `trapbase` names: code base, length, entry offset (R358). -/
def State.handlerImage (s : State) (die : Nat) : Nat × Nat × Nat :=
  let a := (s.die die).trapbase.toNat
  (s.physNat a 8, s.physNat (a + 8) 4, s.physNat (a + 12) 4)

/-- The handler starts in the acting slot with the lanes given (R357): what the other slot issued earlier is written, k28:k29 name the frame,
the mode is 0x000200, and its first instruction issues 24 clk after the stop. -/
def Ctx.startHandler (c : Ctx) (lanes : LaneMask) : Ctx :=
  let (base, len, entry) := c.s.handlerImage c.die
  let w := (c.w.writeK 28 (BitVec.ofNat 32 frameBase)).writeK 29 (BitVec.ofNat 32 (frameBase / 2 ^ 32))
  let w := { w with handler := some ⟨c.slotB, base, len, c.s.clk⟩, flights := [] }
  let written (p : Option Path) : Option Path := match p with | some p => some { p with inflight := [] } | none => none
  { c with w := w.setSlot (!c.slotB) (written (w.slot (!c.slotB))),
           p := { pc := BitVec.ofNat 32 entry, mask := lanes, mode := modeStart, readyAt := c.s.clk + 24 } }

/-! ### Halting a group (R364, R372) -/

/-- A path outside any issue: what a halt or a resume looks at. -/
def State.ctxAt (s : State) (gk wi : Nat) (slotB : Bool) : Option Ctx :=
  let cur : Issue := { g := gk, w := wi, slotB := slotB, word := 0#32, code := 0#4, slot := 0, literal := 0#32, next := 0#32, yieldHint := false }
  ({ s with cur := some cur } : State).ctx?.map fun c => { c with s := s }

/-- The slot whose path a halt's frame describes: the handler's, else A, else B. -/
def Wave.haltSlot (w : Wave) : Bool :=
  match w.handler with
  | some h => h.slotB
  | none => w.slotA.isNone

/-- The open transaction of a wave that halts or is saved aborts with code 7 (R370, R372). -/
def Ctx.abortAll (c : Ctx) : Ctx :=
  match c.w.tx with
  | some t => c.abortLanes t.members 7 0 c.p.pc.toNat
  | none => c

/-- The stop record of a halted wave in its context's trace ring, once the ring has a size (R378, R379). -/
def State.stopRecord (s : State) (gk wi : Nat) : State :=
  match s.groups.find? gk with
  | none => s
  | some g =>
    match g.waves[wi]? with
    | none => s
    | some w =>
      if bitsOf (s.context g.ctx).traceCfg.toNat 0 5 < 12 then s
      else s.traceRecord g.ctx (waveRecord 3 wi (s.lowestTeam g wi) (w.frameBits 0 160 8) (w.frameBits 0 0 32) g.gidX g.gidY g.gidZ s.clk)

/-- The saved k28 to k31 of the frame come back. -/
def Wave.restoreLinks (w : Wave) : Wave :=
  (List.range 4).foldl (fun (w : Wave) i => w.writeK (28 + i) (BitVec.ofNat 32 (w.frameBits 0 (256 + 32 * i) 32))) w

/-- The frame's `halted` bit is set (R356). -/
def Wave.markHalted (w : Wave) : Wave := w.writeSave 23 [Tab.get 0#8 w.save 23 ||| 0x20#8]

/-- A wave that has trapped in this very clk leaves the handler that it has not begun: its path stands where the frame says, in the slot
that trapped (R364). -/
def Wave.backOut (w : Wave) (slotB : Bool) : Wave :=
  let back (p : Option Path) : Option Path :=
    match p with
    | some p => some { p with pc := BitVec.ofNat 32 (w.frameBits 0 0 32), mode := BitVec.ofNat 24 (w.frameBits 0 192 24) }
    | none => none
  let w := { w.restoreLinks with handler := none }
  match w.unplaced with
  | some _ => { w with slotA := w.aside.head?.map fun x => { pc := x.pc, mask := x.mask, mode := x.mode }, aside := [] }
  | none => w.setSlot slotB (back (w.slot slotB))

/-- A wave of a halted group stops (R372): its transaction aborts, its caps are released, and its frame is written with `halted` = 1. A
halt in handler mode first copies the trap frame to 0x0040. A wave that has ended has no frame. A wave that trapped in the same clk keeps
its cause, and the handler waits for the resume (R364). -/
def State.haltWave (s : State) (gk wi sub : Nat) : State :=
  let at_ (s : State) : Option Ctx :=
    match s.groups.find? gk with
    | none => none
    | some g =>
      match g.waves[wi]? with
      | none => none
      | some w => if w.live = 0#32 then none else s.ctxAt gk wi w.haltSlot
  match at_ s with
  | none => s
  | some c0 =>
    let s := c0.abortAll.putWave
    match at_ s with
    | none => s
    | some c =>
      let c := c.releaseCaps
      if c.w.handler.any fun h => h.since == c.s.clk then
        { c with w := (c.w.backOut c.slotB).markHalted }.putWave.stopRecord gk wi
      else
        let pending := c.p.wait == .fault
        let f := c.frame ⟨causeDebugHalt, sub, if pending then c.p.faultAt else 0, c.act⟩ c.p.pc.toNat
        let f := { f with instr := c.s.codeWord c.codeAsid (c.code.base + c.p.pc.toNat), inHandler := c.w.handler.isSome,
                          faultPend := pending, halted := true }
        let w := if c.w.handler.isSome then c.w.writeSave 0x40 ((List.range 64).map fun i => Tab.get 0#8 c.w.save i) else c.w
        { c with w := w.writeSave 0 f.bytes }.putWave.stopRecord gk wi

/-- Halt a group: every wave of it but the one given stops in the same clk, and nothing of it issues. -/
def State.haltGroup (s : State) (gk sub : Nat) (but : Option Nat) : State :=
  match s.groups.find? gk with
  | none => s
  | some g =>
    let s := (List.range g.waves.length).foldl (fun (s : State) wi => if but = some wi then s else s.haltWave gk wi sub) s
    match s.groups.find? gk with
    | some g => { s with groups := s.groups.set gk { g with halted := true } }
    | none => s

/-- A wave traps while a debugger is attached to its context: the group halts, the frame keeps the real cause with `halted` = 1, and the
handler is entered only at resume (R361, R364, R368). A BKPT halts under DEBUG_HALT and reaches no handler (R360). -/
def Ctx.trapAttached (c : Ctx) (f : Frame) : State :=
  let bkpt := f.cause == causeBkpt
  let f := if bkpt then { f with cause := causeDebugHalt, sub := 2, halted := true } else { f with halted := true }
  let s := { c with w := c.w.writeSave 0 f.bytes, p := { c.p with wait := .none } }.putPath
  let s := match s.ctxAt c.gk c.wi c.slotB with | some x => x.abortAll.putWave | none => s
  (s.stopRecord c.gk c.wi).haltGroup c.gk (if bkpt then 2 else 3) (some c.wi)

/-- Whether the standard action for a cause is "fail" (R360). -/
def failing (cause : Nat) : Bool :=
  cause != causeDeadlineMiss && cause != causeFencePeerLost && cause != causeSwTrap && cause != causeDebugHalt

/-- TAKING AN EXCEPTION (R357): caps are released, the frame is written, k28:k29 name it, and the handler starts in the
trapping slot with the slot's active mask and mode 0x000200. A trap in handler mode is a double trap: the context is reset
(R359), or a firmware core parks and its die is reported failed, as it is at a firmware wave's trap whose standard action is to fail
(R388). -/
def Ctx.takeFrame (c : Ctx) (f : Frame) : State :=
  if c.w.handler.isSome then
    if c.firmware then c.putPath.failFirmware c.die else c.putPath.resetContext c.g.ctx 3
  else
    let c := c.releaseCaps
    let c := if f.cause = causeEcc then { c with s := { c.s with health := { c.s.health with trapped := c.s.health.trapped + 1 } } } else c
    if (c.s.context c.g.ctx).attached && !c.firmware then c.trapAttached f
    else
      let s := ({ c with w := c.w.writeSave 0 f.bytes }.startHandler c.p.mask).putPath
      if c.firmware && failing f.cause then s.failFirmware c.die else s

/-- The same from a cause at a code offset. -/
def Ctx.takeTrapAt (c : Ctx) (t : Trap) (pc : Nat) : State := c.takeFrame (c.frame t pc)

def Ctx.takeTrap (c : Ctx) (t : Trap) : State := c.takeTrapAt t c.p.pc.toNat

/-- The handler of such a trap runs in slot A, whose path is kept on the side: slot A's own path resumes behind TRET. -/
def Ctx.enterUnplaced (c : Ctx) (e : Entry) : Ctx :=
  let aside := match c.w.slotA with | some p => [(⟨p.pc, p.mask, p.mode⟩ : Entry)] | none => []
  { c with w := { c.w with aside := aside }, slotB := false }.startHandler e.mask

/-- The trap from an abort path that fits nowhere (R212): its frame holds `try_pc`, `try_mode` and the path's mask, its pslot is 0. While a
debugger is attached the group halts instead, and the handler is entered at resume (R368). -/
def Ctx.trapUnplaced (c : Ctx) (e : Entry) : State :=
  let t : Trap := ⟨causeStackOverflow, 0, (c.g.code.base + e.pc.toNat) % 2 ^ 64, e.mask⟩
  let attached := (c.s.context c.g.ctx).attached && !c.firmware
  let f := { c.frame t e.pc.toNat with mode := e.mode, slotB := false, depth := 0, halted := attached }
  let c := c.releaseCaps
  let c := { c with w := c.w.writeSave 0 f.bytes }
  if attached then (c.putWave.stopRecord c.gk c.wi).haltGroup c.gk 3 (some c.wi)
  else
    let s := (c.enterUnplaced e).putPath
    if c.firmware then s.failFirmware c.die else s

/-! ### Returning from it (R359, R388) -/

/-- Leave handler mode for the frame's `pc` and `mode`: k28 to k31 come back, the trapping slot goes on there with its lanes, and the other
slot and the stack resume. A frame of an abort path that fitted nowhere places that path again (R212). A bad `pc` or `mode` is a
double trap (R388). -/
def Ctx.leaveHandler (c : Ctx) : State :=
  let pc := BitVec.ofNat 32 (c.w.frameBits 0 0 32)
  let mode := BitVec.ofNat 24 (c.w.frameBits 0 192 24)
  let asid := c.g.ctx
  if !c.s.targetLegal asid c.g.code pc.toNat || !modeLegal mode then
    if c.firmware then c.putPath.failFirmware c.die else c.putPath.resetContext c.g.ctx 3
  else
    let w := { c.w.restoreLinks with handler := none }
    match w.unplaced with
    | none =>
      let own : Path := { pc := pc, mask := c.p.mask, mode := mode, readyAt := w.settledAt (c.s.clk + 1) }
      ({ c with w := w.setSlot c.slotB (some own) }.fillSlots).putWave
    | some e =>
      let e : Entry := ⟨pc, e.mask, mode⟩
      let own : Option Path := w.aside.head?.map fun x => { pc := x.pc, mask := x.mask, mode := x.mode, readyAt := w.settledAt (c.s.clk + 1) }
      let w := { w with slotA := own, aside := [], unplaced := none }
      match w.placePath e { pc := pc, mask := e.mask, mode := mode, readyAt := w.settledAt (c.s.clk + 1) } with
      | some w => { c with w := w }.fillSlots.putWave
      | none => { c with w := { w with unplaced := some e } }.trapUnplaced e

/-- The outcome of an instruction's meaning, before it retires. -/
inductive Res where
  /-- the instruction completes and the path goes on behind it -/
  | done (c : Ctx)
  /-- it completes and the path's PC is already the next one -/
  | jump (c : Ctx)
  /-- it completes and the slots of the wave are already as it leaves them -/
  | placed (c : Ctx)
  /-- a cause, precise at the instruction, with the machine as the context holds it -/
  | trap (c : Ctx) (t : Trap)
  /-- it completes; then lanes end or are switched off (R35, R94), and member lanes of a transaction abort (R207) with a code and an
  address each, from this instruction -/
  | leave (c : Ctx) (off abort : LaneMask) (code : Nat) (addr : Nat → Nat)
  /-- it completes behind a reconvergence: every result issued before is written (R313) -/
  | pass (c : Ctx)
  /-- it is not allowed in a transaction: its member lanes abort with code 10 (R207) -/
  | unsupported (c : Ctx)
  /-- member lanes abort with a code and an address each (R207, R213); nothing of the instruction has been done, and the other lanes
  of the path execute it again -/
  | abort (c : Ctx) (lanes : LaneMask) (code : Nat) (addr : Nat → Nat)
  /-- it completes as an arrival at a team of the launch: rounds that it completes deliver their results (R220) -/
  | arrives (c : Ctx) (launch team : Nat)
  /-- it completes, and the device then acts -/
  | acts (c : Ctx) (f : State → State)
  /-- it completes, and the wave traps before the next instruction (R189) -/
  | after (c : Ctx) (t : Trap)
  /-- the wave is no longer there (R115) -/
  | gone (s : State)
  /-- the path waits at the instruction -/
  | wait (c : Ctx) (k : Wait)

/-- Whether the instruction at which the path stands has issued already: it waits for more than a register. -/
def Ctx.waiting (c : Ctx) : Bool := c.p.wait != .none && c.p.wait != .scoreboard

/-- The number of the last operation that was issued before the path's instruction, and the clk of its issue. -/
def Ctx.issueMark (c : Ctx) : Nat := if c.waiting then c.p.waitMark else c.s.serial
def Ctx.issueClk (c : Ctx) : Nat := if c.waiting then c.p.since else c.s.clk

/-- Whether every write that the wave issued before the path's instruction has been performed (R186, R188). -/
def Ctx.settled (c : Ctx) : Bool := c.s.performedTo c.gk c.wi c.issueMark && !c.s.commitPending c.gk c.wi c.issueMark

/-- The path waits at its instruction; a clk passes before anything looks at it again (R36). -/
def Ctx.waits (c : Ctx) (k : Wait) : State :=
  { c with p := { c.p with wait := k, waitMark := c.issueMark, since := c.issueClk, readyAt := c.s.clk + 1 } }.putPath

/-! ## Retiring -/

/-- How many clk an instruction stays longer in its collector: one less than the number of distinct registers that it reads from one
bank of the unified store (R316). -/
def bankDelay (mode : ModeImage) (i : Instr) : Nat :=
  let regs := (readNames mode i).foldl (fun (l : List Nat) n => match n with | .v r => insertNew r l | _ => l) []
  (List.range 16).foldl (fun m b => max m ((regs.filter fun r => r % 16 = b).length)) 0 - 1

/-- The lanes that an instruction's results are written in: the active ones for SEL, else S (R30, R157). -/
def Ctx.resultLanes (c : Ctx) (i : Instr) : LaneMask := match i with | .sel _ _ _ => c.act | _ => c.S

/-- A result in flight behind a variable-latency write, which the core holds until every earlier result of its registers is written: what
reads the register later, reads that write (R55, R137). -/
def InFlight.behind (names : List RegName) (lanes : LaneMask) (e : InFlight) : InFlight :=
  if names.contains e.reg then { e with lanes := e.lanes &&& ~~~lanes, left := match e.reg with | .k _ => 0 | _ => e.left } else e

/-- What the instruction leaves of the results in flight: each comes 1 + pace closer, and its own fixed-latency results join
them with the values their registers held before (R125, R137). -/
def flightAfter (i : Instr) (before : Ctx) : List InFlight :=
  let step := 1 + paceOf before.cur.code
  let names := writtenNames before.mode i
  let lanes := before.resultLanes i
  let old := (before.p.inflight.map fun e => { e with left := e.left - step }).filter fun e => 0 < e.left
  match latency before.mode i with
  | .fixed clk => if clk ≤ step then old else (names.map fun n => (⟨n, lanes, clk - step, before.w.snapshot n⟩ : InFlight)) ++ old
  | .varying => if lanes = 0#32 then old else (old.map (InFlight.behind names lanes)).filter fun e => 0 < e.left && e.lanes ≠ 0#32
  | .nothing => old

/-- The same for reads of other paths' lanes, by the clk at which a result is written (R158). -/
def lanesAfter (i : Instr) (before : Ctx) : List LaneFlight :=
  let names := writtenNames before.mode i
  let lanes := before.resultLanes i
  let old := before.w.flights.filter fun e => before.s.clk < e.done
  match latency before.mode i with
  | .fixed clk =>
    (names.filterMap fun n =>
      match n with
      | .v r => some ⟨r, lanes, before.s.clk + bankDelay before.mode i + clk, before.w.snapshot n⟩
      | _ => none) ++ old
  | .varying => old.map fun e => if names.contains (.v e.n) then { e with lanes := e.lanes &&& ~~~lanes } else e
  | .nothing => old

/-- Whether a fixed-latency write completes before the write of an earlier result to the same register (R137). -/
def writesEarly (clk : Nat) (names : List RegName) (flight : List InFlight) : List RegName :=
  names.filter fun n => flight.any fun e => e.reg == n && clk ≤ e.left

/-- After two writes out of order the register holds, in each lane that both wrote, either of the two results (R137); writes to a k
register take effect in the order of their issue (R26). -/
def Ctx.mixEarly (c before : Ctx) (clk : Nat) (names : List RegName) : Ctx :=
  names.foldl (fun c n =>
    let late := (before.p.inflight.filter fun e => e.reg == n && clk ≤ e.left).foldl (fun m e => m ||| e.lanes) 0#32
    match n with
    | .v r =>
      { c with w := { c.w with v := (lanesOf late).foldl (fun t l =>
          if Config.freeChoice c.s.free (vKey r l * 64 + 40) then t.put 0#32 (vKey r l) (Tab.get 0#32 before.w.v (vKey r l)) else t) c.w.v } }
    | .k _ => c
    | .q r =>
      { c with w := { c.w with q := c.w.q.put 0#32 r (laneSet fun l =>
          if late.getLsbD l && Config.freeChoice c.s.free ((8192 + r) * 64 + 40 + l) then (Tab.get 0#32 before.w.q r).getLsbD l
          else (Tab.get 0#32 c.w.q r).getLsbD l) } }) c

/-- Post the write-back of variable-latency results (R136): their registers wait in the scoreboard. -/
def Ctx.scoreboard (c before : Ctx) (names : List RegName) (lanes : LaneMask) : Ctx :=
  if names = [] then c
  else
    let s := c.s.fresh
    let old := names.foldl (fun (t : Tab Word) n =>
      match n with
      | .v r => (lanesOf lanes).foldl (fun t l => t.set (vKey r l) (Tab.get 0#32 before.w.v (vKey r l))) t
      | _ => t) []
    { c with s := s.post (.resultWriteback c.gk c.wi s.serial),
             w := { c.w with scoreboard := c.w.scoreboard ++ [⟨s.serial, names, lanes, old⟩] } }

/-- Instructions whose results stay in the scoreboard until an event of its own writes them (R220, R262). -/
def reportsLater : Instr → Bool
  | .tredadd _ _ _ | .tredmin _ _ _ | .tredmax _ _ _ | .rayq _ _ _ | .rayqa _ _ _ | .tex _ _ _ | .texl _ _ _
  | .texg _ _ _ => true
  | _ => false

/-- The scoreboard takes registers whose results come later: they hold what they held (R136). -/
def Ctx.expects (c : Ctx) (names : List RegName) (lanes : LaneMask) (id : Nat) : Ctx :=
  { c with w := { c.w with scoreboard := c.w.scoreboard ++ [⟨id, names, lanes, []⟩] } }

/-- Whether a word is of opcode row 0x4 or 0x5. -/
def vectorWord (word : Word) : Bool := word.toNat / 2 ^ 28 == 4 || word.toNat / 2 ^ 28 == 5

/-- What a core has counted in the current 64-clk window (R446). -/
def VectorUse.now (u : VectorUse) (clk : Nat) : VectorUse := if u.window = clk / 64 then u else { window := clk / 64 }

/-- Whether a cap in percent holds back what is counted for the rest of the window: the clk in which it may happen have passed (R446). -/
def VectorUse.held (u : VectorUse) (cap clk : Nat) : Bool := decide (64 * cap / 100 ≤ u.clks) && u.last != clk + 1

/-- A clk in which it happens counts once. -/
def VectorUse.note (u : VectorUse) (clk : Nat) : VectorUse :=
  if u.last = clk + 1 then u else { u with clks := u.clks + 1, last := clk + 1 }

/-- A core's vector issue in the current 64-clk window (R446). -/
def State.vectorUse (s : State) (core : Nat) : VectorUse := (Tab.get {} s.vector core).now s.clk

/-- The core issues an instruction of row 0x4 or 0x5: the clk counts once in its window (R446). -/
def State.noteVector (s : State) (core : Nat) : State :=
  { s with vector := s.vector.set core ((s.vectorUse core).note s.clk) }

/-- The wave's later accesses are performed behind what has been performed now (R272). -/
def Ctx.acquire (c : Ctx) : Ctx := { c with w := { c.w with acquired := c.s.writes, seen := [] } }

/-- Retire an instruction (R125, R126, R137): the last-read mark takes effect in the active lanes that the instruction does not itself
write, pacing moves on, results go into flight or into the scoreboard. -/
def Ctx.retire (i : Instr) (before c : Ctx) : Ctx :=
  let names := writtenNames before.mode i
  let lanes := before.resultLanes i
  let c :=
    match latency before.mode i with
    | .fixed clk => c.mixEarly before clk (writesEarly clk names before.p.inflight)
    | .varying => if reportsLater i || (lanes = 0#32 && (shape i).guard) then c else c.scoreboard before names lanes
    | .nothing => c
  let w := if marked before.cur.code then
      (markedRegs before.mode i).foldl (fun (w : Wave) n =>
        let written := if names.contains (.v n) && !reportsLater i then lanes else 0#32
        { w with dead := w.dead.put 0#32 n (Tab.get 0#32 w.dead n ||| (before.act &&& ~~~written)) }) c.w
    else c.w
  let w := (w.setPace before.slotB (c.s.clk + 1 + paceOf before.cur.code + bankDelay before.mode i)).setYield before.slotB (i == .yield)
  let s := if vectorWord before.cur.word then c.s.noteVector before.core else c.s
  { c with
    s := { s with free := c.s.free + 1 }
    w := { w with lastB := before.slotB, issuedAt := c.s.clk + 1, flights := lanesAfter i before }
    p := { c.p with wait := .none, inflight := flightAfter i before, readyAt := c.s.clk + 1 + Config.freeNat c.s.free (2 ^ 40),
                    comb := some (BitVec.ofNat 32 (combOf before.p.pc.toNat)), raises := none } }

/-- The path goes on at a code offset; when it leaves a comb whose `yield` bit is set, its slot is ranked last for its next pick (R124). -/
def Ctx.goOn (c before : Ctx) (pc : Word) : Ctx :=
  let w := if before.cur.yieldHint && combOf pc.toNat != combOf before.p.pc.toNat then c.w.setYield before.slotB true else c.w
  { c with w := w, p := { c.p with pc := pc } }

/-- The checkpoint takes the registers written by the instruction at the values they held before it (R205); none when a 33rd
register would be shadowed. -/
def Ctx.checkpoint (i : Instr) (before c : Ctx) : Option Ctx :=
  match c.w.tx, before.w.tx with
  | some t, some _ =>
    if (if (shape i).guard then before.resultLanes i else before.act) &&& t.members = 0#32 then some c
    else
      let t := t.shadowed before.w (writtenNames before.mode i)
      if 32 < t.shadow.length then none else some { c with w := { c.w with tx := some t } }
  | _, _ => some c

/-- An event of an instruction inside a transaction (R207): the lanes abort and nothing of the instruction has been done. -/
def Ctx.abortNow (c : Ctx) (lanes : LaneMask) (code addr : Nat) : State :=
  let c := { c with s := { c.s with free := c.s.free + 1 }, w := { c.w with issuedAt := c.s.clk + 1 } }
  let c' := { c with w := c.w.setSlot c.slotB (some c.p) }.abortLanes lanes code addr c.p.pc.toNat
  match c'.w.unplaced, c'.w.handler with
  | some e, none => c'.trapUnplaced e
  | _, _ => c'.putWave

/-- A cause that an instruction raises: inside a transaction an abort (R207), except an uncorrectable error: consumed by a member lane, it
aborts every member, and the wave traps before the abort path's first instruction (R216); else a trap. -/
def Ctx.raise (c : Ctx) (t : Trap) : State :=
  if c.memberLanes = 0#32 || c.w.handler.isSome then c.takeTrap t
  else if t.cause = causeEcc then
    match c.w.tx with
    | none => c.takeTrap t
    | some x =>
      if t.lanes &&& x.members = 0#32 then c.takeTrap t
      else { c with w := { c.w with txError := some ⟨x.members, t.sub, t.addr, x.depth⟩ } }.abortNow x.members 6 t.addr
  else if t.cause = causeAlign || t.cause = causeProtection then
    (if c.concerned t.lanes = 0#32 then c.takeTrap t else c.abortNow (c.concerned t.lanes) 6 t.addr)
  else c.abortNow (c.concerned c.act) 10 c.p.pc.toNat

/-- Lanes end: they leave their transaction, their slots and their entries (R35, R94, R146). -/
def Ctx.endLanes (c : Ctx) (lanes : LaneMask) : Ctx :=
  { c with w := { c.w.leaveTx lanes with live := c.w.live &&& ~~~lanes }.removeLanes lanes }

/-- The state behind an instruction that has placed its wave's paths itself; a wave without lanes ends, and a path that fits
nowhere traps (R212). -/
def Ctx.settle (c : Ctx) : State :=
  match c.w.unplaced, c.w.handler with
  | some e, none => c.trapUnplaced e
  | _, _ => c.putWave.waveEnds c.gk c.wi

/-- An instruction that would shadow a 33rd register aborts every member (R207). -/
def Ctx.overflowsCheckpoint (c : Ctx) : State := c.abortNow (match c.w.tx with | some t => t.members | none => 0#32) 11 0

/-- Lanes abort with a code and an address each. -/
def Ctx.abortEach (c : Ctx) (lanes : LaneMask) (code : Nat) (addr : Nat → Nat) (origin : Nat) : Ctx :=
  let c := c.abortLanes lanes code 0 origin
  { c with w := { c.w with taddr := (lanesOf lanes).foldl (fun t l => t.put 0#64 l (BitVec.ofNat 64 (addr l))) c.w.taddr } }

/-- Carry out what a meaning answers. -/
def Ctx.finish (i : Instr) (before : Ctx) : Res → State
  | .done c =>
    match Ctx.checkpoint i before c with
    | none => before.overflowsCheckpoint
    | some c => ((Ctx.retire i before c).goOn before before.cur.next).putPath
  | .jump c =>
    match Ctx.checkpoint i before c with
    | none => before.overflowsCheckpoint
    | some c => ((Ctx.retire i before c).goOn before c.p.pc).putPath
  | .placed c =>
    { c with s := { c.s with free := c.s.free + 1 }, w := { c.w with lastB := before.slotB, issuedAt := c.s.clk + 1 } }.settle
  | .trap c t => c.raise t
  | .leave c off abort code addr =>
    match Ctx.checkpoint i before c with
    | none => before.overflowsCheckpoint
    | some c =>
      let c := Ctx.retire i before c
      let origin := c.p.pc.toNat
      let c := c.goOn before before.cur.next
      let c := { c with w := c.w.setSlot c.slotB (some c.p) }.endLanes off
      ((if abort = 0#32 then c else c.abortEach abort code addr origin).fillSlots).settle
  | .pass c =>
    let c := (Ctx.retire i { before with p := { before.p with inflight := [] } } c).goOn before before.cur.next
    { c with p := { c.p with readyAt := max c.p.readyAt (before.w.settledAt c.s.clk) } }.putPath
  | .unsupported c => c.abortNow (c.concerned c.act) 10 c.p.pc.toNat
  | .abort c lanes code addr =>
    let c := { c with s := { c.s with free := c.s.free + 1 }, w := { c.w with issuedAt := c.s.clk + 1 } }
    ({ c with w := c.w.setSlot c.slotB (some c.p) }.abortEach lanes code addr c.p.pc.toNat).settle
  | .arrives c launch team =>
    (((Ctx.retire i before c).goOn before before.cur.next).putPath).settleTeam launch team
  | .acts c f => f ((Ctx.retire i before c).goOn before before.cur.next).putPath
  | .after c t => (Ctx.retire i before c).takeTrapAt t before.cur.next.toNat
  | .gone s => s
  | .wait c k => c.waits k

/-! ## Checks before an instruction acts -/

/-- The first register of the list that lies at or above the window (R24, R131). -/
def rangeFault (n : Nat) : List Reg → Option Nat
  | [] => none
  | .v r :: rest => if n ≤ r.val then some r.val else rangeFault n rest
  | _ :: rest => rangeFault n rest

/-- The registers that the fields of an instruction name, whatever the end of the file: a quad or eight that starts near v191 runs
past every window. -/
def namedRegs (mode : ModeImage) (i : Instr) : List Reg :=
  let sh := shape i
  let field (f : Option Field) : List Reg :=
    match f with
    | some (.reg r _ w _) => regRun r (w.regs mode)
    | _ => []
  field sh.d ++ field sh.a ++ field sh.b

/-- Whether a register field names v register n. -/
def isVReg (r : Reg) (n : Nat) : Bool := match r with | .v m => m.val == n | _ => false

/-- The lanes of the path in which an instruction reads a register in one of the lanes given: its own lane, and for a lane operation or a
texture quad the lanes that it takes the value from (R157, R267, R362). -/
def Ctx.consumers (c : Ctx) (i : Instr) (r : RegName) (from_ : LaneMask) : LaneMask :=
  let lanes := if (shape i).guard then c.resultLanes i else c.act
  let own := match r with | .v _ => from_ &&& lanes | _ => lanes
  let takes (a b : Reg) (src : Nat → Nat) : LaneMask :=
    match r with
    | .v n => (if isVReg b n then own else 0#32) ||| if isVReg a n then laneSet fun l => lanes.getLsbD l && from_.getLsbD (src l) else 0#32
    | _ => own
  match i with
  | .sel _ a b =>
    match r with
    | .v n => (if isVReg a n then own &&& c.guard else 0#32) ||| if isVReg b n then own &&& ~~~c.guard else 0#32
    | _ => own
  | .movu _ a b => takes a b fun _ => (c.val b 0).toNat % 32
  | .shuf _ a b => takes a b fun l => (c.val b l).toNat % 32
  | .shufx _ a b => takes a b fun l => l ^^^ ((c.val b 0).toNat % 32)
  | .tex _ _ _ =>
    match r with
    | .v _ => laneSet fun l => lanes.getLsbD l && (List.range 4).any fun j => from_.getLsbD (l / 4 * 4 + j)
    | _ => own
  | _ => own

/-- A poisoned register that the instruction reads, and the lanes that read it (R362). -/
def Ctx.poisonRead (c : Ctx) (i : Instr) : Option (Poison × LaneMask) :=
  if c.w.handler.isSome then none
  else
    let names := readNames c.mode i
    (c.w.poison.find? fun p => names.contains p.reg && c.consumers i p.reg p.lanes != 0#32).map fun p => (p, c.consumers i p.reg p.lanes)

/-- The accumulator tiles and the macro that an instruction reads, by its fields (R255, R259, R261). -/
def Ctx.matrixReads (c : Ctx) (i : Instr) : List Nat × List Nat :=
  match i with
  | .mma d _ b | .mmas d _ b => (((List.range 4).filter fun q => c.S >>> (8 * q) &&& 0xFF#32 ≠ 0#32).map fun q => d.toNat + q, [b.toNat])
  | .mrd _ a _ | .mdrain _ a | .mdraina _ a => ([a.toNat], [])
  | _ => ([], [])

/-- A tile or macro with an uncorrectable error that the instruction reads (R362): its number. -/
def Ctx.matrixPoison (c : Ctx) (i : Instr) : Option Nat :=
  if c.w.handler.isSome || c.S = 0#32 then none
  else
    let r := c.matrixReads i
    match r.1.find? c.w.badTiles.contains with
    | some t => some t
    | none => r.2.find? c.g.badMacros.contains

/-- Whether a register of the list still waits in the scoreboard for lanes of the path; k registers and predicates for any
(R136, R137). -/
def Ctx.interlocked (c : Ctx) (names : List RegName) : Bool :=
  c.w.scoreboard.any fun o => o.regs.any fun r =>
    names.contains r && (match r with | .v _ => o.lanes &&& c.act != 0#32 | _ => true)

/-- The register that an instruction reads or writes too early (R137): its number. -/
def Ctx.underpaced (c : Ctx) (i : Instr) : Option Nat :=
  let number (n : RegName) : Nat := match n with | .v r => r | .k r => 192 + r | .q r => r
  let reads := readNames c.mode i
  let early := reads.find? fun n => c.p.inflight.any fun e => e.reg == n && 0 < e.left
  match early with
  | some n => some (number n)
  | none =>
    match latency c.mode i with
    | .fixed clk => (writesEarly clk (writtenNames c.mode i) c.p.inflight).head?.map number
    | _ => none

/-- The quarters of a wave that have a lane in a set (R255). -/
def quartersOf (m : LaneMask) : List Nat := (List.range 4).filter fun q => m &&& (0xFF#32 <<< (8 * q)) ≠ 0#32

/-- The field that names a macro slot or a tile which the group or the wave has not (R253, R255). -/
def Ctx.unitFault (c : Ctx) (i : Instr) : Option Nat :=
  let tile (t f : Nat) : Option Nat := if c.g.accTiles ≤ t then some f else none
  match i with
  | .mbld d _ => if c.g.macros.length ≤ d.toNat then some 1 else none
  | .mma d _ b | .mmas d _ b =>
    if c.g.accTiles ≤ d.toNat || (quartersOf c.S).any fun q => c.g.accTiles ≤ d.toNat + q then some 1
    else if c.g.macros.length ≤ b.toNat then some 3
    else none
  | .mzero d | .mwr d _ _ => tile d.toNat 1
  | .mdrain _ a | .mdraina _ a | .mrd _ a _ => tile a.toNat 2
  | _ => none

/-- The lower of two fields at fault. -/
def lowerField (x y : Option Nat) : Option Nat :=
  match x, y with
  | some m, some n => some (min m n)
  | some m, none => some m
  | none, y => y

/-- The causes of R138 items 2, 5, 6 and 8 and the type check of item 7 that an instruction's own entry gives. -/
def Ctx.precheck (i : Instr) (legalType : Bool) (c : Ctx) : Option Trap :=
  if Sys2Proof.Machine.privileged i && !c.privileged then some ⟨causePriv, 0, 0, c.act⟩
  else
    match lowerField (operandFault c.mode i) (c.unitFault i) with
    | some f => some ⟨causeIllegalOperand, f, 0, c.act⟩
    | none =>
      match rangeFault c.w.n (namedRegs c.mode i) with
      | some r => some ⟨causeRegRange, r, 0, c.act⟩
      | none =>
        if !legalType then some ⟨causeIllegalType, modeType c.mode, 0, c.act⟩
        else
          match (if c.w.pacecheck then c.underpaced i else none) with
          | some r => some ⟨causeUnderpaced, r, 0, c.act⟩
          | none =>
            match c.poisonRead i with
            | some (p, lanes) => some ⟨causeEcc, p.unit, p.addr, lanes⟩
            | none => (c.matrixPoison i).map fun t => ⟨causeEcc, 6, t, c.S⟩

/-- THE FRAME OF EVERY MEANING: the acting path is found; the checks of R138 are made; a register that the scoreboard holds
makes the path wait (R136); then the instruction's own effect is taken and retired. -/
def issue (i : Instr) (legalType : ModeImage → Bool) (s : State) (body : Ctx → Res) : Host.Outcome State Fault Refusal :=
  match s.ctx? with
  | none => .fault .noPath
  | some c =>
    match c.precheck i (legalType c.mode) with
    | some t => .next (c.raise t)
    | none =>
      if c.interlocked (readNames c.mode i ++ writtenNames c.mode i) then .next (c.waits .scoreboard)
      else .next (Ctx.finish i c (body c))

/-- Every mode type will do. -/
def anyType (_ : ModeImage) : Bool := true

end Sys2Proof.Machine
end

