-- ==== Sys2Proof/Machine/Registers.lean ====
section
/-!
DEFINITION. Sys2Proof/Machine/Registers.lean: the registers of BAR0 (queue pages R330 and R331, control blocks R366 and R367, the
MSI-X table R391 and R430, the device block R434) and of the base-die window (R411): what a read returns and what a write does.
A write that makes the device act puts that step at the head of the agenda.
-/

namespace Sys2Proof.Machine

open Sys2Proof

/-- A register of a block: its offset, its width in bytes and what it holds. -/
structure BlockReg where
  off : Nat
  bytes : Nat
  value : Nat
deriving DecidableEq, Repr

/-- The register that an access of n bytes at an offset names: a listed register, or a half of one of 8 bytes (R330, R366, R434). -/
def regAt (rs : List BlockReg) (off n : Nat) : Option BlockReg :=
  if (n = 4 ∨ n = 8) ∧ off % n = 0 then
    rs.find? fun r => (r.off == off && r.bytes == n) || (r.bytes == 8 && n == 4 && (off == r.off || off == r.off + 4))
  else none

/-- The whole value that a write of n bytes at an offset would give a register. -/
def BlockReg.merged (r : BlockReg) (off n v : Nat) : Nat :=
  let lo := 8 * (off - r.off)
  bitsOf r.value 0 lo + 2 ^ lo * (v % 2 ^ (8 * n)) + 2 ^ (lo + 8 * n) * (r.value / 2 ^ (lo + 8 * n))

/-- What a read of a block returns: 0 where no register is listed. -/
def blockRead (rs : List BlockReg) (off n : Nat) : Nat :=
  match regAt rs off n with
  | some r => bitsOf r.value (8 * (off - r.off)) (8 * n)
  | none => 0

/-- A device step that follows at once. -/
def State.next (s : State) (i : Instr) : State := { s with agenda := .event i :: s.agenda }

/-! ## Queue pages (R330, R331) -/

def Queue.ringCfg (q : Queue) : Nat := q.logSlots + 256 * q.level + 2 ^ 16 * q.enable.toNat

def Queue.regs (q : Queue) : List BlockReg :=
  [⟨0x000, 8, q.ringBase.toNat⟩, ⟨0x008, 4, q.ringCfg⟩, ⟨0x00C, 4, q.quantum.toNat⟩, ⟨0x010, 4, q.tail.toNat⟩,
   ⟨0x014, 4, q.head.toNat⟩, ⟨0x018, 8, q.errlogBase.toNat⟩, ⟨0x020, 4, q.errlogCount.toNat⟩, ⟨0x024, 4, q.ctx⟩]

/-- A write of `ring_cfg`: while `enable` is 1 only the level and `enable` change (R330). -/
def State.writeRingCfg (s : State) (i v : Nat) : State :=
  let q := s.queue i
  let size := bitsOf v 0 5
  if v / 2 ^ 17 ≠ 0 ∨ bitsOf v 5 3 ≠ 0 ∨ bitsOf v 10 6 ≠ 0 then s
  else if q.enable then
    let s := s.setQueue i { q with level := bitsOf v 8 2 }
    if bitOf v 16 then s else s.next (.queueDisable i)
  else if size < 4 ∨ 16 < size ∨ (bitOf v 16 ∧ q.ctx = 0) then s
  else
    let s := s.setQueue i { q with logSlots := size, level := bitsOf v 8 2 }
    if bitOf v 16 then s.next (.queueEnable i) else s

def State.queueWrite (s : State) (i off n v : Nat) : State :=
  let q := s.queue i
  if 0x040 ≤ off ∧ off < 0x080 then s.logError i q.tail.toNat 0x02 2 0 0
  else
    match regAt q.regs off n with
    | none => s
    | some r =>
      let x := r.merged off n v
      match r.off with
      | 0x000 => if q.enable ∨ x % 256 ≠ 0 then s else s.setQueue i { q with ringBase := BitVec.ofNat 64 x }
      | 0x008 => s.writeRingCfg i x
      | 0x00C => if x = 0 ∨ 2 ^ 31 < x then s else s.setQueue i { q with quantum := BitVec.ofNat 32 x }
      | 0x010 => s.next (.tailWrite i (BitVec.ofNat 32 x))
      | 0x018 => if q.enable ∨ x % 4096 ≠ 0 then s else s.setQueue i { q with errlogBase := BitVec.ofNat 64 x }
      | 0x024 => if q.enable ∨ 4095 < x then s else s.setQueue i { q with ctx := x }
      | _ => s

/-! ## Control blocks (R366, R367) -/

/-- `ctx_state` (R366). -/
def State.ctxState (s : State) (i : Nat) : Nat :=
  let c := s.context i
  c.stopped.toNat + 2 * c.preempting.toNat + 4 * c.attached.toNat + 8 * c.saveCapable.toNat +
    16 * (List.any s.groups fun (x : Nat × Group) => x.2.ctx == i && x.2.halted).toNat

def State.contextRegs (s : State) (i : Nat) : List BlockReg :=
  let c := s.context i
  [⟨0x000, 4, 0⟩, ⟨0x004, 4, c.cmdStatus⟩, ⟨0x008, 4, s.ctxState i⟩, ⟨0x00C, 4, c.slice.toNat⟩, ⟨0x010, 4, c.d1.toNat⟩,
   ⟨0x014, 4, c.d2.toNat⟩, ⟨0x018, 4, c.wdLimit.toNat⟩, ⟨0x020, 8, c.arg0.toNat⟩, ⟨0x028, 8, c.arg1.toNat⟩,
   ⟨0x030, 4, c.arg2.toNat⟩, ⟨0x038, 8, c.saveBase.toNat⟩, ⟨0x040, 8, c.traceBase.toNat⟩, ⟨0x048, 4, c.traceCfg.toNat⟩,
   ⟨0x04C, 4, (s.traceShown i).toNat⟩]

/-- The step that a command of `ctx_cmd` is (R368). -/
def commandStep (ctx v : Nat) : Option Instr :=
  match v with
  | 1 => some (.preemptCmd ctx)
  | 2 => some (.readmitCmd ctx)
  | 3 => some (.resetCmd ctx)
  | 4 => some (.haltCmd ctx)
  | 5 => some (.resumeCmd ctx)
  | 6 => some (.saveCmd ctx)
  | 7 => some (.loadCmd ctx)
  | 8 => some (.attachCmd ctx)
  | 9 => some (.detachCmd ctx)
  | _ => none

def State.contextWrite (s : State) (i off n v : Nat) : State :=
  let c := s.context i
  if i = 0 then s
  else
    match regAt (s.contextRegs i) off n with
    | none => s
    | some r =>
      let x := r.merged off n v
      match r.off with
      | 0x000 =>
        match commandStep i x with
        | some e => if c.cmdStatus = 1 then s else (s.setContext i { c with cmdStatus := 1, cmd := x }).next e
        | none => s
      | 0x00C => s.setContext i { c with slice := BitVec.ofNat 32 x }
      | 0x010 => if x = 0 ∨ 1000000 < x ∨ c.d2.toNat < x then s else s.setContext i { c with d1 := BitVec.ofNat 32 x }
      | 0x014 => if x < c.d1.toNat then s else s.setContext i { c with d2 := BitVec.ofNat 32 x }
      | 0x018 => s.setContext i { c with wdLimit := BitVec.ofNat 32 x }
      | 0x020 => s.setContext i { c with arg0 := BitVec.ofNat 64 x }
      | 0x028 => if x % 256 ≠ 0 then s else s.setContext i { c with arg1 := BitVec.ofNat 64 x }
      | 0x030 => s.setContext i { c with arg2 := BitVec.ofNat 32 x }
      | 0x038 => s.setContext i { c with saveBase := BitVec.ofNat 64 x }
      | 0x040 => if x % 4096 ≠ 0 then s else s.setContext i { c with traceBase := BitVec.ofNat 64 x }
      | 0x048 =>
        if bitsOf x 0 5 < 12 ∨ 30 < bitsOf x 0 5 ∨ bitsOf x 5 3 ≠ 0 ∨ bitsOf x 10 6 ≠ 0 then s
        else
          let s := s.setContext i { c with traceCfg := BitVec.ofNat 32 x }
          (s.groupKeys fun _ g => g.ctx == i).foldl (fun (s : State) k => s.startSamples i (coreOfGroup k)) s
      | _ => s

/-! ## The MSI-X table (R391, R430) -/

/-- A write to the table: a vector that is no longer masked and is pending is sent (R391). -/
def State.msixWrite (s : State) (off n v : Nat) : State :=
  if (n = 4 ∨ n = 8) ∧ off % n = 0 then
    let s := { s with msixTable := (placed off (natBytes n v)).foldl (fun t b => t.put (msixDefault b.1) b.1 b.2) s.msixTable }
    let vec := off / 16
    if s.msixPending.contains vec && !s.msixMasked vec then
      { s with msixPending := s.msixPending.erase vec, msixSent := s.msixSent ++ [vec] }
    else s
  else s

/-- The pending bits, 64 vectors to 8 bytes. -/
def State.msixPendingBits (s : State) (off n : Nat) : Nat :=
  (List.range (8 * n)).foldl (fun x b => if s.msixPending.contains (8 * off + b) then x + 2 ^ b else x) 0

/-! ## The device block (R434) -/

/-- What `err_put` reads: it counts the records that are in memory (R435). -/
def State.errShown (s : State) : Word :=
  s.device.errPut - BitVec.ofNat 32 (s.posted.filter fun p => match p.front with | some (0, 5, _) => true | _ => false).length

def State.deviceRegs (s : State) : List BlockReg :=
  let d := s.device
  [⟨0x000, 8, s.clk % 2 ^ 64⟩, ⟨0x008, 8, d.errBase.toNat⟩, ⟨0x010, 4, d.errCfg.toNat⟩, ⟨0x014, 4, s.errShown.toNat⟩] ++
   ((List.range 4).map fun i => (⟨0x040 + 8 * i, 8, bitsOf d.attNonce.toNat (64 * i) 64⟩ : BlockReg)) ++
   [⟨0x060, 8, d.attDest.toNat⟩, ⟨0x068, 4, 0⟩, ⟨0x06C, 4, d.attStatus⟩]

def State.deviceWrite (s : State) (off n v : Nat) : State :=
  let d := s.device
  match regAt s.deviceRegs off n with
  | none => s
  | some r =>
    let x := r.merged off n v
    match r.off with
    | 0x008 => if x % 4096 ≠ 0 then s else { s with device := { d with errBase := BitVec.ofNat 64 x } }
    | 0x010 =>
      if bitsOf x 0 5 < 6 ∨ 16 < bitsOf x 0 5 ∨ bitsOf x 5 3 ≠ 0 ∨ bitsOf x 9 7 ≠ 0 ∨ bitsOf x 24 8 ≠ 0 then s
      else { s with device := { d with errCfg := BitVec.ofNat 32 x } }
    | 0x060 => if x % 4096 ≠ 0 then s else { s with device := { d with attDest := BitVec.ofNat 64 x } }
    | 0x068 => if x = 1 then s.next (.attCmd 1#32) else s
    | o =>
      if 0x040 ≤ o ∧ o < 0x060 then
        let lo := 8 * (o - 0x040)
        let all := d.attNonce.toNat
        { s with device := { d with attNonce := BitVec.ofNat 256 (bitsOf all 0 lo + 2 ^ lo * x + 2 ^ (lo + 64) * (all / 2 ^ (lo + 64))) } }
      else s

/-! ## BAR0 (R430) -/

def State.bar0Read (s : State) (off n : Nat) : Nat :=
  if off < 0x100000 then blockRead (s.queue (off / 4096)).regs (off % 4096) n
  else if off < 0x200000 then
    (let i := (off - 0x100000) / 256
     if i = 0 then 0 else blockRead (s.contextRegs i) (off % 256) n)
  else if off < 0x201000 then
    (if (n = 4 ∨ n = 8) ∧ off % n = 0 then bytesNat ((List.range n).map fun i => s.msixByte (off - 0x200000 + i)) else 0)
  else if off < 0x201020 then (if (n = 4 ∨ n = 8) ∧ off % n = 0 then s.msixPendingBits (off - 0x201000) n else 0)
  else if 0x300000 ≤ off ∧ off < 0x300100 then blockRead s.deviceRegs (off - 0x300000) n
  else 0

def State.bar0Write (s : State) (off n v : Nat) : State :=
  if off < 0x100000 then s.queueWrite (off / 4096) (off % 4096) n v
  else if off < 0x200000 then s.contextWrite ((off - 0x100000) / 256) (off % 256) n v
  else if off < 0x201000 then s.msixWrite (off - 0x200000) n v
  else if 0x300000 ≤ off ∧ off < 0x300100 then s.deviceWrite (off - 0x300000) n v
  else s

/-! ## The base-die window (R411) -/

/-- `link_stat`: two bits for each port. -/
def State.linkStat (s : State) : Nat := (List.range Config.linkPorts).foldl (fun x p => x + 4 ^ p * (s.port p).state) 0

/-- `region_cmd`: bit 0 while a switch runs. -/
def State.regionReg (s : State) : Nat :=
  match s.window.region with
  | some (r, soft) => 1 + 2 * soft.toNat + 2 ^ 21 * r
  | none => 0

def State.windowRegs (s : State) : List BlockReg :=
  let w := s.window
  [⟨0x000, 8, w.asidBase⟩, ⟨0x008, 8, 0⟩, ⟨0x010, 8, s.regionReg⟩, ⟨0x018, 8, w.spillBase⟩, ⟨0x020, 8, w.spillSize⟩,
   ⟨0x028, 4, w.fabricCfg.toNat⟩, ⟨0x02C, 4, w.linkWindow⟩, ⟨0x030, 4, s.linkStat⟩] ++
  (List.range 32).map fun i =>
    (⟨0x100 + 8 * i, 8, bytesNat ((List.range 8).map fun j => Tab.get 0#8 w.nvme (8 * i + j))⟩ : BlockReg)

def State.windowRead (s : State) (off n : Nat) : Nat := blockRead s.windowRegs off n

/-- Whether any future tag is taken. -/
def State.tagsTaken (s : State) : Bool := (List.range 16).any fun t => t ≠ 0 && (s.tag t).state ≠ .free

/-- A write of `fault_done` (R418): the entry it names and its result; a second one for an entry, and one with an unlisted bit, is
ignored. -/
def State.faultDone (s : State) (x : Nat) : State :=
  if x / 2 ^ 18 ≠ 0 ∨ bitsOf x 14 2 ≠ 0 then s
  else
    match s.faults.find? fun e => e.index == bitsOf x 0 12 && e.die == bitsOf x 12 2 with
    | none => s
    | some e => if bitsOf x 16 2 = 0 then s.next (.faultResolved e.id) else s.next (.faultFailed e.id (bitsOf x 16 2))

/-- A write of `fabric_cfg`, ignored while any port is up: a port that is enabled trains, one that is not is disabled. -/
def State.fabricWrite (s : State) (x : Nat) : State :=
  if (List.range Config.linkPorts).any (fun p => (s.port p).state == 1) ∨ bitsOf x 4 4 ≠ 0 ∨ x / 2 ^ 20 ≠ 0 then s
  else
    let s := { s with window := { s.window with fabricCfg := BitVec.ofNat 32 x } }
    (List.range Config.linkPorts).foldl (fun s p =>
      if bitOf x (16 + p) then (s.setPort p { state := 2, since := s.clk }).after (s.window.linkWindow * clkPerMicro) (.peer p)
      else s.setPort p {}) s

def State.windowWrite (s : State) (off n v : Nat) : State :=
  let w := s.window
  match regAt s.windowRegs off n with
  | none => s
  | some r =>
    let x := r.merged off n v
    match r.off with
    | 0x000 => if x % 4096 ≠ 0 then s else { s with window := { w with asidBase := x } }
    | 0x008 => s.faultDone x
    | 0x010 => if w.region.isNone ∧ bitOf x 0 then s.next (.regionCmd (BitVec.ofNat 64 x)) else s
    | 0x018 => if s.tagsTaken ∨ x % 2 ^ 21 ≠ 0 then s else { s with window := { w with spillBase := x } }
    | 0x020 => if s.tagsTaken ∨ x % 2 ^ 21 ≠ 0 ∨ 2 ^ 34 < x then s else { s with window := { w with spillSize := x } }
    | 0x028 => s.fabricWrite x
    | 0x02C => if x = 0 ∨ 1000000 < x then s else { s with window := { w with linkWindow := x } }
    | 0x030 => s
    | o => if 0x100 ≤ o then { s with window := { w with nvme := w.nvme.putAll 0#8 (placed (o - 0x100) (natBytes 8 x)) } } else s

/-! ## Peers of the fabric (R433) -/

/-- What a peer card is (R433). -/
inductive Peer where
  | up | retraining | down
deriving DecidableEq, Repr

/-- The ports that lead to a card. -/
def State.portsTo (s : State) (card : Nat) : List Nat :=
  let cfg := s.window.fabricCfg.toNat
  (List.range Config.linkPorts).filter fun p => bitOf cfg (16 + p) && bitsOf cfg (8 + 2 * p) 2 == card

def State.peer (s : State) (card : Nat) : Peer :=
  let ps := (s.portsTo card).map fun p => (s.port p).state
  if ps.contains 1 then .up else if ps.contains 2 then .retraining else .down

end Sys2Proof.Machine
end

