-- ==== Sys2Proof/Machine/Access.lean ====
section
/-!
DEFINITION. Sys2Proof/Machine/Access.lean: accesses by address (R88 to R97, R180 to R186): where each lane's address leads, the
checks of R182 before anything is performed, R118's fates for futures, transactions' sets and buffers (R206, R207), leases and
the waits at a home (R100 to R104), and how the bytes of each place are read and written.
-/

namespace Sys2Proof.Machine

open Sys2Proof

/-! ## Where an address leads -/

/-- What an access does at its address. An atomic with D = c0 returns nothing (R118). -/
inductive AccessKind where
  | load
  | store
  | atomic (returns : Bool)
  | ldf
  | signal
  | cap
deriving DecidableEq, Repr

/-- The permissions that an access needs (R408). -/
def AccessKind.reads : AccessKind → Bool
  | .store | .signal => false
  | _ => true
def AccessKind.writes : AccessKind → Bool
  | .load | .ldf => false
  | _ => true
/-- Whether it may name an aperture (R90). -/
def AccessKind.inApertures : AccessKind → Bool
  | .ldf | .signal | .cap => false
  | _ => true
def AccessKind.isAtomic : AccessKind → Bool
  | .atomic _ => true
  | _ => false
/-- The kind of a fault entry (R415). -/
def AccessKind.faultKind : AccessKind → Nat
  | .load | .ldf => 1
  | .store | .signal => 2
  | .atomic _ | .cap => 3

/-- The place of a lane's access once nothing stands against it. -/
inductive Spot where
  /-- the register aperture and the save slot, by offset -/
  | reg (off : Nat)
  | save (off : Nat)
  /-- a group's scratchpad -/
  | scratch (gk off : Nat)
  | memory (t : Translation) (pa : Nat)
  /-- a register of the device (R411, R459) -/
  | device (place : Nat)
  /-- the lane is switched off (R94) -/
  | off
deriving DecidableEq, Repr

/-- What a lane's access meets: a cause with its rank in the order of R182 (rank 6: not allowed for a member of a transaction), no
resident page, a peer card that is down or that retrains (R433), or nothing. -/
inductive Meet where
  | cause (rank cause sub addr : Nat)
  | absent (type leaf bits : Nat)
  | lost
  | held
  | go (spot : Spot)
deriving DecidableEq, Repr

/-- Where a future's access goes (R118). -/
inductive FutureFate where
  | trunk | own | deferred
  | cause (rank cause : Nat)
deriving DecidableEq, Repr

/-- R118's table, for the accesses a wave makes itself. -/
def futureFate (k : AccessKind) (remote : Bool) (t : Translation) : FutureFate :=
  if !k.writes then .trunk
  else if remote then .cause 3 causeFutRemote
  else if t.repl || t.fut = 0 then .cause 4 causeFutUnversioned
  else if t.fut = 1 then .own
  else
    match k with
    | .atomic true => .cause 5 causeFutEffect
    | .cap => .cause 4 causeFutUnversioned
    | _ => .deferred

/-- The group at a gang position (R15): its key and record, the own group's as the context holds it. -/
def Ctx.gangMember (c : Ctx) (j : Nat) : Option (Nat × Group) :=
  if j = c.g.j then some (c.gk, c.g)
  else
    match c.g.launch with
    | none => none
    | some l => List.find? (fun (x : Nat × Group) => x.2.launch == some l && x.2.gang == c.g.gang && x.2.j == j) c.s.groups

def granuleValid (g : Group) (i : Nat) : Bool := bitOf (Tab.get 0 g.granules i) 0
def granuleLanding (g : Group) (i : Nat) : Bool := bitOf (Tab.get 0 g.granules i) 1

/-- A scratch access of w bytes (R94); `own` says that the lane has buffered all of its bytes (DEDUCED, log entry 113). -/
def scratchSpot (k : AccessKind) (w gk : Nat) (g : Group) (off : Nat) (own : Bool) : Spot :=
  if g.scratchBytes < off + w || granuleLanding g (off / 128) || (k.reads && !granuleValid g (off / 128) && !own) then .off
  else .scratch gk off

/-- Whether a lane's access lies wholly in bytes that the lane itself has buffered in a transaction: it returns those (R206). -/
def Ctx.buffered (c : Ctx) (lane place w : Nat) : Bool :=
  match c.w.tx with
  | some t => (List.range w).all fun i => (t.writes.find? (lane + 32 * (place + i))).isSome
  | none => false

/-- What an access to memory meets behind its translation. -/
def Ctx.meetMemory (c : Ctx) (k : AccessKind) (member : Bool) (ea : Nat) (t : Translation) : Meet :=
  let pa := t.pa ea
  let spot : Spot :=
    match c.s.reach pa, c.s.bar0Offset pa with
    | .window off, _ => .device (windowPlace off)
    | _, some off => .device (bar0Place off)
    | _, none => .memory t pa
  let remote := c.s.remote pa
  let away : Option Meet :=
    match c.s.reach pa with
    | .gddr card _ =>
      if card = c.s.ownCard || k = .store || k = .signal then none
      else
        match c.s.peer card with
        | .up => none
        | .retraining => some .held
        | .down => some .lost
    | _ => none
  let fate := if c.tag = 0 then .trunk else futureFate k remote t
  if k = .cap && t.repl && c.tag = 0 then .cause 1 causeProtection 7 ea
  else if k.writes && !t.write then .cause 1 causeProtection 3 ea
  else if k.reads && !t.read then .cause 1 causeProtection 4 ea
  else
    match (if member && c.tag ≠ 0 && t.page ≠ .ver && !k.writes then FutureFate.cause 6 0 else fate), away, spot with
    | .cause rank x, _, _ => .cause rank x 0 ea
    | .own, _, .device _ => .cause 4 causeFutUnversioned 0 ea
    | .deferred, _, sp => if member then .cause 6 0 0 ea else .go sp
    | _, some m, _ => m
    | _, none, .device p => if member then .cause 6 0 0 ea else .go (.device p)
    | _, none, sp => if member && t.repl then .cause 6 0 0 ea else .go sp

/-- What a lane's access of w bytes at an address meets (R88 to R91, R94, R97, R118, R181). -/
def Ctx.meet (c : Ctx) (k : AccessKind) (w lane : Nat) (member : Bool) (ea : Nat) : Meet :=
  if ea % w ≠ 0 then .cause 0 causeAlign w ea
  else
    match regionOf ea with
    | .outside n => .cause 1 causeProtection n ea
    | .aperture a off =>
      if !k.inApertures then .cause 1 causeProtection 6 ea
      else
        match a with
        | .registers =>
          if k.isAtomic then .cause 1 causeProtection 5 ea
          else if c.w.n ≤ off / 128 then .cause 2 causeRegRange (off / 128) ea
          else .go (.reg off)
        | .save => if k.isAtomic then .cause 1 causeProtection 5 ea else .go (.save off)
        | .scratch => .go (scratchSpot k w c.gk c.g off (member && c.buffered lane (scratchPlace c.gk off) w))
        | .hive =>
          match c.gangMember (off / 0x40000) with
          | some (gk, g) =>
            .go (scratchSpot k w gk g (off % 0x40000) (member && c.buffered lane (scratchPlace gk (off % 0x40000)) w))
          | none => .go .off
    | .memory =>
      match c.s.fill c.g.ctx ea (controllerOf c.g.ctx ea) with
      | .fault type leaf bits => .absent type leaf bits
      | .ok t => c.meetMemory k member ea t

/-! ## The checks of R182 over all lanes -/

/-- The members of the open transaction among the path's lanes; a handler is in none. -/
def Ctx.txLanes (c : Ctx) : LaneMask := if c.w.handler.isSome then 0#32 else c.memberLanes

/-- A lane's access. -/
structure Acc where
  lane : Nat
  ea : Nat
  spot : Spot
  member : Bool
deriving DecidableEq, Repr

/-- Either the instruction's outcome is decided, or it goes on with its accesses. -/
inductive Plan where
  | stop (r : Res)
  | go (c : Ctx) (accs : List Acc)

/-- The lanes whose meeting satisfies p. -/
def lanesWhere (ms : List (Nat × Meet)) (p : Meet → Bool) : LaneMask :=
  ms.foldl (fun m x => if p x.2 then m ||| laneBit x.1 else m) 0#32

def Meet.rankIs (p : Nat → Bool) : Meet → Bool
  | .cause r _ _ _ => p r
  | _ => false

/-- The cause of the lowest rank, and of the lowest lane in it. -/
def firstCause : List (Nat × Meet) → Option (Nat × Nat × Nat × Nat)
  | [] => none
  | (_, .cause r x sub a) :: rest =>
    match firstCause rest with
    | some y => if y.1 < r then some y else some (r, x, sub, a)
    | none => some (r, x, sub, a)
  | _ :: rest => firstCause rest

/-- Member lanes abort with code 6: each with its own address, or all with the lowest's (R207, R213). -/
def Ctx.pageAbort (c : Ctx) (lanes : LaneMask) (addr : Nat → Nat) : Res :=
  let whole := match c.w.tx with | some t => !t.perLane | none => false
  .abort c (c.concerned lanes) 6 (if whole then fun _ => addr (lowestLane lanes) else addr)

/-- The checks of R182 for every lane given, before anything is performed: a trap or an abort, a wait for a page (R97, R415) or for
a peer card, or the accesses. -/
def Ctx.plan (c : Ctx) (k : AccessKind) (w : Nat) (lanes : LaneMask) (addr : Nat → Nat) : Plan :=
  let tx := c.txLanes
  let ms := (lanesOf lanes).map fun l => (l, c.meet k w l (tx.getLsbD l) (addr l))
  let paged := lanesWhere ms (Meet.rankIs fun r => r ≤ 1) &&& tx
  let lost := lanesWhere ms fun m => m == .lost
  let held := lanesWhere ms fun m => m == .held
  let absent := lanesWhere ms fun m => match m with | .absent _ _ _ => true | _ => false
  if paged ≠ 0#32 then .stop (c.pageAbort paged addr)
  else
    match firstCause ms with
    | some (rank, cause, sub, a) =>
      let hit := lanesWhere ms (Meet.rankIs fun r => r == rank)
      if hit &&& tx = 0#32 then .stop (.trap c ⟨cause, sub, a, hit⟩)
      else .stop (.abort c (c.concerned c.act) 10 fun _ => c.p.pc.toNat)
    | none =>
      if lost &&& tx ≠ 0#32 then .stop (c.pageAbort (lost &&& tx) addr)
      else if lost ≠ 0#32 then .stop (.trap c ⟨causePageFault, 2, addr (lowestLane lost), lost⟩)
      else if absent &&& tx ≠ 0#32 then .stop (c.pageAbort (absent &&& tx) addr)
      else if absent ≠ 0#32 then
        let s := ms.foldl (fun (s : State) x =>
          match x.2 with
          | .absent type leaf bits =>
            s.queueFault (faultDie (addr x.1)) c.g.ctx (addr x.1) c.tag k.faultKind type leaf bits (controllerOf c.g.ctx (addr x.1)) (.path c.gk c.wi c.slotB)
          | _ => s) c.s
        .stop (.wait { c with s := s, p := { c.p with faultAt := addr (lowestLane absent) } } .fault)
      else if held ≠ 0#32 || c.s.commitPending c.gk c.wi c.issueMark then .stop (.wait c .memory)
      else
        let accs := ms.filterMap fun x =>
          match x.2 with
          | .go spot => some (⟨x.1, addr x.1, spot, tx.getLsbD x.1⟩ : Acc)
          | _ => none
        let s := accs.foldl (fun (s : State) a => match a.spot with | .memory _ _ => s.keepTranslation c.g.ctx a.ea | _ => s) c.s
        .go { c with s := s } accs

/-- The next check, when the plan still stands. -/
def Plan.andThen (p : Plan) (f : Ctx → List Acc → Plan) : Plan :=
  match p with
  | .stop r => .stop r
  | .go c accs => f c accs

/-- The lanes that the lane-off rule takes (R94). -/
def offLanes (accs : List Acc) : LaneMask := accs.foldl (fun m a => if a.spot = .off then m ||| laneBit a.lane else m) 0#32

/-- The instruction completes; the lanes that fall under R94 are marked in fmask and end (R94, R95). -/
def Ctx.complete (c : Ctx) (accs : List Acc) : Res :=
  let off := offLanes accs
  if off = 0#32 then .done c
  else .leave { c with w := { c.w with fmask := c.w.fmask ||| off } } off 0#32 0 fun _ => 0

/-! ## Places -/

/-- The place that a wave's access to memory means: a future's own version on a VER page, else the trunk (R107, R109, R110). -/
def Ctx.placeFor (c : Ctx) (t : Translation) (pa : Nat) : Nat :=
  if c.tag ≠ 0 && t.page = .ver then memPlace c.tag pa else memPlace 0 pa

/-- The line that a read of a place asks its home for: the trunk's while the future has no version. -/
def State.viewLine (s : State) (place : Nat) : Nat :=
  if placeTag place ≠ 0 && !s.ownVersion (placeTag place) (lineOf place) then lineOf (placePa place) else lineOf place

/-- The byte a wave reads at a memory place: its own posted byte (R185, R421), else its version's or the trunk's (R109). -/
def Ctx.memByte (c : Ctx) (place : Nat) : Byte :=
  let own := placeTag place = 0 || c.s.ownVersion (placeTag place) (lineOf place) ||
    c.s.posted.any fun p => p.g == c.gk && p.w == c.wi && p.bytes.any fun b => b.1 == place
  c.s.waveByte c.die c.gk c.wi (if own then place else memPlace 0 (placePa place))

def Ctx.groupAt (c : Ctx) (gk : Nat) : Option Group := if gk = c.gk then some c.g else c.s.groups.find? gk
def Ctx.setGroup (c : Ctx) (gk : Nat) (g : Group) : Ctx :=
  if gk = c.gk then { c with g := g } else { c with s := { c.s with groups := c.s.groups.set gk g } }

/-- A register of any lane through the register aperture: the scoreboard orders it, so nothing is read early (R91); a dead one reads
its value or 0 (R126). -/
def Ctx.apertureWord (c : Ctx) (n l : Nat) : Word :=
  if (Tab.get 0#32 c.w.dead n).getLsbD l && Config.freeChoice c.s.free (vKey n l * 64 + 63) then 0#32
  else Tab.get 0#32 c.w.v (vKey n l)

/-- The register and the lane that an offset of the register aperture names (R89). -/
def regOfOffset (off : Nat) : Nat × Nat := (off / 128, off % 128 / 4)

/-- The place by which a transaction keeps a byte, for the spots that it buffers (R206). -/
def Ctx.bufferPlace (c : Ctx) : Spot → Option Nat
  | .save off => some (savePlace c.gk c.wi off)
  | .scratch gk off => some (scratchPlace gk off)
  | .memory t pa => some (c.placeFor t pa)
  | _ => none

/-- Byte i of a spot as the wave reads it outside a transaction. -/
def Ctx.spotByte (c : Ctx) (spot : Spot) (i : Nat) : Byte :=
  match spot with
  | .reg off =>
    let (n, l) := regOfOffset (off + i)
    (c.apertureWord n l).extractLsb' (8 * ((off + i) % 4)) 8
  | .save off => Tab.get 0#8 c.w.save (off + i)
  | .scratch gk off =>
    match c.groupAt gk with
    | some g => Tab.get 0#8 g.scratch (off + i)
    | none => 0#8
  | .memory t pa => c.memByte (c.placeFor t pa + i)
  | .device _ | .off => 0#8

/-- What a device register returns. -/
def State.deviceRead (s : State) (place n : Nat) : Nat :=
  if place < 2 ^ 61 + 2 ^ 40 then s.windowRead (place - 2 ^ 61) n else s.bar0Read (place - (2 ^ 61 + 2 ^ 40)) n

/-- The key of a lane's byte or line in a transaction's tables. -/
def txKey (lane x : Nat) : Nat := lane + 32 * x

/-- The w bytes an access reads: a member lane's own buffered bytes first (R206). -/
def Ctx.accBytes (c : Ctx) (a : Acc) (w : Nat) : List Byte :=
  match a.spot with
  | .device place => natBytes w (c.s.deviceRead place w)
  | spot =>
    (List.range w).map fun i =>
      match a.member, c.w.tx, c.bufferPlace spot with
      | true, some t, some place => (t.writes.find? (txKey a.lane (place + i))).getD (c.spotByte spot i)
      | _, _, _ => c.spotByte spot i

/-! ## Waits and interlocks before an access performs -/

/-- The registers that accesses reach through the register aperture, with their lanes. -/
def apertureRegs (accs : List Acc) (w : Nat) : List (Nat × Nat) :=
  accs.foldl (fun rs a =>
    match a.spot with
    | .reg off => (List.range ((w + 3) / 4)).foldl (fun rs j => insertNew (regOfOffset (off + 4 * j)) rs) rs
    | _ => rs) []

/-- The register aperture waits for results in the scoreboard (R91); a read of a poisoned register traps (R362). -/
def Ctx.checkAperture (c : Ctx) (k : AccessKind) (w : Nat) (accs : List Acc) : Plan :=
  let rs := apertureRegs accs w
  if rs.any fun r => c.w.scoreboard.any fun o => o.regs.contains (.v r.1) then .stop (.wait c .scoreboard)
  else
    match (if k = .load && c.w.handler.isNone then
        c.w.poison.find? fun p => rs.any fun r => p.reg == .v r.1 && p.lanes.getLsbD r.2 else none) with
    | some p =>
      let lanes := accs.foldl (fun m a =>
        if (apertureRegs [a] w).any fun r => p.reg == .v r.1 && p.lanes.getLsbD r.2 then m ||| laneBit a.lane else m) 0#32
      .stop (.trap c ⟨causeEcc, p.unit, p.addr, lanes⟩)
    | none => .go c accs

/-- How many lines a set holds, over the whole wave (R206). -/
def setSize (keys : List Nat) : Nat := (keys.foldl (fun ls k => insertNew (k / 32) ls) []).length

/-- The lines of the member lanes' accesses, as set keys. -/
def Ctx.setKeys (c : Ctx) (accs : List Acc) : List Nat :=
  accs.filterMap fun a => if a.member then (c.bufferPlace a.spot).map fun p => txKey a.lane (lineOf p) else none

/-- The accesses enter the read set and the write set (R206); a 65th read line or a 33rd written line aborts every member (R207). -/
def Ctx.enterSets (c : Ctx) (k : AccessKind) (accs : List Acc) : Plan :=
  match c.w.tx with
  | none => .go c accs
  | some t =>
    let keys := c.setKeys accs
    let rl := if k.reads then keys.foldl (fun ls x => insertNew x ls) t.readLines else t.readLines
    let wl := if k.writes then keys.foldl (fun ls x => insertNew x ls) t.writeLines else t.writeLines
    if keys = [] then .go c accs
    else if 64 < setSize rl then .stop (.abort c t.members 3 fun _ => 0)
    else if 32 < setSize wl then .stop (.abort c t.members 4 fun _ => 0)
    else
      let names := accs.foldl (fun (n : Tab Nat) a =>
        match a.member, c.bufferPlace a.spot with
        | true, some p => n.set (txKey a.lane (lineOf p)) (a.ea / 128)
        | _, _ => n) t.names
      .go { c with w := { c.w with tx := some { t with readLines := rl, writeLines := wl, names := names } } } accs

/-- Count the clk that the transaction waits on other parties' caps, per line (R207, R209). -/
def Ctx.countCaps (c : Ctx) (lines : List Nat) : Ctx :=
  match c.w.tx with
  | none => c
  | some t =>
    let t := lines.foldl (fun (t : Tx) n =>
      if capBlocks (c.s.line n) c.gk c.wi then
        let since := (t.capSeen.find? n).getD c.s.clk
        { t with capWaits := t.capWaits.put 0 n (Tab.get 0 t.capWaits n + (c.s.clk - since)), capSeen := t.capSeen.set n c.s.clk }
      else { t with capSeen := t.capSeen.erase n }) t
    { c with w := { c.w with tx := some t } }

/-- Whether the transaction has waited 256 clk on other parties' caps of a line. -/
def Ctx.cappedOut (c : Ctx) (line : Nat) : Bool :=
  match c.w.tx with
  | some t => capBlocks (c.s.line line) c.gk c.wi && 256 ≤ Tab.get 0 t.capWaits line
  | none => false

/-- The lines that reads of memory need, with their pages. -/
def Ctx.readNeeds (c : Ctx) (accs : List Acc) : List (Nat × PageClass) :=
  accs.foldl (fun ls a =>
    match a.spot with
    | .memory t pa => insertNew (c.s.viewLine (c.placeFor t pa), t.page) ls
    | _ => ls) []

/-- The request with which the path waits at a line for a read, or for a write that performs while it waits. -/
def Ctx.readRequest (c : Ctx) : Request := .read c.gk c.wi c.slotB c.issueClk
def Ctx.ownRequest (c : Ctx) : Request := .own c.gk c.wi c.slotB c.issueClk

/-- Whether the wave may read a line through its core's L1 now: the core holds a lease, and a DROPL of the wave has dropped its die's
copy (R199). -/
def Ctx.dropping (c : Ctx) (line : Nat) : Bool :=
  c.s.posted.any fun p => p.g == c.gk && p.w == c.wi && p.back == some (line, true)
def Ctx.readable (c : Ctx) (n : Nat × PageClass) : Bool :=
  !c.dropping n.1 && ((c.s.leased n.1 c.core && !capBlocks (c.s.line n.1) c.gk c.wi) ||
    c.s.readServed n.1 c.core c.gk c.wi n.2 (c.s.firstAt n.1 c.readRequest))

/-- A read's request at one line: served, the core takes a lease and the request is gone; else it waits in its turn, and a line that
another core owns is recalled. -/
def Ctx.askLease (c : Ctx) (s : State) (n : Nat × PageClass) : State :=
  if c.readable n then
    (if s.leased n.1 c.core then s else s.takeLease n.1 c.core c.gk c.wi n.2).unqueue n.1 c.readRequest
  else
    let s := s.enqueue n.1 c.readRequest
    if (s.line n.1).owner.any fun o => o != c.core then s.postOnce (.ownershipRecall n.1) else s

/-- Reads of memory take leases (R100): each line's home serves the request in its turn, and the path waits until all of them are there. A
member lane whose line stays capped aborts (R207). -/
def Ctx.takeLeases (c : Ctx) (accs : List Acc) : Plan :=
  let needs := c.readNeeds accs
  let blocked := needs.filter fun n => !c.readable n
  let c := if c.txLanes = 0#32 then c else c.countCaps (needs.map (·.1))
  let s := needs.foldl c.askLease c.s
  if blocked = [] then .go { c with s := s } accs
  else
    let stuck := accs.foldl (fun m a =>
      match a.spot with
      | .memory t pa => if a.member && c.cappedOut (c.s.viewLine (c.placeFor t pa)) then m ||| laneBit a.lane else m
      | _ => m) 0#32
    if stuck ≠ 0#32 then
      .stop (.abort c (c.concerned stuck) 9 fun l => ((accs.find? fun a => a.lane == l).map fun a => a.ea / 128 * 128).getD 0)
    else .stop (.wait { c with s := s } .memory)

/-- A read of a device register waits until the wave's own writes to registers have performed. -/
def Ctx.checkDevice (c : Ctx) (accs : List Acc) : Plan :=
  let reads := accs.any fun a => match a.spot with | .device _ => true | _ => false
  if reads && c.s.posted.any fun p => p.g == c.gk && p.w == c.wi && p.bytes.any fun b => isDevice b.1 then .stop (.wait c .memory)
  else .go c accs

/-- Whether such a write of the path may perform on a line now: it is its turn, no earlier posted write of the wave to the line is left,
a future's version can be made (R110, R427), and the home serves the write, or the core owns or may own the line for a near atomic
(R103). -/
def Ctx.writable (c : Ctx) (near : Bool) (line : Nat) : Bool :=
  let at_ := c.s.writeLine line
  let clean := !(c.s.posted.any fun p => p.g == c.gk && p.w == c.wi && p.id ≤ c.issueMark && p.bytes.any fun b => lineOf b.1 == line)
  let served :=
    if at_ ≠ line then c.s.versionReady (line / 2 ^ 45) at_
    else if near && (c.s.line line).heat < 2 then c.s.nearServed line c.core c.gk c.wi
    else c.s.writeServed line c.gk c.wi
  clean && (capMine (c.s.line at_) c.gk c.wi || c.s.firstAt at_ c.ownRequest) && served

/-- The lines of accesses that write at once are taken one by one, in ascending order: while one of them is not writable, the path stands
at the head of the queues of those before it, and in the queue of that one (R100, R104). A version that fits nowhere squashes the
future (R111). -/
def Ctx.ownLines (c : Ctx) (near : Bool) (accs : List Acc) : Plan :=
  let lines := accs.foldl (fun (ls : List Nat) a =>
    match a.spot, a.member with
    | .memory t pa, false => insertNew (lineOf (c.placeFor t pa)) ls
    | _, _ => ls) []
  let full := lines.any fun n => n / 2 ^ 45 ≠ 0 && !c.s.ownVersion (n / 2 ^ 45) n && !c.s.versionFits (n % 2 ^ 45)
  let order := (lines.foldl (fun (ls : List Nat) n => insertSorted (c.s.writeLine n) ls) []).map fun at_ =>
    (at_, lines.filter fun n => c.s.writeLine n == at_)
  let ready := order.takeWhile fun x => x.2.all (c.writable near)
  if full then .stop (.gone (c.putPath.squash c.tag 4))
  else if ready.length = order.length then
    .go { c with s := order.foldl (fun (s : State) x => s.unqueue x.1 c.ownRequest) c.s } accs
  else
    let s := (order.take (ready.length + 1)).foldl (fun (s : State) x => s.askLine x.1 c.core c.ownRequest) c.s
    .stop (.wait { c with s := s } .memory)

/-! ## Performing -/

/-- When a lane's plain load performs, by the number of writes performed before it: at any time since the wave's last acquire and since it
last read or wrote one of the bytes (R272, R273, R277). -/
def Ctx.loadTime (c : Ctx) (w lane place : Nat) : Nat :=
  let least := (List.range w).foldl (fun m i => max m (Tab.get 0 c.w.seen (place + i))) c.w.acquired
  c.s.writes - Config.freeNat c.s.free (2 ^ 41 + lane) % (c.s.writes - least + 1)

/-- A byte of memory as of such a time; the wave's own posted bytes, replicas and copies under software management are as they are. -/
def Ctx.pastByte (c : Ctx) (t place : Nat) : Byte :=
  let now := c.memByte place
  let home := if placeTag place = 0 || c.s.ownVersion (placeTag place) (lineOf place) then place else memPlace 0 (placePa place)
  if (c.s.posted.any fun p => p.g == c.gk && p.w == c.wi && p.bytes.any fun b => b.1 == place) ||
      (c.s.lags.any fun r => r.place == home) || (c.s.guestCopies.find? (guestKey c.die home)).isSome then now
  else byteAsOf t home now c.s.past

/-- The w bytes that a plain load of a lane returns, and the same for an access that performs now. A member of a transaction reads what
stands there (R206). -/
def Ctx.loadBytes (c : Ctx) (plain : Bool) (a : Acc) (w : Nat) : List Byte :=
  match a.spot, a.member && c.w.tx.isSome with
  | .memory t pa, false =>
    let place := c.placeFor t pa
    if plain then (List.range w).map fun i => c.pastByte (c.loadTime w a.lane place) (place + i) else c.accBytes a w
  | _, _ => c.accBytes a w

/-- The wave's later loads of the bytes that it has read return nothing older (R277). -/
def Ctx.noteSeen (c : Ctx) (plain : Bool) (w : Nat) (accs : List Acc) : Ctx :=
  let seen := accs.foldl (fun (seen : Tab Nat) a =>
    match a.spot with
    | .memory x pa =>
      let place := c.placeFor x pa
      let time := if plain && !(a.member && c.w.tx.isSome) then c.loadTime w a.lane place else c.s.writes
      (List.range w).foldl (fun (t : Tab Nat) i => t.set (place + i) (max time (Tab.get 0 t (place + i)))) seen
    | _ => seen) c.w.seen
  { c with w := { c.w with seen := seen } }

/-- Record what a member lane reads from storage, as it read it (R206, R209). -/
def Ctx.recordReads (c : Ctx) (w : Nat) (accs : List Acc) : Ctx :=
  match c.w.tx with
  | none => c
  | some t =>
    let t' := accs.foldl (fun (x : Tx) a =>
      match a.member, c.bufferPlace a.spot with
      | true, some place =>
        (List.range w).foldl (fun (x : Tx) i =>
          let key := txKey a.lane (place + i)
          let b := c.spotByte a.spot i
          match x.writes.find? key, x.reads.find? key with
          | some _, _ => x
          | none, some old => if old = b then x else { x with torn := insertNew (txKey a.lane (lineOf place)) x.torn }
          | none, none => { x with reads := x.reads.set key b }) x
      | _, _ => x) t
    { c with w := { c.w with tx := some t' } }

/-- Write bytes into a scratchpad: the first store to a granule clears its other bytes and sets `valid` (R93). -/
def Group.writeScratch (g : Group) (off : Nat) (bytes : List Byte) : Group :=
  let i := off / 128
  let g :=
    if granuleValid g i then g
    else { g with scratch := g.scratch.keep fun k _ => k / 128 ≠ i, granules := g.granules.put 0 i (Tab.get 0 g.granules i + 1) }
  { g with scratch := g.scratch.putAll 0#8 (placed off bytes) }

/-- A word with one of its bytes replaced. -/
def setWordByte (x : Word) (i : Nat) (b : Byte) : Word :=
  (x &&& ~~~(0xFF#32 <<< (8 * i))) ||| (b.setWidth 32 <<< (8 * i))

/-- Write bytes through the register aperture (R91): results that were on their way to the register are older. -/
def Ctx.writeRegs (c : Ctx) (off : Nat) : List Byte → Ctx
  | [] => c
  | b :: rest =>
    let (n, l) := regOfOffset off
    let x := setWordByte (Tab.get 0#32 c.w.v (vKey n l)) (off % 4) b
    let flight := c.p.inflight.map fun e => if e.reg = .v n then { e with lanes := e.lanes &&& ~~~(laneBit l) } else e
    { c with w := c.w.writeV n (laneBit l) fun _ => x, p := { c.p with inflight := flight } }.writeRegs (off + 1) rest

/-- The store of a lane's bytes, in its form of performing: buffered (R206), into an aperture at once, deferred (R116), or posted
(R185, R421). `ordered` marks a release; `first` is how many posted writes stood before the store. -/
def Ctx.storeAcc (c : Ctx) (first : Nat) (a : Acc) (bytes : List Byte) (ordered : Bool) : Ctx :=
  match a.member, c.w.tx, c.bufferPlace a.spot with
  | true, some t, some place =>
    { c with w := { c.w with tx := some { t with writes := (placed place bytes).foldl (fun x b => x.set (txKey a.lane b.1) b.2) t.writes } } }
  | _, _, _ =>
    match a.spot with
    | .reg off => c.writeRegs off bytes
    | .save off => { c with w := c.w.writeSave off bytes }
    | .scratch gk off =>
      match c.groupAt gk with
      | some g => c.setGroup gk (g.writeScratch off bytes)
      | none => c
    | .memory t pa =>
      if c.tag ≠ 0 && t.page ≠ .ver then
        let x := c.s.tag c.tag
        { c with s := c.s.setTag c.tag { x with effects := x.effects ++ [.store a.ea bytes] } }
      else
        { c with s := c.s.postLane first { id := 0, g := c.gk, w := c.wi, core := c.core, tag := c.tag,
                                           bytes := placed (c.placeFor t pa) bytes, ordered := ordered, page := t.page } }
    | .device place =>
      if c.tag ≠ 0 then
        let x := c.s.tag c.tag
        { c with s := c.s.setTag c.tag { x with effects := x.effects ++ [.store a.ea bytes] } }
      else
        { c with s := c.s.postWrite { id := 0, g := c.gk, w := c.wi, core := c.core, tag := 0, bytes := placed place bytes, ordered := true } }
    | .off => c

/-- How many accesses take an entry of the future's deferred-effect queue (R116, R118). -/
def Ctx.deferrals (c : Ctx) (accs : List Acc) : Nat :=
  if c.tag = 0 then 0
  else
    (accs.filter fun a =>
      match a.spot with
      | .memory t _ => !a.member && t.page ≠ .ver
      | .device _ => true
      | _ => false).length

/-- The entry that would be the 257th squashes the future (R116). -/
def Ctx.checkEffects (c : Ctx) (accs : List Acc) : Plan :=
  let n := c.deferrals accs
  if n ≠ 0 && 256 < (c.s.tag c.tag).effects.length + n then .stop (.gone (c.putPath.squash c.tag 3)) else .go c accs

/-- A store of member lanes through the register aperture is a register write under the checkpoint (R91, R205). -/
def Ctx.shadowAperture (c : Ctx) (w : Nat) (accs : List Acc) : Plan :=
  let rs := apertureRegs (accs.filter fun a => a.member) w
  match c.w.tx, rs with
  | none, _ => .go c accs
  | some _, [] => .go c accs
  | some t, _ =>
    let t' := t.shadowed c.w (rs.map fun r => .v r.1)
    if 32 < t'.shadow.length then .stop (.abort c t.members 11 fun _ => 0) else .go { c with w := { c.w with tx := some t' } } accs

/-- The lines of memory that hold an uncorrected error poison what a load or an atomic delivers from them (R362). -/
def Ctx.poisonFrom (c : Ctx) (names : List RegName) (accs : List Acc) : Ctx :=
  accs.foldl (fun (c : Ctx) a =>
    let place : Option Nat := match a.spot with | .memory t pa => some (c.placeFor t pa) | .scratch gk off => some (scratchPlace gk off) | _ => none
    match place.bind fun p => (c.s.health.poisonedLines.find? (lineOf p)).map fun unit => (p, unit) with
    | some (p, unit) =>
      let s := c.s.errorRecord { kind := 2, va := a.ea, pa := if isScratch p then 0 else placePa p, ctx := c.g.ctx, tag := c.tag,
                                 value0 := c.s.health.trapped, die := c.die, unit := coreOfGroup c.gk % Config.coresPerDie, source := unit }
      { c with s := s, w := { c.w with poison := c.w.poison ++ names.map fun r =>
          (⟨r, match r with | .v _ => laneBit a.lane | _ => 0xFFFFFFFF#32, unit, a.ea⟩ : Poison) } }
    | none => c) c

end Sys2Proof.Machine
end

