-- ==== Sys2Proof/Machine/LoadStore.lean ====
section
/-!
DEFINITION. Sys2Proof/Machine/LoadStore.lean: the loads and stores of row 0x6 (R183 to R186).
-/

namespace Sys2Proof.Machine

open Sys2Proof

/-- The lanes that an access acts for: those of S, or λ alone under a k destination (R184, R192). -/
def Ctx.accessLanes (c : Ctx) (d : Reg) : LaneMask :=
  match d with
  | .k _ => if c.S = 0#32 then 0#32 else laneBit (lowestLane c.S)
  | _ => c.S

/-- The registers a destination names, as the scoreboard does. -/
def destNames (d : Reg) (n : Nat) : List RegName :=
  match d with
  | .v b => (List.range n).map fun j => .v (b.val + j)
  | .k b => (List.range n).map fun j => .k (b.val + j)
  | .c _ => []

/-- Write a loaded value of w bytes, extended by zeros or by its sign, in the lanes given. -/
def Ctx.putLoaded (c : Ctx) (d : Reg) (w : Nat) (signed : Bool) (lanes : LaneMask) (f : Nat → Nat) : Ctx :=
  if w ≤ 4 then c.put d lanes fun l => if signed then BitVec.ofInt 32 (signedOf (8 * w) (f l)) else BitVec.ofNat 32 (f l)
  else (List.range (w / 4)).foldl (fun (x : Ctx) j => x.putAt d j lanes fun l => BitVec.ofNat 32 (bitsOf (f l) (32 * j) 32)) c

/-- What each access reads, by lane. -/
def Ctx.loadedValues (c : Ctx) (plain : Bool) (w : Nat) (accs : List Acc) : List (Nat × Nat) :=
  accs.filterMap fun a => if a.spot = .off then none else some (a.lane, bytesNat (c.loadBytes plain a w))

/-- The value of a lane in such a list. -/
def valueOf (xs : List (Nat × Nat)) (l : Nat) : Nat := ((xs.find? fun x => x.1 == l).map (·.2)).getD 0

/-- Perform the loads of an instruction (R184): values are read, the destination written, the read set kept. Behind an acquire, later
loads perform later (R186). -/
def Ctx.performLoad (c : Ctx) (w : Nat) (signed acquire : Bool) (d : Reg) (accs : List Acc) : Res :=
  let xs := c.loadedValues (!acquire) w accs
  let lanes := accs.foldl (fun m a => m ||| laneBit a.lane) 0#32 &&& ~~~(offLanes accs)
  let c' := ((if acquire then c.acquire else c.noteSeen true w accs).recordReads w accs).putLoaded d w signed lanes (valueOf xs)
  (c'.poisonFrom (destNames d (max 1 (w / 4))) accs).complete accs

/-- A load of w bytes (R183, R184), plain or an acquire. With `release`, the load is also a release and waits for the wave's earlier
accesses (R186); inside a transaction the order is ignored (R200). -/
def Ctx.load (c : Ctx) (w : Nat) (signed acquire release : Bool) (d a b : Reg) : Res :=
  let lanes := c.accessLanes d
  if lanes = 0#32 then .done c
  else if release && lanes &&& ~~~c.txLanes ≠ 0#32 && !c.settled then .wait c .fence
  else
    match ((((c.plan .load w lanes (c.address a b)).andThen (fun c accs => c.checkAperture .load w accs)).andThen
        (fun c accs => c.checkDevice accs)).andThen (fun c accs => c.enterSets .load accs)).andThen (fun c accs => c.takeLeases accs) with
    | .stop r => r
    | .go c accs => c.performLoad w signed (acquire && lanes &&& ~~~c.txLanes ≠ 0#32) d accs

/-- The data of a store in a lane: the low w bytes of D (R183). -/
def Ctx.storeData (c : Ctx) (d : Reg) (w l : Nat) : List Byte :=
  match w with
  | 16 => (List.range 4).flatMap fun j => natBytes 4 (c.valAt d j l).toNat
  | 8 => natBytes 8 (c.val64 d l).toNat
  | w => natBytes w (c.val d l).toNat

/-- Mark the posted writes of one store that write all of their line (R440). -/
def State.markWhole (s : State) (first : Nat) : State :=
  let full (p : PostedWrite) : Bool := (p.bytes.foldl (fun l b => insertNew b.1 l) []).length == 128
  { s with posted := s.posted.take first ++ (s.posted.drop first).map fun p => if full p then { p with whole := true } else p }

/-- Perform the stores of an instruction, in ascending lane order (R184). -/
def Ctx.performStore (c : Ctx) (w : Nat) (ordered : Bool) (d : Reg) (accs : List Acc) : Res :=
  let x := accs.foldl (fun (x : Ctx) a => x.storeAcc c.s.posted.length a (c.storeData d w a.lane) ordered) c
  ({ x with s := x.s.markWhole c.s.posted.length }).complete accs

/-- Whether some of the accesses write a scratchpad, a save slot or registers at once. -/
def anyAperture (accs : List Acc) : Bool :=
  accs.any fun a => !a.member && match a.spot with | .scratch _ _ | .save _ | .reg _ => true | _ => false

/-- A release to an aperture waits for the wave's earlier accesses, since it performs at once (R90, R186). -/
def Ctx.releaseAperture (c : Ctx) (release : Bool) (accs : List Acc) : Plan :=
  if release && anyAperture accs && !c.settled then .stop (.wait c .fence) else .go c accs

/-- A store of w bytes (R183, R184); `release` marks the release stores (R186). -/
def Ctx.store (c : Ctx) (w : Nat) (release : Bool) (d a b : Reg) : Res :=
  if c.S = 0#32 then .done c
  else
    match (((((c.plan .store w c.S (c.address a b)).andThen (fun c accs => c.checkAperture .store w accs)).andThen
        (fun c accs => c.releaseAperture release accs)).andThen (fun c accs => c.checkEffects accs)).andThen
        (fun c accs => c.enterSets .store accs)).andThen (fun c accs => c.shadowAperture w accs) with
    | .stop r => r
    | .go c accs => c.performStore w release d accs

/-- Perform at once the stores of a release that is also an acquire. -/
def Ctx.performNow (c : Ctx) (w : Nat) (d : Reg) (accs : List Acc) : Res :=
  (accs.foldl (fun (x : Ctx) a =>
    match a.spot, a.member with
    | .memory t pa, false =>
      if c.tag ≠ 0 && t.page ≠ .ver then x.storeAcc c.s.posted.length a (c.storeData d w a.lane) true
      else
        let place := c.placeFor t pa
        let bytes := placed place (c.storeData d w a.lane)
        let s := x.s.fresh
        if placeTag place = 0 && t.page = .plain && s.softLine (lineOf place) && homeDie (lineOf place) ≠ c.die then
          { x with s := s.writeGuest c.die bytes }
        else
          let s := if placeTag place = 0 then s else s.createVersion (placeTag place) (lineOf place)
          { x with s := (s.performWrite s.serial c.gk c.wi t.page bytes).refreshGuest c.die bytes }
    | _, _ => x.storeAcc c.s.posted.length a (c.storeData d w a.lane) true) c).acquire.complete accs

/-- A release store with order `ar` is an acquire as well: its own access is performed before later ones, so the path waits for
the wave's earlier accesses and for the lines' homes (R186). -/
def Ctx.storeAcquire (c : Ctx) (w : Nat) (d a b : Reg) : Res :=
  if c.S = 0#32 then .done c
  else if c.S &&& ~~~c.txLanes ≠ 0#32 && !c.settled then .wait c .fence
  else
    match (((((c.plan .store w c.S (c.address a b)).andThen (fun c accs => c.checkAperture .store w accs)).andThen
        (fun c accs => c.checkEffects accs)).andThen (fun c accs => c.enterSets .store accs)).andThen
        (fun c accs => c.shadowAperture w accs)).andThen (fun c accs => c.ownLines false accs) with
    | .stop r => r
    | .go c accs => c.performNow w d accs

/-- LD8 (0x60). -/
def execLd8 (d a b : Reg) (s : State) : Host.Outcome State Fault Refusal :=
  issue (.ld8 d a b) anyType s fun c => c.load 1 false false false d a b
/-- LD8S (0x61). -/
def execLd8s (d a b : Reg) (s : State) : Host.Outcome State Fault Refusal :=
  issue (.ld8s d a b) anyType s fun c => c.load 1 true false false d a b
/-- LD16 (0x62). -/
def execLd16 (d a b : Reg) (s : State) : Host.Outcome State Fault Refusal :=
  issue (.ld16 d a b) anyType s fun c => c.load 2 false false false d a b
/-- LD16S (0x63). -/
def execLd16s (d a b : Reg) (s : State) : Host.Outcome State Fault Refusal :=
  issue (.ld16s d a b) anyType s fun c => c.load 2 true false false d a b
/-- LD32 (0x64). -/
def execLd32 (d a b : Reg) (s : State) : Host.Outcome State Fault Refusal :=
  issue (.ld32 d a b) anyType s fun c => c.load 4 false false false d a b
/-- LD64 (0x65). -/
def execLd64 (d a b : Reg) (s : State) : Host.Outcome State Fault Refusal :=
  issue (.ld64 d a b) anyType s fun c => c.load 8 false false false d a b
/-- LD128 (0x66). -/
def execLd128 (d a b : Reg) (s : State) : Host.Outcome State Fault Refusal :=
  issue (.ld128 d a b) anyType s fun c => c.load 16 false false false d a b
/-- LDA32 (0x67): an acquire. -/
def execLda32 (d a b : Reg) (s : State) : Host.Outcome State Fault Refusal :=
  issue (.lda32 d a b) anyType s fun c => c.load 4 false true (modeOrder c.mode == 3) d a b
/-- LDA64 (0x68). -/
def execLda64 (d a b : Reg) (s : State) : Host.Outcome State Fault Refusal :=
  issue (.lda64 d a b) anyType s fun c => c.load 8 false true (modeOrder c.mode == 3) d a b
/-- ST8 (0x69). -/
def execSt8 (d a b : Reg) (s : State) : Host.Outcome State Fault Refusal :=
  issue (.st8 d a b) anyType s fun c => c.store 1 false d a b
/-- ST16 (0x6A). -/
def execSt16 (d a b : Reg) (s : State) : Host.Outcome State Fault Refusal :=
  issue (.st16 d a b) anyType s fun c => c.store 2 false d a b
/-- ST32 (0x6B). -/
def execSt32 (d a b : Reg) (s : State) : Host.Outcome State Fault Refusal :=
  issue (.st32 d a b) anyType s fun c => c.store 4 false d a b
/-- ST64 (0x6C). -/
def execSt64 (d a b : Reg) (s : State) : Host.Outcome State Fault Refusal :=
  issue (.st64 d a b) anyType s fun c => c.store 8 false d a b
/-- ST128 (0x6D). -/
def execSt128 (d a b : Reg) (s : State) : Host.Outcome State Fault Refusal :=
  issue (.st128 d a b) anyType s fun c => c.store 16 false d a b
/-- STR32 (0x6E). -/
def execStr32 (d a b : Reg) (s : State) : Host.Outcome State Fault Refusal :=
  issue (.str32 d a b) anyType s fun c => if modeOrder c.mode = 3 then c.storeAcquire 4 d a b else c.store 4 true d a b
/-- STR64 (0x6F). -/
def execStr64 (d a b : Reg) (s : State) : Host.Outcome State Fault Refusal :=
  issue (.str64 d a b) anyType s fun c => if modeOrder c.mode = 3 then c.storeAcquire 8 d a b else c.store 8 true d a b

end Sys2Proof.Machine
end

