-- ==== Sys2Proof/Machine/Atomics.lean ====
section
/-!
DEFINITION. Sys2Proof/Machine/Atomics.lean: the atomics of row 0x7 (R190 to R193).
-/

namespace Sys2Proof.Machine

open Sys2Proof

/-- The operations of 0x71 to 0x79 (R190). -/
inductive AtomicOp where
  | add | min | max | and | or | xor | xchg | cas | inc
deriving DecidableEq, Repr

/-- Their numbers in a deferred effect. -/
def AtomicOp.code : AtomicOp → Nat
  | .add => 0x71
  | .min => 0x72
  | .max => 0x73
  | .and => 0x74
  | .or => 0x75
  | .xor => 0x76
  | .xchg => 0x77
  | .cas => 0x78
  | .inc => 0x79

/-- The legal types: the four integer scalars, and f32, f16x2 and bf16x2 for AADD (R190). -/
def atomicType (add : Bool) (m : ModeImage) : Bool :=
  let t := modeType m
  (6 ≤ t && t ≤ 9) || (add && (t == 0 || t == 0x0A || t == 0x0B))

/-- The rounding of a float AADD: rsr acts as rne, `sat` is ignored (R191). -/
def atomicRounding (round : Nat) (ftz : Bool) : Rounding := ⟨if 5 ≤ round then 0 else round, false, ftz, none⟩

/-- Float AADD, element by element (R191). -/
def atomicFloatAdd (type round : Nat) (ftz : Bool) (old b : Nat) : Nat :=
  let el := elemOf type
  let w := el.width
  let f (e : Nat) : Nat := addElem el (atomicRounding round ftz) (elemAt w old e) (elemAt w b e) 0
  (List.range (elementCount type)).foldr (fun e x => f e + 2 ^ w * x) 0

/-- The new value at the address (R190, R191), from the old one, B, and D as it was before. -/
def AtomicOp.new (op : AtomicOp) (type round : Nat) (ftz : Bool) (old b d : Nat) : Nat :=
  let n := if type64 type then 64 else 32
  let signed := type == 6 || type == 8
  let le (x y : Nat) : Bool := if signed then signedOf n x ≤ signedOf n y else x ≤ y
  match op with
  | .add => if type = 0 ∨ type = 0x0A ∨ type = 0x0B then atomicFloatAdd type round ftz old b else (old + b) % 2 ^ n
  | .min => if le old b then old else b
  | .max => if le b old then old else b
  | .and => old &&& b
  | .or => old ||| b
  | .xor => old ^^^ b
  | .xchg => b
  | .cas => if old = d then b else old
  | .inc => if b ≤ old then 0 else old + 1

/-- The operands of an atomic in a lane, as numbers of its width. -/
structure AtomicArgs where
  op : AtomicOp
  type : Nat
  round : Nat
  ftz : Bool
  w : Nat
deriving DecidableEq, Repr

/-- One lane's atomic at storage that no home serves: the transaction's buffer or a scratchpad. -/
def Ctx.atomicLocal (c : Ctx) (x : AtomicArgs) (a : Acc) (b d : Nat) : Ctx × Nat :=
  let old := bytesNat (c.accBytes a x.w)
  let new := x.op.new x.type x.round x.ftz old b d
  ((c.recordReads x.w [a]).storeAcc c.s.posted.length a (natBytes x.w new) false, old)

/-- What a core's near atomics replace in a line that it owns, or comes to own (R290, R397). -/
def State.noteNear (s : State) (line core : Nat) (bytes : List (Nat × Byte)) : State :=
  let old := if (s.line line).owner = some core then s.nearOld else s.nearOld.keep fun k _ => lineOf k ≠ line
  { s with nearOld := bytes.foldl (fun t b => if (t.find? b.1).isSome then t else t.set b.1 (s.byteAt b.1)) old }

/-- One lane's atomic at a line's home or in the L1 that comes to own it (R103); on a REPL page at the home (R193). -/
def Ctx.atomicHome (c : Ctx) (x : AtomicArgs) (t : Translation) (pa : Nat) (b d : Nat) : Ctx × Nat :=
  let place := c.placeFor t pa
  let line := lineOf place
  let s := c.s.fresh
  let s := if placeTag place = 0 then s else s.createVersion (placeTag place) line
  let old := bytesNat ((List.range x.w).map fun i => s.byteAt (place + i))
  let bytes := placed place (natBytes x.w (x.op.new x.type x.round x.ftz old b d))
  let near := (s.line line).heat < 2 && !s.bypassed line
  let s := if near then s.noteNear line c.core bytes else s
  let s := s.performWrite s.serial c.gk c.wi t.page bytes
  let s := if near then s.setLine line { s.line line with owner := some c.core } else s
  ({ c with s := s.refreshGuest c.die bytes,
            w := { c.w with seen := bytes.foldl (fun t b => t.set b.1 s.writes) c.w.seen } }, old)

/-- One lane's atomic (R192). A deferred one returns nothing (R118). A register of the device takes no atomic: nothing is written,
and what is returned is not stated. -/
def Ctx.atomicAcc (c : Ctx) (x : AtomicArgs) (a : Acc) (b d : DWord) : Ctx × Nat :=
  match a.spot, a.member with
  | .memory t pa, false =>
    if c.tag ≠ 0 && t.page ≠ .ver then
      let y := c.s.tag c.tag
      ({ c with s := c.s.setTag c.tag { y with effects := y.effects ++ [.atomic x.op.code x.type x.ftz x.round a.ea b d] } }, 0)
    else c.atomicHome x t pa b.toNat d.toNat
  | .device place, _ => (c, (Config.freeWord c.s.free place).toNat)
  | .off, _ => (c, 0)
  | _, _ => c.atomicLocal x a b.toNat d.toNat

/-- The lanes of an atomic in ascending order, each seeing the ones before it (R192); what each returned. -/
def Ctx.atomicLanes (c : Ctx) (x : AtomicArgs) (dv bv : Nat → Nat) : List Acc → Ctx × List (Nat × Nat)
  | [] => (c, [])
  | a :: rest =>
    let (c, old) := c.atomicAcc x a (BitVec.ofNat 64 (bv a.lane)) (BitVec.ofNat 64 (dv a.lane))
    let (c, xs) := c.atomicLanes x dv bv rest
    (c, (a.lane, old) :: xs)

/-- Perform an atomic: operands are read, the lanes act, D takes the old values. -/
def Ctx.performAtomic (c : Ctx) (x : AtomicArgs) (acquire : Bool) (d b : Reg) (accs : List Acc) : Res :=
  let bv (l : Nat) : Nat := c.valT x.type b l
  let dv (l : Nat) : Nat := c.valT x.type d l
  let (c', xs) := c.atomicLanes x dv bv accs
  let c' := if acquire then c'.acquire else c'
  let lanes := accs.foldl (fun m a => m ||| laneBit a.lane) 0#32 &&& ~~~(offLanes accs)
  ((c'.putT x.type d lanes (valueOf xs)).poisonFrom (destNames d (x.w / 4)) accs).complete accs

/-- An atomic (R190, R192, R193): a release waits for the wave's earlier accesses; lines are owned, or their homes serve the write,
before any lane acts. -/
def Ctx.atomic (c : Ctx) (op : AtomicOp) (d a b : Reg) : Res :=
  let m := c.mode
  let x : AtomicArgs := ⟨op, modeType m, modeRound m, modeFtz m, if type64 (modeType m) then 8 else 4⟩
  let lanes := c.accessLanes d
  let kind : AccessKind := .atomic (match d with | .c _ => false | _ => true)
  if lanes = 0#32 then .done c
  else if 2 ≤ modeOrder m && lanes &&& ~~~c.txLanes ≠ 0#32 && !c.settled then .wait c .fence
  else
    match ((((c.plan kind x.w lanes (c.address1 a)).andThen (fun c accs => c.checkEffects accs)).andThen
        (fun c accs => c.enterSets kind accs)).andThen (fun c accs => c.ownLines true accs)).andThen
        (fun c accs =>
          match c.takeLeases (accs.filter fun a => a.member) with
          | .stop r => .stop r
          | .go c _ => .go c accs) with
    | .stop r => r
    | .go c accs => c.performAtomic x (modeOrder m == 1 || modeOrder m == 3) d b accs

/-- AADD (0x71). -/
def execAadd (d a b : Reg) (s : State) : Host.Outcome State Fault Refusal :=
  issue (.aadd d a b) (atomicType true) s fun c => c.atomic .add d a b
/-- AMIN (0x72). -/
def execAmin (d a b : Reg) (s : State) : Host.Outcome State Fault Refusal :=
  issue (.amin d a b) (atomicType false) s fun c => c.atomic .min d a b
/-- AMAX (0x73). -/
def execAmax (d a b : Reg) (s : State) : Host.Outcome State Fault Refusal :=
  issue (.amax d a b) (atomicType false) s fun c => c.atomic .max d a b
/-- AAND (0x74). -/
def execAand (d a b : Reg) (s : State) : Host.Outcome State Fault Refusal :=
  issue (.aand d a b) (atomicType false) s fun c => c.atomic .and d a b
/-- AOR (0x75). -/
def execAor (d a b : Reg) (s : State) : Host.Outcome State Fault Refusal :=
  issue (.aor d a b) (atomicType false) s fun c => c.atomic .or d a b
/-- AXOR (0x76). -/
def execAxor (d a b : Reg) (s : State) : Host.Outcome State Fault Refusal :=
  issue (.axor d a b) (atomicType false) s fun c => c.atomic .xor d a b
/-- AXCHG (0x77). -/
def execAxchg (d a b : Reg) (s : State) : Host.Outcome State Fault Refusal :=
  issue (.axchg d a b) (atomicType false) s fun c => c.atomic .xchg d a b
/-- ACAS (0x78). -/
def execAcas (d a b : Reg) (s : State) : Host.Outcome State Fault Refusal :=
  issue (.acas d a b) (atomicType false) s fun c => c.atomic .cas d a b
/-- AINC (0x79). -/
def execAinc (d a b : Reg) (s : State) : Host.Outcome State Fault Refusal :=
  issue (.ainc d a b) (atomicType false) s fun c => c.atomic .inc d a b

end Sys2Proof.Machine
end

