-- ==== Sys2Proof/Machine/Integer.lean ====
section
/-!
DEFINITION. Sys2Proof/Machine/Integer.lean: the integer arithmetic of opcode row 0x1 (R153).
-/

namespace Sys2Proof.Machine

open Sys2Proof

/-- A three-register integer instruction: in each lane of S, D receives a word computed from A, B and D (R153). -/
def intOp (i : Instr) (d a b : Reg) (f : Word → Word → Word → Word) (s : State) : Host.Outcome State Fault Refusal :=
  issue i anyType s fun c => .done (c.put d c.S fun l => f (c.val a l) (c.val b l) (c.val d l))

/-- The word IMULHI gives: bits [63:32] of the signed product. -/
def mulHighSigned (a b : Word) : Word := (a.signExtend 64 * b.signExtend 64).extractLsb' 32 32
/-- The word NMULHI gives: bits [63:32] of the unsigned product. -/
def mulHigh (a b : Word) : Word := (a.setWidth 64 * b.setWidth 64).extractLsb' 32 32
/-- A shift count is taken modulo 32. -/
def shiftCount (b : Word) : Nat := b.toNat % 32

/-- IADD (0x10): (a + b) mod 2^32 (R153). -/
def execIadd (d a b : Reg) (s : State) : Host.Outcome State Fault Refusal :=
  intOp (.iadd d a b) d a b (fun a b _ => a + b) s

/-- ISUB (0x11): (a − b) mod 2^32 (R153). -/
def execIsub (d a b : Reg) (s : State) : Host.Outcome State Fault Refusal :=
  intOp (.isub d a b) d a b (fun a b _ => a - b) s

/-- IMUL (0x12): (a × b) mod 2^32 (R153). -/
def execImul (d a b : Reg) (s : State) : Host.Outcome State Fault Refusal :=
  intOp (.imul d a b) d a b (fun a b _ => a * b) s

/-- IMULHI (0x13) (R153). -/
def execImulhi (d a b : Reg) (s : State) : Host.Outcome State Fault Refusal :=
  intOp (.imulhi d a b) d a b (fun a b _ => mulHighSigned a b) s

/-- NMULHI (0x14) (R153). -/
def execNmulhi (d a b : Reg) (s : State) : Host.Outcome State Fault Refusal :=
  intOp (.nmulhi d a b) d a b (fun a b _ => mulHigh a b) s

/-- IMAD (0x15): (a × b + D) mod 2^32 (R153). -/
def execImad (d a b : Reg) (s : State) : Host.Outcome State Fault Refusal :=
  intOp (.imad d a b) d a b (fun a b d => a * b + d) s

/-- SHL (0x16) (R153). -/
def execShl (d a b : Reg) (s : State) : Host.Outcome State Fault Refusal :=
  intOp (.shl d a b) d a b (fun a b _ => a <<< shiftCount b) s

/-- SHR (0x17) (R153). -/
def execShr (d a b : Reg) (s : State) : Host.Outcome State Fault Refusal :=
  intOp (.shr d a b) d a b (fun a b _ => a >>> shiftCount b) s

/-- SAR (0x18) (R153). -/
def execSar (d a b : Reg) (s : State) : Host.Outcome State Fault Refusal :=
  intOp (.sar d a b) d a b (fun a b _ => a.sshiftRight (shiftCount b)) s

/-- AND (0x19) (R153). -/
def execAndW (d a b : Reg) (s : State) : Host.Outcome State Fault Refusal :=
  intOp (.andW d a b) d a b (fun a b _ => a &&& b) s

/-- OR (0x1A) (R153). -/
def execOrW (d a b : Reg) (s : State) : Host.Outcome State Fault Refusal :=
  intOp (.orW d a b) d a b (fun a b _ => a ||| b) s

/-- XOR (0x1B) (R153). -/
def execXorW (d a b : Reg) (s : State) : Host.Outcome State Fault Refusal :=
  intOp (.xorW d a b) d a b (fun a b _ => a ^^^ b) s

/-- IMIN (0x1C): the smaller, signed (R153). -/
def execImin (d a b : Reg) (s : State) : Host.Outcome State Fault Refusal :=
  intOp (.imin d a b) d a b (fun a b _ => if a.sle b then a else b) s

/-- IMAX (0x1D): the larger, signed (R153). -/
def execImax (d a b : Reg) (s : State) : Host.Outcome State Fault Refusal :=
  intOp (.imax d a b) d a b (fun a b _ => if a.sle b then b else a) s

/-- NMIN (0x1E): the smaller, unsigned (R153). -/
def execNmin (d a b : Reg) (s : State) : Host.Outcome State Fault Refusal :=
  intOp (.nmin d a b) d a b (fun a b _ => if a.ule b then a else b) s

/-- NMAX (0x1F): the larger, unsigned (R153). -/
def execNmax (d a b : Reg) (s : State) : Host.Outcome State Fault Refusal :=
  intOp (.nmax d a b) d a b (fun a b _ => if a.ule b then b else a) s

end Sys2Proof.Machine
end

