-- ==== Sys2Proof/Machine/BitOps.lean ====
section
/-!
DEFINITION. Sys2Proof/Machine/BitOps.lean: bits and 64-bit arithmetic, opcodes 0x20 to 0x27 (R154, R155).
-/

namespace Sys2Proof.Machine

open Sys2Proof

/-- The number of 1 bits. -/
def popCount (a : Word) : Word := BitVec.ofNat 32 (lanesOf a).length

/-- The number of leading 0 bits; 32 for 0. -/
def leadingZeros (a : Word) : Word :=
  BitVec.ofNat 32 (match (lanesOf a).getLast? with | some i => 31 - i | none => 32)

/-- Bit i becomes bit 31 − i. -/
def bitReverse (a : Word) : Word := laneSet fun i => a.getLsbD (31 - i)

/-- The position and the width of a bit field (R155). -/
def fieldPos (b : Word) : Nat := (b.extractLsb' 0 5).toNat
def fieldWidth (b : Word) : Nat := (b.extractLsb' 5 5).toNat + 1

/-- BFX: the field, cut at bit 31 (R155). -/
def bitField (a b : Word) : Word := BitVec.ofNat 32 (a.toNat / 2 ^ fieldPos b % 2 ^ fieldWidth b)

/-- The mask of a field (R155). -/
def fieldMask (b : Word) : Word := BitVec.ofNat 32 ((2 ^ fieldWidth b - 1) * 2 ^ fieldPos b)

/-- BFI: the field inserted into d, cut at bit 31 (R155). -/
def insertField (a b d : Word) : Word := (d &&& ~~~fieldMask b) ||| ((a <<< fieldPos b) &&& fieldMask b)

/-- A 64-bit instruction on pairs: in each lane of S, the pair D receives a value (R154). -/
def pairOp (i : Instr) (d : Reg) (f : Ctx → Nat → DWord) (s : State) : Host.Outcome State Fault Refusal :=
  issue i anyType s fun c => .done (c.put64 d c.S (f c))

/-- POPC (0x20, R154). -/
def execPopc (d a : Reg) (s : State) : Host.Outcome State Fault Refusal :=
  intOp (.popc d a) d a (.c 0) (fun a _ _ => popCount a) s

/-- CLZ (0x21, R154). -/
def execClz (d a : Reg) (s : State) : Host.Outcome State Fault Refusal :=
  intOp (.clz d a) d a (.c 0) (fun a _ _ => leadingZeros a) s

/-- BREV (0x22, R154). -/
def execBrev (d a : Reg) (s : State) : Host.Outcome State Fault Refusal :=
  intOp (.brev d a) d a (.c 0) (fun a _ _ => bitReverse a) s

/-- BFX (0x23, R155). -/
def execBfx (d a b : Reg) (s : State) : Host.Outcome State Fault Refusal :=
  intOp (.bfx d a b) d a b (fun a b _ => bitField a b) s

/-- BFI (0x24, R155); D is also read. -/
def execBfi (d a b : Reg) (s : State) : Host.Outcome State Fault Refusal :=
  intOp (.bfi d a b) d a b insertField s

/-- ADD64 (0x25): (A + B) mod 2^64 (R154). -/
def execAdd64 (d a b : Reg) (s : State) : Host.Outcome State Fault Refusal :=
  pairOp (.add64 d a b) d (fun c l => c.val64 a l + c.val64 b l) s

/-- SUB64 (0x26): (A − B) mod 2^64 (R154). -/
def execSub64 (d a b : Reg) (s : State) : Host.Outcome State Fault Refusal :=
  pairOp (.sub64 d a b) d (fun c l => c.val64 a l - c.val64 b l) s

/-- MAD64 (0x27): (D + a × b) mod 2^64, a and b unsigned 32-bit (R154). -/
def execMad64 (d a b : Reg) (s : State) : Host.Outcome State Fault Refusal :=
  pairOp (.mad64 d a b) d (fun c l => c.val64 d l + (c.val a l).setWidth 64 * (c.val b l).setWidth 64) s

end Sys2Proof.Machine
end

