-- ==== Sys2Proof/Machine/Handler.lean ====
section
/-!
DEFINITION. Sys2Proof/Machine/Handler.lean: what Kamvin's standard trap handler does for each cause (R148, R152, R189, R360, R361).
-/

namespace Sys2Proof.Machine

open Sys2Proof

/-- Whether the path stands at the entry of the standard handler, in handler mode. -/
def Ctx.atStandardHandler (c : Ctx) : Bool :=
  match c.w.handler with
  | none => false
  | some h =>
    h.slotB == c.slotB && (c.s.die c.die).trapbase == Config.standardHandler && c.p.pc.toNat == (c.s.handlerImage c.die).2.2

/-- An entry in the error log of the queue that dispatched the group's launch: its first bytes hold the group's linear index (R361). -/
def Ctx.logCause (c : Ctx) (code sub : Nat) : State :=
  match c.g.launch.bind fun l => c.s.launches.find? l with
  | some l => c.s.logError l.queue (c.g.linear % 2 ^ 32) 0 code sub (c.w.frameBits 0 96 64)
  | none => c.s

/-- A fail (R361): the context is reset; while a debugger is attached the group halts with the cause kept; a firmware core parks. -/
def Ctx.fails (c : Ctx) : State :=
  if c.firmware then c.putPath.failFirmware c.die
  else if (c.s.context c.g.ctx).attached then
    ({ c with w := c.w.markHalted }.putPath.stopRecord c.gk c.wi).haltGroup c.gk 3 (some c.wi)
  else ({ c with s := c.logCause 15 (c.w.frameBits 0 160 8) }.putPath).resetContext c.g.ctx 4

/-- The standard action for the cause in the frame (R360): a missed deadline waits for the wave's copies; a lost peer and a software trap are
logged, and the wave goes on at the frame's PC or behind it; everything else fails. -/
def Ctx.standardAction (c : Ctx) : State :=
  let cause := c.w.frameBits 0 160 8
  let sub := c.w.frameBits 0 168 8
  if cause = causeDeadlineMiss then if Tab.get 0 c.w.counts 0 = 0 then c.leaveHandler else c.waits .engine
  else if cause = causeFencePeerLost then { c with s := c.logCause 17 sub }.leaveHandler
  else if cause = causeSwTrap then
    { c with s := c.logCause 14 sub, w := c.w.writeSave 0 (natBytes 4 (nextOffset (c.w.frameBits 0 0 32) false)) }.leaveHandler
  else c.fails

end Sys2Proof.Machine
end

