-- ==== Sys2Proof/Machine/Fetch.lean ====
section
/-!
DEFINITION. Sys2Proof/Machine/Fetch.lean: fetching an instruction: the comb that a PC lies in, the causes a word meets before it
is an instruction (R121 to R123, R138 items 1 to 5), fetch faults (R408, R415), and the causes that wait for a path (R216, R363,
R321).
-/

namespace Sys2Proof.Machine

open Sys2Proof

/-- What a fetch gives: an instruction that issues, or a state in which the path has trapped, waits or is not there. -/
inductive Fetched where
  | run (s : State) (i : Instr)
  | stop (s : State)
deriving DecidableEq, Repr

/-- The state in which a path of wave (g, w) issues a word at its PC. -/
def State.withIssue (s : State) (g w : Nat) (slotB : Bool) (word ctl literal : Word) (pc : Nat) : State :=
  { s with cur := some { g := g, w := w, slotB := slotB, word := word, code := slotCode ctl (slotOf pc), slot := slotOf pc,
                         literal := literal, next := BitVec.ofNat 32 (nextOffset pc (isLdlit word)), yieldHint := ctlYield ctl } }

/-- The cause that a word meets before its operands are looked at, in the order of R138. `fresh` says that it is the first
instruction that the path executes in its comb. -/
def wordCause (privileged fresh : Bool) (word ctl : Word) (slot : Nat) : Option (Nat × Nat) :=
  match decodeWord word with
  | .illegalOp => some (causeIllegalOp, 0)
  | d =>
    if privilegedWord word && !privileged then some (causePriv, 0)
    else if fresh && ctlReserved ctl then some (causeReservedField, 2)
    else
      match d with
      | .reservedField n => some (causeReservedField, n)
      | _ =>
        if isLdlit word && slot < 7 && slotCode ctl (slot + 1) != 0#4 then some (causeReservedField, 3)
        else if isLdlit word && slot == 7 then some (causeIllegalOperand, 4)
        else none

/-- A cause that waits for the path. -/
def Ctx.raiseWaiting (c : Ctx) (cause sub addr : Nat) : State :=
  { c with p := { c.p with raises := none } }.raise ⟨cause, sub, addr, c.act⟩

/-- Whether the path holds lanes whose transaction an uncorrectable error has aborted, and the trap that comes before their first
instruction: its frame records the try depth at the error (R216). -/
def Ctx.errorWaits (c : Ctx) : Option TxError :=
  match c.w.txError with
  | some e => if c.act &&& e.lanes ≠ 0#32 && c.w.handler.isNone then some e else none
  | none => none
def Ctx.raiseError (c : Ctx) (e : TxError) : State :=
  { c with w := { c.w with txError := none } }.takeFrame { c.frame ⟨causeEcc, e.sub, e.addr, c.act⟩ c.p.pc.toNat with depth := e.depth }

/-- A cause of a fetch: a trap, or inside a transaction an abort with code 10 (R207). -/
def Ctx.raiseFetch (c : Ctx) (t : Trap) : State :=
  if c.memberLanes = 0#32 || c.w.handler.isSome then c.takeTrap t else c.abortNow (c.concerned c.act) 10 c.p.pc.toNat

/-- The page of the instruction cannot be fetched: it is not resident, and the path waits on its fault entry, or it has no
translation or no permission (R97, R408, R415). No aperture holds code. -/
def Ctx.fetchFault (c : Ctx) (va : Nat) : Option State :=
  match regionOf va with
  | .outside n => some (c.raiseFetch ⟨causeProtection, n, va, c.act⟩)
  | .aperture _ _ => some (c.raiseFetch ⟨causeProtection, 6, va, c.act⟩)
  | .memory =>
    match c.s.fill c.codeAsid va (controllerOf c.codeAsid va) with
    | .ok t => if t.read then none else some (c.raiseFetch ⟨causeProtection, 4, va, c.act⟩)
    | .fault type leaf bits =>
      let s := c.s.queueFault (faultDie va) c.codeAsid va c.g.tag 4 type leaf bits (controllerOf c.codeAsid va) (.path c.gk c.wi c.slotB)
      some ({ c with s := s }.waits .fault)

/-- A fault whose service failed: the path traps PAGE_FAULT at the instruction that waited, with the result and the address
(R363, R418). -/
def Ctx.raiseFailed (c : Ctx) (r : FaultResult) : State := c.raiseFetch ⟨causePageFault, r.sub, r.addr, c.act⟩

/-- The state in which the path has latched the word at its PC, its comb's control word and the word behind it. -/
def Ctx.latch (c : Ctx) : State :=
  let pc := c.p.pc.toNat
  let base := c.code.base
  c.s.withIssue c.gk c.wi c.slotB (c.s.codeWord c.codeAsid (base + pc)) (c.s.codeWord c.codeAsid (base + combOf pc))
    (c.s.codeWord c.codeAsid (base + pc + 4)) pc

/-- The cause of the word that the path has latched. -/
def Ctx.latchedCause (c : Ctx) : Option (Nat × Nat) :=
  let pc := c.p.pc.toNat
  wordCause c.privileged (c.p.comb != some (BitVec.ofNat 32 (combOf pc))) c.cur.word
    (c.s.codeWord c.codeAsid (c.code.base + combOf pc)) (slotOf pc)

/-- The group's first instruction starts it, and its launch with it (R342, R352). -/
def State.noteStart (s : State) (gk : Nat) : State :=
  match s.groups.find? gk with
  | none => s
  | some g =>
    if g.first.isSome then s
    else
      let s := { s with groups := s.groups.set gk { g with first := some s.clk } }
      match g.launch with
      | none => s
      | some l =>
        { s with launches := s.launches.mapVals fun k (x : Launch) =>
            if k = l && x.tally.started.isNone then { x with tally := { x.tally with started := some s.clk } } else x }

/-- The instruction that a path issues, once its word is latched: first what waits for the path, then the fetch's own faults, then
the word's causes. The standard handler acts at its entry. -/
def Ctx.issues (c : Ctx) : Fetched :=
  match c.p.raises, c.errorWaits, c.s.faultResults.find? fun r => r.g == c.gk && r.w == c.wi && r.slotB == c.slotB with
  | some (cause, sub, addr), _, _ => .stop (c.raiseWaiting cause sub addr)
  | none, some e, _ => .stop (c.raiseError e)
  | none, none, some r => .stop ({ c with s := { c.s with faultResults := c.s.faultResults.erase r } }.raiseFailed r)
  | none, none, none =>
    if c.atStandardHandler then .stop c.standardAction
    else
    match c.fetchFault ((c.code.base + c.p.pc.toNat) % 2 ^ 64) with
    | some s' => .stop s'
    | none =>
      match c.latchedCause, decodeWord c.cur.word with
      | none, .ok i => .run (c.s.noteStart c.gk) i
      | some (cause, sub), _ => .stop (c.raise ⟨cause, sub, 0, c.act⟩)
      | none, _ => .stop c.s

/-- The path of slot `slotB` of wave (g, w) with the word at its PC latched. -/
def State.pathCtx? (s : State) (g w : Nat) (slotB : Bool) : Option Ctx :=
  match (s.withIssue g w slotB 0#32 0#32 0#32 0).ctx? with
  | none => none
  | some c => c.latch.ctx?

/-- The path of slot `slotB` of wave (g, w) fetches and issues the word at its PC. -/
def State.fetch (s : State) (g w : Nat) (slotB : Bool) : Fetched :=
  match s.pathCtx? g w slotB with
  | none => .stop (s.tick 1)
  | some c => c.issues

/-! ## Which path issues -/

/-- How many waves of a core have issued in this clk: at most four do (R3, R39). -/
def State.issuedOn (s : State) (core : Nat) : Nat :=
  s.groups.foldl (fun n (x : Nat × Group) =>
    if coreOfGroup x.1 = core then x.2.waves.foldl (fun n w => if w.issuedAt = s.clk + 1 then n + 1 else n) n else n) 0

/-- Whether the governor holds a core's rows 0x4 and 0x5 for the rest of its 64-clk window (R446): the clk in which it may issue them have
passed. -/
def State.vectorHeld (s : State) (core : Nat) : Bool :=
  (s.vectorUse core).held (Tab.get {} s.power (core / Config.coresPerDie)).vectorCap s.clk

/-- The word at a path's PC. -/
def State.wordOf (s : State) (g : Group) (w : Wave) (p : Path) : Word :=
  match w.handler with
  | some h => s.codeWord 0 (h.base + p.pc.toNat)
  | none => s.codeWord g.ctx (g.code.base + p.pc.toNat)

/-- Whether the wave's other slot holds a path back: it stands at a bad entry, which traps first (R92, R321), or it waits for a replayable
fault, with which the whole wave waits (R182). -/
def Wave.holdsBack (w : Wave) (slotB : Bool) (p : Path) : Bool :=
  match w.slot (!slotB), w.handler with
  | some o, none => (o.raises.isSome && p.raises.isNone) || (o.wait == .fault && p.wait != .fault)
  | _, _ => false

/-- Whether a path may issue now: it is there, its group is not halted, in handler mode it is the handler's slot (R357), its
slot's pace is over (R125), its wave has not issued in this clk (R28), and its core has an issue slot left (R39). A firmware core that has
parked after a double trap issues nothing (R388). -/
def State.mayIssue (s : State) (gk : Nat) (g : Group) (w : Wave) (slotB : Bool) : Bool :=
  match w.slot slotB with
  | none => false
  | some p =>
    !g.halted && !g.saving && p.readyAt ≤ s.clk && w.pace slotB ≤ s.clk && w.issuedAt ≤ s.clk &&
      (match w.handler with | some h => h.slotB == slotB | none => true) && !w.holdsBack slotB p &&
      !(coreOfGroup gk % Config.coresPerDie == 0 && (s.die (dieOfGroup gk)).failed) &&
      decide (s.issuedOn (coreOfGroup gk) < 4) &&
      !(s.vectorHeld (coreOfGroup gk) && vectorWord (s.wordOf g w p))

/-- Whether a slot gives way to the wave's other slot: when both may issue, the one that issued last comes second (R28). A path that only
looks at what it waits for has had its turn of the clk when it waits on, and the other slot issues. -/
def State.givesWay (s : State) (gk : Nat) (g : Group) (w : Wave) (slotB : Bool) : Bool :=
  w.lastB == slotB && s.mayIssue gk g w (!slotB)

/-- The slots of a wave that may issue now. -/
def State.readySlots (s : State) (gk : Nat) (g : Group) (w : Wave) : List Bool :=
  [false, true].filter fun b => s.mayIssue gk g w b && !s.givesWay gk g w b

/-- The picker's rank of a path (R39, R124): those that have been ready for 64 clk come first, those that yield last; then the group that
got its core first, and its waves by number. -/
def State.rank (s : State) (g : Group) (w : Wave) (slotB : Bool) : Nat × Nat :=
  match w.slot slotB with
  | none => (3, 0)
  | some p =>
    (if max p.readyAt (w.pace slotB) + 64 ≤ s.clk then 0 else if w.yields slotB then 2 else 1, g.born)

/-- The paths of a group that may issue now, with their ranks. -/
def State.readyOf (s : State) (gk : Nat) (g : Group) : List ((Nat × Nat) × Nat × Nat × Bool) :=
  (List.range g.waves.length).foldr (fun wi acc =>
    match g.waves[wi]? with
    | none => acc
    | some w => ((s.readySlots gk g w).map fun b => (s.rank g w b, gk, wi, b)) ++ acc) []

/-- All paths that may issue now. -/
def State.ready (s : State) : List ((Nat × Nat) × Nat × Nat × Bool) := s.groups.foldr (fun x acc => s.readyOf x.1 x.2 ++ acc) []

/-- The first of some paths by rank; of equal ranks the one that stands first. -/
def firstRank : List ((Nat × Nat) × Nat × Nat × Bool) → Option ((Nat × Nat) × Nat × Nat × Bool)
  | [] => none
  | x :: r =>
    match firstRank r with
    | none => some x
    | some y => some (if y.1.1 < x.1.1 || (y.1.1 == x.1.1 && y.1.2 < x.1.2) then y else x)

/-- The core whose picker goes next among those with a path that may issue: the cores of the device are in no order. -/
def State.pickCore (s : State) (cores : List Nat) : Option Nat :=
  match cores with
  | [] => none
  | [x] => some x
  | _ => cores[Config.freeNat s.free s.picker % cores.length]?

/-- The path that an issue picker takes: the first by rank of those that may issue on its core (R39). -/
def State.choose (s : State) : Option (Nat × Nat × Bool) :=
  let xs := s.ready
  let cores := xs.foldl (fun (cs : List Nat) x => insertNew (coreOfGroup x.2.1) cs) []
  match s.pickCore cores with
  | none => none
  | some core => (firstRank (xs.filter fun x => coreOfGroup x.2.1 == core)).map fun x => x.2

/-- A turn of a path, when it may issue. -/
def State.turn (s : State) (gk wi : Nat) (slotB : Bool) : Fetched :=
  match s.groups.find? gk with
  | none => .stop (s.tick 1)
  | some g =>
    match g.waves[wi]? with
    | none => .stop (s.tick 1)
    | some w => if s.mayIssue gk g w slotB then s.fetch gk wi slotB else .stop (s.tick 1)

/-- The picker's turn: a path issues, or a clk passes. -/
def State.pickTurn (s : State) : Fetched :=
  match s.choose with
  | none => .stop (s.tick 1)
  | some (gk, wi, slotB) => { s with picker := s.picker + 1 }.turn gk wi slotB

/-- A turn in which n clk are to pass before the rest of the agenda moves: in each of them paths issue. -/
def State.idleTurn (s : State) (n : Nat) (rest : List Turn) : Fetched :=
  match s.choose with
  | none => .stop ({ s with agenda := if n ≤ 1 then rest else .idle (n - 1) :: rest }.tick 1)
  | some (gk, wi, slotB) => { s with agenda := .idle n :: rest, picker := s.picker + 1 }.turn gk wi slotB

end Sys2Proof.Machine
end

