-- ==== Sys2Proof/Machine/Placement.lean ====
section
/-!
DEFINITION. Sys2Proof/Machine/Placement.lean: what a group takes of a core (R17), where a gang fits (R353), which gang is placed next
(R352), and how its groups start (R12, R16, R25, R27, R151).
-/

namespace Sys2Proof.Machine

open Sys2Proof

/-! ## Resources (R17) -/

/-- What the groups of a core hold, or what one group of a launch takes: waves, groups, bytes of the unified store, accumulator tiles,
matrix macros. -/
structure CoreUse where
  waves : Nat := 0
  groups : Nat := 0
  store : Nat := 0
  tiles : Nat := 0
  macros : Nat := 0
deriving DecidableEq, Repr

def CoreUse.plus (a b : CoreUse) : CoreUse := ⟨a.waves + b.waves, a.groups + b.groups, a.store + b.store, a.tiles + b.tiles, a.macros + b.macros⟩
/-- Whether the use lies within a core's limits. -/
def CoreUse.fits (a : CoreUse) : Bool := a.waves ≤ 48 && a.groups ≤ 16 && a.store ≤ 655360 && a.tiles ≤ 64 && a.macros ≤ 16

/-- Waves of a group of L lanes (R12). -/
def wavesFor (lanes : Nat) : Nat := ceilDiv lanes 32

/-- What one group of a launch is charged. -/
def LaunchRecord.charge (r : LaunchRecord) : CoreUse :=
  let w := wavesFor r.lanes
  ⟨w, 1, w * r.regs * 128 + roundUp r.scratch 4096, w * r.acc, r.macros⟩

/-- What a resident group holds; its windows as GROW and SHRINK have left them (R319). -/
def Group.holds (g : Group) : CoreUse :=
  ⟨g.waves.length, 1, g.waves.foldl (fun n w => n + 128 * w.n) (roundUp g.scratchBytes 4096), g.waves.length * g.accTiles, g.macros.length⟩

/-- What the groups of a core hold together. -/
def State.coreUse (s : State) (core : Nat) : CoreUse :=
  s.groups.foldl (fun u (x : Nat × Group) => if coreOfGroup x.1 = core then u.plus x.2.holds else u) {}

/-- A multiple of a use. -/
def CoreUse.times (a : CoreUse) (n : Nat) : CoreUse := ⟨a.waves * n, a.groups * n, a.store * n, a.tiles * n, a.macros * n⟩

/-- Whether a user core may take groups: it is enabled in its die's `schedmask` (R384). Core 0 of a die is the firmware's (R1). -/
def State.enabled (s : State) (core : Nat) : Bool :=
  core % Config.coresPerDie ≠ 0 && (s.die (dieOfCore core)).schedmask.getLsbD (core % Config.coresPerDie)

/-- Whether a core has room for one more group of a launch, beside those that `taken` has already given it; `empty` looks at the core
as if nothing were resident (R22). -/
def State.room (s : State) (empty : Bool) (r : LaunchRecord) (taken : List Nat) (core : Nat) : Bool :=
  let base := if empty then {} else s.coreUse core
  s.enabled core && (base.plus (r.charge.times (taken.count core + 1))).fits

/-! ## Where a gang fits (R353) -/

/-- The first n cores of a hive that have room, when there are n. -/
def State.hiveCores (s : State) (empty : Bool) (r : LaunchRecord) (taken : List Nat) (n hive : Nat) : Option (List Nat) :=
  let cs := (((List.range 4).map fun i => hive * 4 + i).filter (s.room empty r taken)).take n
  if cs.length = n then some cs else none

/-- The dies in the order of the scan, starting after die d. -/
def dieOrder (d : Nat) : List Nat := (List.range 4).map fun i => (d + 1 + i) % 4

/-- The hives in the order of the scan. -/
def hiveOrder (last : Nat) : List Nat := (dieOrder last).flatMap fun d => (List.range 6).map fun h => d * 6 + h

/-- The cores of the groups of a gang, given by their linear indices: the first hive in which as many cores as a gang has groups have room;
gang position j goes to the j-th of them. -/
def State.findCores (s : State) (empty : Bool) (r : LaunchRecord) (taken groups : List Nat) (last : Nat) : Option (List Nat) :=
  ((hiveOrder last).findSome? fun hive => s.hiveCores empty r taken r.gang hive).map fun cs => groups.map fun g => cs.getD (g % r.gang) 0

/-- The cores for several gangs in turn, with the die of the last one; none when one of them does not fit. -/
def State.findAll (s : State) (empty : Bool) (r : LaunchRecord) : List (List Nat) → List Nat → Nat → Option (List (List Nat) × Nat)
  | [], _, last => some ([], last)
  | groups :: rest, taken, last =>
    match s.findCores empty r taken groups last with
    | none => none
    | some cs =>
      match s.findAll empty r rest (taken ++ cs) (dieOfCore (cs.headD 0)) with
      | none => none
      | some (xs, d) => some (cs :: xs, d)

/-! ## A group starts -/

/-- The lanes of wave w of a group of L lanes (R12). -/
def startLanes (lanes w : Nat) : LaneMask := lanesBelow (lanes - 32 * w)

/-- A wave at its start (R25, R27, R72, R93, R150, R315), or at its restart (R151). -/
def startWave (r : LaunchRecord) (params w clk writes : Nat) (again : Option Restart) : Wave :=
  let lanes := startLanes r.lanes w
  let pc := match again with | some x => x.idemPc | none => BitVec.ofNat 32 r.entry
  { lanes := lanes, live := lanes, n := r.regs,
    k := (Tab.put 0#32 [] 0 (BitVec.ofNat 32 params)).put 0#32 1 (BitVec.ofNat 32 (params / 2 ^ 32)),
    slotA := some { pc := pc, mask := lanes, mode := modeStart, readyAt := clk },
    idemIn := again.isSome,
    idemId := match again with | some x => x.idemId | none => 0#24,
    idemPc := match again with | some x => x.idemPc | none => 0#32,
    acquired := writes,
    pacecheck := r.pacecheck }

/-- A group of a launch at its start: its coordinates (R13), its place in its gang (R14), its waves, which read
nothing older than what has been performed now (R288) and start once their banks are awake (R318). -/
def startGroup (id : Nat) (l : Launch) (gang linear clk wake writes : Nat) (again : List Restart) : Group :=
  let r := l.record
  { ctx := l.ctx, tag := l.tag, launch := some id, gang := gang, linear := linear,
    gidX := linear % r.gridX, gidY := linear / r.gridX % r.gridY, gidZ := linear / (r.gridX * r.gridY),
    gridX := r.gridX, gridY := r.gridY, gridZ := r.gridZ,
    j := linear % r.gang, gangSize := r.gang, lanes := r.lanes, window := r.regs, scratchBytes := r.scratch, accTiles := r.acc,
    code := ⟨r.codeBase, r.codeLen⟩, born := clk,
    macros := List.replicate r.macros {},
    waves := (List.range (wavesFor r.lanes)).map fun w =>
      startWave r l.params w (clk + wake) writes (again.find? fun x => x.linear == linear && x.wave == w) }

/-- The lowest free group slot of a core. -/
def State.freeSlot (s : State) (core : Nat) : Nat :=
  ((List.range Config.groupSlots).find? fun i => (s.groups.find? (core * Config.groupSlots + i)).isNone).getD 0

/-- Start one group on a core. -/
def State.startOn (s : State) (id : Nat) (l : Launch) (gang linear core : Nat) (again : List Restart) : State :=
  let key := core * Config.groupSlots + s.freeSlot core
  ({ s with groups := s.groups.set key (startGroup id l gang linear s.clk (s.bankWake core l.record.regs) s.writes again) }.wakeBanks core l.record.regs).startSamples l.ctx core

/-- Place a gang on cores, all its groups in one act (R16). -/
def State.placeGang (s : State) (gid : Nat) (x : Gang) (cores : List Nat) : State :=
  match s.launches.find? x.launch with
  | none => s
  | some l =>
    let s := (x.groups.zip cores).foldl (fun (s : State) p => s.startOn x.launch l x.index p.1 p.2 x.restarts) s
    let q := s.queue l.queue
    { s.setQueue l.queue { q with gangs := q.gangs.erase gid } with
      gangs := s.gangs.set gid { x with placed := true, restarts := [], evicted := false, evictAge := 0 } }

/-! ## Which gang is next (R352) -/

/-- The first gang of a queue, when it waits for placement. -/
def State.waitingGang (s : State) (q : Nat) : Option (Nat × Gang) :=
  match (s.queue q).gangs with
  | [] => none
  | g :: _ =>
    match s.gangs.find? g with
    | some x => if s.gangWaits x then some (g, x) else none
    | none => none

/-- The gangs that are placed together: all waiting gangs of a co-resident grid, else the one (R22). -/
def State.placedWith (s : State) (g : Nat) (x : Gang) : List (Nat × Gang) :=
  match s.launches.find? x.launch with
  | some l =>
    if l.record.coresident then
      (s.queue l.queue).gangs.filterMap fun k =>
        match s.gangs.find? k with
        | some y => if y.launch = x.launch then some (k, y) else none
        | none => none
    else [(g, x)]
  | none => [(g, x)]

/-- The queues of a level with a gang that waits, from the visit that is next: after the queue visited last, wrapping. -/
def State.visitOrder (s : State) (level : Nat) : List Nat :=
  let qs := (List.range 256).filter fun q => (s.queue q).level == level && (s.waitingGang q).isSome
  let from_ := Tab.get 0 s.visits level
  (qs.filter fun q => from_ ≤ q) ++ qs.filter fun q => q < from_

/-- Visits that a queue needs before its deficit is positive, the placing visit included. -/
def Queue.visitsNeeded (q : Queue) : Nat :=
  if 0 < q.deficit then 1 else (-q.deficit).toNat / q.quantum.toNat + 1

/-- The deficit after n visits: a quantum is added while it is not positive. -/
def Queue.visited (q : Queue) : Nat → Queue
  | 0 => q
  | n + 1 => (if q.deficit ≤ 0 then { q with deficit := q.deficit + q.quantum.toNat } else q).visited n

/-- The level that places: the highest with a waiting gang (R352). -/
def State.placingLevel (s : State) : Option Nat := (List.range 4).find? fun l => s.visitOrder l ≠ []

/-- Every queue of the round is visited up to the placing visit of queue q in round n. -/
def State.visitUpTo (s : State) (qs : List Nat) (q n : Nat) : State :=
  let before := qs.takeWhile fun x => x ≠ q
  qs.foldl (fun (s : State) x =>
    s.setQueue x ((s.queue x).visited (if x = q ∨ before.contains x then n else n - 1))) s

/-- Whether a context holds user cores. -/
def State.holdsCores (s : State) (ctx : Nat) : Bool := s.heldLevels ctx ≠ []

/-- A pre-emption ends when its context has no resident gang (R369). -/
def State.endPreemptions (s : State) : State :=
  { s with contexts := s.contexts.mapVals fun i (c : Context) =>
      if c.preempting && !s.holdsCores i then { c with preempting := false, preemptAge := 0, d1Done := false } else c }

/-- Whether a saved group is one of a gang. -/
def SavedGroup.ofGang (y : SavedGroup) (x : Gang) : Bool := y.group.launch == some x.launch && y.group.gang == x.index

/-- Whether groups of a gang are saved and may be restored: its context's placement is not stopped (R370). -/
def State.gangSaved (s : State) (x : Gang) : Bool :=
  match s.launches.find? x.launch with
  | some l =>
    let c := s.context l.ctx
    !c.stopped && c.saved.any fun y => y.ofGang x
  | none => false

/-- The front end looks for gangs to place: the step of each queue's first waiting gang is due. -/
def State.kick (s : State) : State :=
  let s := s.endPreemptions.applyOffsets
  let s := s.queues.foldl (fun (s : State) (x : Nat × Queue) =>
    match s.waitingGang x.1 with
    | some (g, _) => s.postOnce (.gangPlacement g)
    | none => s) s
  let s := s.gangs.foldl (fun (s : State) (x : Nat × Gang) => if s.gangSaved x.2 then s.postOnce (.gangPlacement x.1) else s) s
  s.contexts.foldl (fun (s : State) (x : Nat × Context) =>
    if x.2.slice ≠ 0#32 && !x.2.stopped && s.competitors x.1 ≠ [] then s.postOnce (.sliceExpiry x.1) else s) s

/-- A context whose slice was ended for a competitor is placed again once that competitor's gang has been placed (R369). -/
def State.endSlices (s : State) (ctx : Nat) : State :=
  { s with contexts := s.contexts.mapVals fun _ (c : Context) =>
      if c.sliceFor.contains ctx then { c with stopped := false, sliceFor := [] } else c }

end Sys2Proof.Machine
end

