-- ==== Sys2Proof/Machine/Launches.lean ====
section
/-!
DEFINITION. Sys2Proof/Machine/Launches.lean: launch records and their checks (R339 to R341, R460), launches and their ends (R337, R342),
nodes of a graph run: launch, retirement, fork and join (R345 to R348, R233).
-/

namespace Sys2Proof.Machine

open Sys2Proof

/-! ## Launch records -/

/-- The record that 128 bytes hold (R339). More than 16 successors count as a reserved bit. -/
def parseRecord (x : Nat) : LaunchRecord :=
  let f (lo n : Nat) : Nat := bitsOf x lo n
  { codeBase := f 0 64, codeLen := f 64 32, entry := f 96 32, gridX := f 128 32, gridY := f 160 16, gridZ := f 176 16,
    lanes := f 192 11, gang := f 203 3, regs := f 206 8, acc := f 214 5, macros := f 219 5, scratch := f 224 32,
    teamTable := f 256 64, teamCount := f 320 9, coresident := bitOf x 329, pacecheck := bitOf x 330, early := bitOf x 352,
    fork := bitOf x 353, join := bitOf x 354, deadlineEn := bitOf x 355, devLaunch := bitOf x 356, fence := f 360 4,
    futures := f 364 4, head := f 368 1, param := f 384 64, paramStride := f 448 32, deadline := f 480 32,
    completion := f 512 64, predInit := f 576 16,
    succ := ((List.range 16).map fun i => f (640 + 16 * i) 12).take (f 592 5),
    reserved := f 331 21 ≠ 0 || f 357 3 ≠ 0 || f 369 15 ≠ 0 || f 597 43 ≠ 0 || f 896 128 ≠ 0 || 16 < f 592 5 ||
      (List.range 16).any fun i => f (652 + 16 * i) 4 ≠ 0,
    graphBits := f 352 5 ≠ 0 || f 364 5 ≠ 0 || f 448 64 ≠ 0 || f 576 21 ≠ 0 || f 640 256 ≠ 0 }

/-- Whether one gang fits an empty hive with as many enabled cores as the gang has groups (R340). -/
def State.placeable (s : State) (r : LaunchRecord) : Bool :=
  (List.range 24).any fun hive => (s.hiveCores true r [] r.gang hive).isSome

/-- The lowest sub-code of R340 that fails. -/
def State.recordFault (s : State) (ctx : Nat) (packet : Bool) (r : LaunchRecord) : Option Nat :=
  if r.codeBase % 32 ≠ 0 || r.codeLen % 32 ≠ 0 || !s.targetLegal ctx ⟨r.codeBase, r.codeLen⟩ r.entry then some 1
  else if r.gridX = 0 || 2 ^ 31 ≤ r.gridX || r.gridY = 0 || r.gridZ = 0 then some 2
  else if r.lanes = 0 || 1024 < r.lanes || r.gang = 0 || 4 < r.gang then some 3
  else if r.regs < 8 || 192 < r.regs || r.regs % 8 ≠ 0 then some 4
  else if 16 < r.acc || 16 < r.macros || 262144 < r.scratch then some 5
  else if !s.placeable r then some 6
  else if r.reserved || (packet && r.graphBits) then some 7
  else if 256 < r.teamCount then some 8
  else if (r.fork && r.futures = 0) || (r.fork && r.join) || (r.deadlineEn && !r.join) then some 9
  else none

/-- Groups of a grid. -/
def LaunchRecord.groups (r : LaunchRecord) : Nat := r.gridX * r.gridY * r.gridZ

/-- The member lists of the entries of a team table: 8 bytes for each member (R341). -/
def State.readMembers (s : State) (who : Waiter) (ctx : Nat) : List (List Byte) → Got (List (List Nat))
  | [] => .ok []
  | e :: rest =>
    let n := bytesNat ((e.drop 8).take 4)
    match s.frontRead who ctx (bytesNat (e.take 8)) (8 * n) with
    | .waits s' => .waits s'
    | .fails c a => .fails c a
    | .ok bytes =>
      match s.readMembers who ctx rest with
      | .ok ts => .ok (((List.range n).map fun i => bytesNat ((bytes.drop (8 * i)).take 8)) :: ts)
      | r => r

/-- The team table of a launch: the members of each entry as 64-bit words. -/
def State.readTeams (s : State) (who : Waiter) (ctx : Nat) (r : LaunchRecord) : Got (List (List Nat)) :=
  match s.frontRead who ctx r.teamTable (16 * r.teamCount) with
  | .waits s' => .waits s'
  | .fails c a => .fails c a
  | .ok bytes => s.readMembers who ctx ((List.range r.teamCount).map fun i => (bytes.drop (16 * i)).take 16)

/-- A member: group linear index and wave index. -/
def memberOf (x : Nat) : Nat × Nat := (bitsOf x 0 48, bitsOf x 48 5)

/-- The sub-code of the first fault of a team table (R19): a wave in more than four teams, a member outside the launch, an empty
entry. -/
def teamFault (r : LaunchRecord) (ts : List (List Nat)) : Option Nat :=
  let sets := ts.map fun t => t.foldl (fun (m : List Nat) x => insertNew x m) []
  let all := sets.flatten
  if all.any fun x => 4 < all.count x then some 1
  else if all.any fun x => x / 2 ^ 53 ≠ 0 || wavesFor r.lanes ≤ (memberOf x).2 || r.groups ≤ (memberOf x).1 then some 2
  else if ts.any fun t => t = [] then some 3
  else none

/-- Whether a team's members lie in more than one gang (R22). -/
def spansGangs (r : LaunchRecord) (t : List Nat) : Bool :=
  match t with
  | [] => false
  | x :: rest => rest.any fun y => (memberOf y).1 / r.gang ≠ (memberOf x).1 / r.gang

/-- How many gangs a grid has, and how many groups gang k holds (R14). -/
def LaunchRecord.gangs (r : LaunchRecord) : Nat := ceilDiv r.groups r.gang
def LaunchRecord.gangGroups (r : LaunchRecord) (k : Nat) : List Nat :=
  (List.range (min r.gang (r.groups - k * r.gang))).map fun i => k * r.gang + i

/-- What the checks of a launch give (R460): its teams, a rejection with code, sub-code and detail address, or a wait. -/
inductive Checked where
  | ok (teams : List Team)
  | waits (s : State)
  | bad (code sub addr : Nat)

def State.checkLaunch (s : State) (who : Waiter) (ctx : Nat) (packet : Bool) (r : LaunchRecord) : Checked :=
  match s.recordFault ctx packet r with
  | some n => .bad 4 n 0
  | none =>
    match s.readTeams who ctx r with
    | .waits s' => .waits s'
    | .fails _ a => .bad 13 0 a
    | .ok ts =>
      match teamFault r ts with
      | some n => .bad 5 n 0
      | none =>
        if !r.coresident && ts.any (spansGangs r) then .bad 6 0 0
        else if r.coresident &&
            (s.findAll true r ((List.range r.gangs).map r.gangGroups) [] s.lastDie).isNone then .bad 7 0 0
        else .ok (ts.map fun t => { members := (t.map memberOf).foldl (fun (m : List (Nat × Nat)) x => insertNew x m) [] })

/-! ## Launches -/

/-- A packet completes: it leaves its queue. -/
def State.packetDone (s : State) (q mark : Nat) : State :=
  let x := s.queue q
  s.setQueue q { x with pending := x.pending.filter fun p => p.1 ≠ mark }

/-- A launch is dispatched: its gangs join its queue in order (R334). -/
def State.createLaunch (s : State) (l : Launch) : State :=
  let id := s.serial
  let n := l.record.gangs
  let gids := (List.range n).map fun k => id + 1 + k
  let s := { s with
    serial := id + 1 + n
    launches := s.launches.set id { l with gangs := gids }
    gangs := (List.range n).foldl (fun (t : Tab Gang) k =>
      t.set (id + 1 + k) { launch := id, index := k, groups := l.record.gangGroups k }) s.gangs }
  let q := s.queue l.queue
  (s.setQueue l.queue { q with gangs := q.gangs ++ gids }).kick

/-- A launch that is over before it began: its completion record is written with a signal and a code (R337). -/
def State.endAtOnce (s : State) (l : Launch) (signal code : Nat) : State :=
  let id := s.serial
  { s with serial := id + 1, launches := s.launches.set id { l with ending := some (signal, code), gangs := [] } }.post
    (.completionSignal id)

/-! ## Nodes of a run -/

def State.graph (s : State) (ctx slot : Nat) : Graph := Tab.get {} (s.context ctx).graphs slot
def State.setGraph (s : State) (ctx slot : Nat) (g : Graph) : State :=
  let c := s.context ctx
  s.setContext ctx { c with graphs := c.graphs.put {} slot g }

/-- The records of the graph that a run runs. -/
def State.nodesOf (s : State) (r : Run) : List LaunchRecord := (s.graph r.ctx r.slot).nodes
def recordAt (ns : List LaunchRecord) (n : Nat) : LaunchRecord := ns.getD n {}
def forkOf (ns : List LaunchRecord) : Option Nat := (List.range ns.length).find? fun i => (recordAt ns i).fork
def joinOf (ns : List LaunchRecord) : Option Nat := (List.range ns.length).find? fun i => (recordAt ns i).join

/-- The fork's region: the fork and every node reachable from it without passing through the join (R344). -/
def reachFrom (ns : List LaunchRecord) : Nat → List Nat → List Nat
  | 0, r => r
  | n + 1, r =>
    let more := r.flatMap fun i => (recordAt ns i).succ.filter fun j => !(recordAt ns j).join
    reachFrom ns n (more.foldl (fun (l : List Nat) j => insertSorted j l) r)
def forkRegion (ns : List LaunchRecord) : List Nat :=
  match forkOf ns with
  | some f => reachFrom ns ns.length [f]
  | none => []

def State.setRun (s : State) (id : Nat) (r : Run) : State := { s with runs := s.runs.set id r }

/-- Change the entry of a node's instance. -/
def Run.setNode (r : Run) (n tag : Nat) (f : NodeState → NodeState) : Run :=
  { r with nodes := r.nodes.map fun x => if x.node = n && x.tag = tag then f x else x }
def Run.node? (r : Run) (n tag : Nat) : Option NodeState := r.nodes.find? fun x => x.node == n && x.tag == tag
def State.onNode (s : State) (run n tag : Nat) (f : NodeState → NodeState) : State :=
  match s.runs.find? run with
  | some r => s.setRun run (r.setNode n tag f)
  | none => s

/-- Whether anything of a run is still to come: a node that is launched and not done, or is ready (R345). -/
def Run.busy (r : Run) : Bool := r.nodes.any fun n => (n.launched || n.ready) && !n.done

/-- The future whose every node has retired becomes SEALED (R113). -/
def State.sealFuture (s : State) (run tag : Nat) : State :=
  match s.runs.find? run with
  | some r =>
    let mine := r.nodes.filter fun n => n.tag == tag
    let t := s.tag tag
    if tag ≠ 0 && mine ≠ [] && mine.all (fun n => n.retired) && t.state = .live && t.run = run then s.setTag tag { t with state := .sealed } else s
  | none => s

/-- A rejected node of a run (R346): the log entry, its record, the future or futures it takes with it. -/
def State.rejectNode (s : State) (run n tag code sub addr : Nat) : State :=
  match s.runs.find? run with
  | none => s
  | some r =>
    let rec_ := recordAt (s.nodesOf r) n
    let s := s.logError r.queue (r.slot * 2 ^ 26 + n) 3 code sub addr
    let s := if rec_.completion = 0 then s else s.endAtOnce { ctx := r.ctx, queue := r.queue, completion := rec_.completion } 2 code
    let r := { r.setNode n tag fun x => { x with rejected := true, done := true, ready := false } with
      rejected := if r.rejected = 0 then code else r.rejected }
    let s := s.setRun run r
    if tag ≠ 0 then s.squash tag 6
    else if rec_.join then r.tags.foldl (fun (s : State) t => if (s.tag t).run = run then s.squash t 6 else s) s
    else s

/-- Launch one node of a run, in the trunk or for a future, with its parameter pointer (R346, R347): its checks may reject it, or it
waits for a page. -/
def State.launchNode (s : State) (run n tag param : Nat) : State :=
  match s.runs.find? run with
  | none => s
  | some r =>
    let rec_ := recordAt (s.nodesOf r) n
    match s.checkLaunch (.node run n tag) r.ctx false rec_ with
    | .waits s' => s'.onNode run n tag fun x => { x with ready := true, done := false, param := param }
    | .bad code sub addr => (s.forgive (.node run n tag)).rejectNode run n tag code sub addr
    | .ok teams =>
      let s := (s.forgive (.node run n tag)).onNode run n tag fun x => { x with ready := false, launched := true, done := false, param := param }
      s.createLaunch { ctx := r.ctx, queue := r.queue, slot := BitVec.ofNat 32 (r.slot * 2 ^ 26 + n), node := some (run, n), tag := tag,
                       record := rec_, fence := rec_.fence, params := param, completion := rec_.completion, teams := teams, mark := r.mark }

/-- A fork that is to run waits for tags (R108), once its record has passed the checks. -/
def State.startFork (s : State) (run n param : Nat) : State :=
  match s.runs.find? run with
  | none => s
  | some r =>
    match s.checkLaunch (.node run n 0) r.ctx false (recordAt (s.nodesOf r) n) with
    | .waits s' => s'.onNode run n 0 fun x => { x with ready := true, done := false, param := param }
    | .bad code sub addr => (s.forgive (.node run n 0)).rejectNode run n 0 code sub addr
    | .ok _ =>
      let s := (s.forgive (.node run n 0)).onNode run n 0 fun x => { x with ready := true, done := false, param := param }
      { s with forkWaits := insertNew (run, n) s.forkWaits }.postOnce (.forkTakeTags run n)

/-- A node is to launch. -/
def State.startNode (s : State) (run n tag param : Nat) : State :=
  match s.runs.find? run with
  | none => s
  | some r => if (recordAt (s.nodesOf r) n).fork && tag = 0 then s.startFork run n param else s.launchNode run n tag param

/-- Lower the counter of a node's instance by one (R346); at 0 it launches, once. -/
def State.countDown (s : State) (run n tag : Nat) : State :=
  match s.runs.find? run with
  | none => s
  | some r =>
    match r.node? n tag with
    | none => s
    | some x =>
      let s := s.setRun run (r.setNode n tag fun x => { x with counter := x.counter - 1 })
      if x.counter = 1 && !x.launched && !x.ready && !x.done then s.startNode run n tag x.param else s

/-- The successors of a node's instance are counted down: those marked early at its early trigger, the others behind its completion
record (R346). The join counts whole nodes of the region (R348). -/
def State.countSuccessors (s : State) (run n tag : Nat) (early : Bool) : State :=
  match s.runs.find? run with
  | none => s
  | some r =>
    let ns := s.nodesOf r
    (recordAt ns n).succ.foldl (fun (s : State) j =>
      if (recordAt ns j).early == early && !(tag ≠ 0 && (recordAt ns j).join) then s.countDown run j tag else s) s

/-- The join is counted down for each predecessor in the region whose every instance is done (R348). -/
def State.countJoin (s : State) (run : Nat) : State :=
  match s.runs.find? run with
  | none => s
  | some r =>
    let ns := s.nodesOf r
    match joinOf ns with
    | none => s
    | some j =>
      if r.tags = [] then s
      else
        (forkRegion ns).foldl (fun (s : State) n =>
          match s.runs.find? run with
          | none => s
          | some r =>
            let k := (recordAt ns n).succ.count j
            let counted := match r.node? n 0 with | some x => x.joined | none => true
            if k = 0 || counted || !(r.tags.all fun t => match r.node? n t with | some x => x.done | none => true) then s
            else
              let s := s.setRun run (r.setNode n 0 fun x => { x with joined := true })
              (List.range k).foldl (fun (s : State) _ => s.countDown run j 0) s) s

/-- What a change of a run's nodes brings about: the join counts, and the run completes when nothing of it is left (R345). -/
def State.settleRun (s : State) (run : Nat) : State :=
  let s := s.countJoin run
  match s.runs.find? run with
  | some r => if r.busy || s.forkWaits.any fun f => f.1 == run then s else s.postOnce (.completionSignal run)
  | none => s

/-- Nodes that wait for a page are tried again. -/
def State.retryNodes (s : State) : State :=
  s.runs.foldl (fun (s : State) (x : Nat × Run) =>
    x.2.nodes.foldl (fun (s : State) (n : NodeState) =>
      if n.ready && !n.launched && !n.done && !(s.forkWaits.contains (x.1, n.node) && n.tag = 0) then
        (s.startNode x.1 n.node n.tag n.param).settleRun x.1
      else s) s) s

/-- Start one run of a graph slot (R345). -/
def State.startRun (s : State) (r : Run) : State :=
  let id := s.serial
  let ns := s.nodesOf r
  let entries := (List.range ns.length).map fun i => ({ node := i, tag := 0, counter := (recordAt ns i).predInit, param := (recordAt ns i).param } : NodeState)
  let s := { s with serial := id + 1, runs := s.runs.set id { r with nodes := entries } }
  let g := s.graph r.ctx r.slot
  let s := s.setGraph r.ctx r.slot { g with run := some id }
  let s := (List.range ns.length).foldl (fun (s : State) i =>
    if (recordAt ns i).predInit = 0 && !(recordAt ns i).devLaunch then s.startNode id i 0 (recordAt ns i).param else s) s
  s.settleRun id

/-- GLAUNCH (R233): launch one node of a running graph, or log the refusal in queue q with the type of the packet behind it. -/
def State.glaunch (s : State) (ctx id param : Nat) (log : Option (Nat × Nat)) : State :=
  let g := s.graph ctx (bitsOf id 26 6)
  let n := bitsOf id 0 12
  let refuse : State := match log with | some (q, type) => s.logError q id type 9 0 0 | none => s
  match g.run with
  | none => refuse
  | some run =>
    match s.runs.find? run with
    | none => refuse
    | some r =>
      if bitsOf id 12 14 ≠ 0 || g.nodes.length ≤ n || !(recordAt g.nodes n).devLaunch ||
          r.nodes.any (fun x => x.node == n && (x.launched || x.ready)) then refuse
      else (s.startNode run n 0 param).settleRun run

/-! ## Retirement -/

/-- Whether engine operations of a wave that were issued up to number `mark` are not complete, or have not reached every replica of what
they wrote. -/
def State.enginesBusy (s : State) (gk wi mark : Nat) : Bool :=
  (s.lags.any fun r => r.g == gk && r.w == wi + 64 && r.id ≤ mark) ||
  (s.copies.any fun o => o.g == gk && o.w == wi && o.id ≤ mark) || (s.laneOps.any fun o => o.g == gk && o.w == wi && o.id ≤ mark) ||
    (match s.groups.find? gk with
     | some g => match g.waves[wi]? with
       | some w => w.matOps.any fun o => o.id ≤ mark
       | none => false
     | none => false)

/-- Whether everything that a wave issued up to number `mark` has been performed. -/
def State.waveQuiet (s : State) (gk wi mark : Nat) : Bool :=
  !s.enginesBusy gk wi mark && !(s.posted.any fun p => p.g == gk && p.w == wi && p.id ≤ mark) &&
    !(s.lags.any fun r => r.g == gk && r.w == wi && r.id ≤ mark)

/-- Add the end of a group to a tally (R342, R352). -/
def Tally.groupEnds (x : Tally) (g : Group) (clk : Nat) : Tally :=
  { x with
    ended := clk
    coreCycles := x.coreCycles + (match g.first with | some t => clk - t | none => 0)
    fmasks := x.fmasks ++ (List.range g.waves.length).filterMap fun i =>
      match g.waves[i]? with
      | some w => if w.fmask = 0#32 then none else some (g.linear, i, w.fmask)
      | none => none }

/-- The sum of two tallies: a run's with that of a launch of it. -/
def Tally.join (a b : Tally) : Tally :=
  { started := match a.started, b.started with | some x, some y => some (min x y) | none, y => y | x, none => x
    ended := max a.ended b.ended
    coreCycles := a.coreCycles + b.coreCycles
    copyErrors := a.copyErrors + b.copyErrors
    rayErrors := a.rayErrors + b.rayErrors
    texErrors := a.texErrors + b.texErrors
    idemRestarts := a.idemRestarts + b.idemRestarts
    fmasks := a.fmasks ++ b.fmasks }

/-- The last gang of a launch has retired: its node's future may be sealed, and its completion is due (R37, R113). -/
def State.launchEnds (s : State) (id : Nat) : State :=
  match s.launches.find? id with
  | none => s
  | some l =>
    if l.gangs ≠ [] then s
    else
      let s := s.post (.completionSignal id)
      match l.node with
      | some (run, n) => (s.onNode run n l.tag fun x => { x with retired := true }).sealFuture run l.tag
      | none => s

/-- A gang leaves: its groups' resources are free (R18). -/
def State.gangLeaves (s : State) (gid : Nat) (x : Gang) : State :=
  let s := s.dropGroups fun _ g => g.launch == some x.launch && g.gang == x.index
  let s := { s with
    gangs := s.gangs.erase gid
    launches := s.launches.mapVals fun k (l : Launch) => if k = x.launch then { l with gangs := l.gangs.erase gid } else l }
  s.launchEnds x.launch

/-- GROUP_RETIRE (R37, R146): a group whose waves have ended retires once all that they issued has completed; its gang with it when it
was the last. -/
def execGroupRetire (gk : Nat) (s : State) : Host.Outcome State Fault Refusal :=
  match s.groups.find? gk with
  | none => .next s
  | some g =>
    if !g.ended || g.retired then .next s
    else if (List.range g.waves.length).any fun w => !s.quiet gk w || s.enginesBusy gk w s.serial then .next (s.repost (.groupRetire gk))
    else
      match g.launch with
      | none => .next (s.dropGroup gk)
      | some id =>
        let s := { s with
          groups := s.groups.set gk { g with retired := true }
          launches := s.launches.mapVals fun k (l : Launch) => if k = id then { l with tally := l.tally.groupEnds g s.clk } else l }
        let s := match s.launches.find? id with
          | some l =>
            let q := s.queue l.queue
            s.setQueue l.queue { q with deficit := q.deficit - (match g.first with | some t => ((s.clk - t : Nat) : Int) | none => 0) }
          | none => s
        let gang := List.find? (fun (x : Nat × Gang) => x.2.launch == id && x.2.index == g.gang) s.gangs
        let s := match gang with
          | some (gid, x) =>
            let x := { x with groups := x.groups.erase g.linear }
            let s := { s with gangs := s.gangs.set gid x }
            if x.groups = [] then s.gangLeaves gid x else s
          | none => s
        .next ((s.settleTeams id).kick)

/-- EARLY_TRIGGER (R38, R289): behind every wave's early point, once what was issued before it is performed, the early successors are
counted down. -/
def execEarlyTrigger (launch : Nat) (s : State) : Host.Outcome State Fault Refusal :=
  match s.launches.find? launch with
  | none => .next s
  | some l =>
    let ready (e : Nat × Nat × Nat) : Bool :=
      match s.groupOf launch e.1 with
      | some (gk, _) => s.waveQuiet gk e.2.1 e.2.2
      | none => true
    if l.triggered then .next s
    else if !(l.earlyWaves.all ready) then .next (s.repost (.earlyTrigger launch))
    else
      let s := { s with launches := s.launches.set launch { l with triggered := true } }
      match l.node with
      | some (run, n) => .next ((s.countSuccessors run n l.tag true).settleRun run)
      | none => .next s

/-- The record of a launch has been performed: its node's successors are counted down, its packet completes (R346, R337). -/
def State.launchDone (s : State) (id : Nat) (l : Launch) : State :=
  let s := { s with launches := s.launches.erase id }
  match l.node, l.ending with
  | some (run, n), none =>
    let s := s.onNode run n l.tag fun x => { x with done := true }
    let s := match s.runs.find? run with
      | some r => s.setRun run { r with tally := r.tally.join l.tally }
      | none => s
    let s := if l.triggered then s else s.countSuccessors run n l.tag true
    (s.countSuccessors run n l.tag false).settleRun run
  | _, _ => s.packetDone l.queue l.mark

/-- The record of a launch or a run is written, when its page can be reached; `fmask_cap` is read first. -/
def State.writeCompletion (s : State) (id ctx addr : Nat) (x : Tally) (signal code : Nat) : Got State :=
  if addr = 0 then .ok s
  else
    match s.frontReadParts (.completion id) ctx false [(addr + 40, 4)] with
    | .waits s' => .waits s'
    | .fails _ _ => .ok ((s.forgive (.completion id)).dropFrontWrite ctx addr 1)
    | .ok bs => .ok ((s.forgive (.completion id)).writeRecord id ctx addr (bytesNat bs) x signal code)

/-- COMPLETION_SIGNAL (R342, R343): the completion record of a launch, or of a graph run whose every launched node is done (R345), is
written; once that has been performed, the launch or run is over (R335, R346). -/
def execCompletionSignal (id : Nat) (s : State) : Host.Outcome State Fault Refusal :=
  match s.launches.find? id, s.runs.find? id with
  | some l, _ =>
    let s := s.wakeFront
    let (signal, code) := l.ending.getD (1, 0)
    if l.gangs ≠ [] then .next s
    else if l.written then .next (if s.recordOpen l.ctx 1 id then s.repost (.completionSignal id) else s.launchDone id l)
    else
      match s.writeCompletion id l.ctx l.completion l.tally signal code with
      | .ok s => .next ({ s with launches := s.launches.set id { l with written := true } }.repost (.completionSignal id))
      | .waits s' => .next (s'.repost (.completionSignal id))
      | .fails _ _ => .next s
  | none, some r =>
    if r.written then
      if s.recordOpen r.ctx 1 id then .next (s.repost (.completionSignal id))
      else
        let g := s.graph r.ctx r.slot
        let s := if g.run = some id then s.setGraph r.ctx r.slot { g with run := none } else s
        .next ({ s with runs := s.runs.erase id }.packetDone r.queue r.mark)
    else if !r.reset && (r.busy || s.forkWaits.any fun f => f.1 == id) then .next s
    else
      let (signal, code) := if r.reset then (3, 0) else if r.rejected = 0 then (1, 0) else (2, r.rejected)
      match s.writeCompletion id r.ctx r.completion r.tally signal code with
      | .ok s => .next ((s.setRun id { r with written := true }).repost (.completionSignal id))
      | .waits s' => .next (s'.repost (.completionSignal id))
      | .fails _ _ => .next s
  | none, none => .next s

end Sys2Proof.Machine
end

