-- ==== Sys2Proof/Machine/Futures.lean ====
section
/-!
DEFINITION. Sys2Proof/Machine/Futures.lean: row 0x9: LDF32, FCOMMIT, FSQUASH, FSTATE, FLIP, SIGNAL, GLAUNCH (R226 to R234), and the
steps of futures: a fork takes its tags (R108, R305, R347), the join's deadline (R348), commit point, folding and scrubbing (R428,
R429). Row 0x9 is not allowed in a transaction (R207).
-/

namespace Sys2Proof.Machine

open Sys2Proof

/-! ## Tags of a context's fork (R108, R227) -/

/-- Whether a tag was taken by the context's current fork and is not taken anew. -/
def State.ofFork (s : State) (ctx t : Nat) : Bool :=
  let x := s.tag t
  (s.context ctx).forkTags.contains t && x.state ≠ .free && x.ctx = ctx && x.fork = (s.context ctx).forkId

/-- Whether a tag is LIVE or SEALED in the context's fork. -/
def State.liveTag (s : State) (ctx t : Nat) : Bool :=
  s.ofFork ctx t && ((s.tag t).state = .live || (s.tag t).state = .sealed)

/-- Whether the context has a live fork (R108). -/
def State.forkLive (s : State) (ctx : Nat) : Bool := (s.context ctx).forkTags.any (s.liveTag ctx)

/-- The status of FCOMMIT (R227). -/
def State.commitStatus (s : State) (ctx t : Nat) : Nat :=
  let c := s.context ctx
  if t = 0 || 15 < t || !c.forkTags.contains t then 2
  else if c.forkCommitted then 3
  else if !s.liveTag ctx t then 2
  else if (s.tag t).state = .live then 1
  else 0

/-- FCOMMIT of a wave or of the front end (R227, R428): with status 0 the tag is COMMITTED and committing; its commit point comes 66 clk
later. -/
def State.fcommit (s : State) (ctx t : Nat) (committer : Option (Nat × Nat × Nat)) : State × Nat :=
  let status := s.commitStatus ctx t
  if status = 0 then
    let s := s.setTag t { s.tag t with state := .committed, committing := true, commitAt := s.clk + 66, committer := committer }
    let s := s.setContext ctx { s.context ctx with forkCommitted := true }
    (s.post (.commitPoint ctx t), 0)
  else (s, status)

/-- FSQUASH's status (R228), and the squash with reason 0. -/
def State.fsquash (s : State) (ctx t : Nat) : State × Nat :=
  match s.commitStatus ctx t with
  | 3 => (s, 3)
  | 2 => (s, 2)
  | _ => (s.squash t 0, 0)

/-- The number of a tag's state (R112). -/
def TagState.code : TagState → Nat
  | .free => 0
  | .live => 1
  | .sealed => 2
  | .committed => 3
  | .squashed => 4

/-- The word of FSTATE (R229). -/
def State.stateWord (s : State) (t : Nat) : Word :=
  if t = 0 || 15 < t then 0xFFFFFFFF#32
  else
    let x := s.tag t
    BitVec.ofNat 32 (x.state.code + 16 * (if x.state = .squashed then x.reason else 0) + 256 * x.effects.length)

/-! ## Row 0x9 -/

/-- An instruction of rows 0x9 to 0xB that is not allowed in a transaction and acts once when S is not empty; when it traps, nothing of
it has been done. -/
def Ctx.once (c : Ctx) (body : Res) : Res :=
  if c.txLanes ≠ 0#32 then .unsupported c
  else if c.S = 0#32 then .done c
  else
    match body with
    | .trap _ t => .trap c t
    | r => r

/-- Queue one deferred effect of a future's wave; a 257th squashes the future (R116, R234). -/
def Ctx.defer (c : Ctx) (e : Effect) : Res :=
  let x := c.s.tag c.tag
  if 256 ≤ x.effects.length then .gone (c.putPath.squash c.tag 3)
  else .done { c with s := c.s.setTag c.tag { x with effects := x.effects ++ [e] } }

/-- LDF32 (0x90, R226). -/
def execLdf32 (d a b : Reg) (s : State) : Host.Outcome State Fault Refusal :=
  issue (.ldf32 d a b) anyType s fun c =>
    let t := (c.val b 0).toNat
    if c.txLanes ≠ 0#32 then .unsupported c
    else if 16 ≤ t then .trap c ⟨causeIllegalOperand, 3, 0, c.act⟩
    else if c.tag ≠ 0 && t ≠ 0 && t ≠ c.tag then .trap c ⟨causeFutEffect, 0, 0, c.act⟩
    else if c.S = 0#32 then .done c
    else
      match c.plan .ldf 4 c.S (c.address1 a) with
      | .stop r => r
      | .go c accs =>
        -- the future's view: its own version while the tag is in the context's live fork, else the trunk
        let seen := if s.liveTag c.g.ctx t then t else 0
        let own := c.g.tag
        match { c with g := { c.g with tag := seen } }.takeLeases accs with
        | .stop (.wait c k) => .wait { c with g := { c.g with tag := own } } k
        | .stop r => r
        | .go c accs =>
          let xs := c.loadedValues false 4 accs
          let c := { c with g := { c.g with tag := own } }.acquire
          ((c.putLoaded d 4 false c.S (valueOf xs)).poisonFrom (destNames d 1) accs).complete accs

/-- FCOMMIT (0x91): it does not wait; the wave's earlier accesses are performed before the commit point, its later ones after it. -/
def execFcommit (d a : Reg) (s : State) : Host.Outcome State Fault Refusal :=
  issue (.fcommit d a) anyType s fun c =>
    c.once
      (if c.tag ≠ 0 then .trap c ⟨causeFutEffect, 0, 0, c.act⟩
       else
         let s := c.s.fresh
         let (s, status) := s.fcommit c.g.ctx (c.val a 0).toNat (some (c.gk, c.wi, s.serial))
         .done ({ c with s := s }.acquire.putOnce d (BitVec.ofNat 32 status)))

/-- FSQUASH (0x92): a future wave may name only its own tag, and ends with it (R115); where the tag is no longer LIVE it writes the status
and goes on (R228; DESIGN CHOICE, log entry 117). -/
def execFsquash (d a : Reg) (s : State) : Host.Outcome State Fault Refusal :=
  issue (.fsquash d a) anyType s fun c =>
    c.once
      (let t := (c.val a 0).toNat
       if c.tag ≠ 0 && t ≠ c.tag then .trap c ⟨causeFutEffect, 0, 0, c.act⟩
       else if c.tag ≠ 0 then
         (match c.putPath.fsquash c.g.ctx t with
          | (s, 0) => .gone s
          | (_, status) => .done (c.putOnce d (BitVec.ofNat 32 status)))
       else
         let (s, status) := c.s.fsquash c.g.ctx t
         .done ({ c with s := s }.putOnce d (BitVec.ofNat 32 status)))

/-- FSTATE (0x93). -/
def execFstate (d a : Reg) (s : State) : Host.Outcome State Fault Refusal :=
  issue (.fstate d a) anyType s fun c => c.once (.done (c.putOnce d (c.s.stateWord (c.val a 0).toNat)))

/-! ## Flips (R231, R349) -/

/-- Whether a surface descriptor holds what R349 asks of it. -/
def surfaceLegal (x : Nat) : Bool :=
  bitsOf x 0 64 % 256 = 0 && bitsOf x 64 32 % 256 = 0 && 1 ≤ bitsOf x 96 16 && bitsOf x 96 16 ≤ 8192 && 1 ≤ bitsOf x 112 16 &&
    bitsOf x 112 16 ≤ 8192 && [0x11, 0x12, 0x13, 0x18].contains (bitsOf x 128 8) && bitsOf x 136 120 = 0

/-- Perform a flip request: the descriptor is read now; one that fails R349 is dropped and counted. -/
def State.performFlip (s : State) (ctx va head : Nat) : Got State :=
  let h := s.head head
  let bad := s.setHead head { h with badFlips := h.badFlips + 1 }
  if va % 32 ≠ 0 then .ok bad
  else
    match s.frontRead (.flip head) ctx va 32 with
    | .waits s' => .waits s'
    | .fails _ _ => .ok (bad.forgive (.flip head))
    | .ok bs =>
      let x := bytesNat bs
      if surfaceLegal x then .ok ((s.forgive (.flip head)).setHead head { h with requests := h.requests ++ [⟨s.clk, ctx, BitVec.ofNat 256 x⟩] })
      else .ok (bad.forgive (.flip head))

/-- FLIP (0x94). -/
def execFlip (a : Reg) (b : Selector) (s : State) : Host.Outcome State Fault Refusal :=
  issue (.flip a b) anyType s fun c =>
    c.once
      (let va := c.address1 a 0
       if c.tag ≠ 0 then c.defer (.flip va b.toNat)
       else if !c.settled then .wait c .fence
       else
         match c.s.performFlip c.g.ctx va b.toNat with
         | .ok s => .done { c with s := s }
         | .waits s => .wait { c with s := s } .front
         | .fails _ _ => .done c)

/-! ## Signals (R232) -/

/-- SIGNAL in the trunk: its write is a release; with order acq or ar the path goes on once it is performed. -/
def Ctx.signal (c : Ctx) (ea : Nat) (value : Word) (irq : Bool) : Res :=
  let acquire := modeOrder c.mode = 1 || modeOrder c.mode = 3
  if c.p.wait = .front then (if c.s.quiet c.gk c.wi then .done c.acquire else .wait c .front)
  else
    match c.plan .signal 4 (laneBit (lowestLane c.S)) fun _ => ea with
    | .stop (.trap c t) => .trap c { t with lanes := c.S }
    | .stop r => r
    | .go c accs =>
      let place := match accs with
        | [⟨_, _, .memory t pa, _⟩] => (c.placeFor t pa, t.page)
        | [⟨_, _, .device p, _⟩] => (p, .plain)
        | _ => (0, .plain)
      let s := c.s.postWrite { id := 0, g := c.gk, w := c.wi, core := c.core, tag := 0, bytes := placed place.1 (natBytes 4 value.toNat),
                               ordered := true, page := place.2, irq := if irq then some c.g.ctx else none }
      if acquire then .wait { c with s := s } .front else .done { c with s := s }

/-- SIGNAL under a future: alignment and protection are checked, then it is deferred (R234). -/
def Ctx.signalLater (c : Ctx) (ea : Nat) (value : Word) (irq : Bool) : Res :=
  match c.meet .signal 4 0 false ea with
  | .cause rank cause sub a => if rank ≤ 1 then .trap c ⟨cause, sub, a, c.S⟩ else c.defer (.signal ea value irq)
  | _ => c.defer (.signal ea value irq)

/-- SIGNAL (0x95). -/
def execSignal (d : Selector) (a b : Reg) (s : State) : Host.Outcome State Fault Refusal :=
  issue (.signal d a b) anyType s fun c =>
    c.once
      (let ea := c.address1 a 0
       if c.tag ≠ 0 then c.signalLater ea (c.val b 0) (d = 1#8) else c.signal ea (c.val b 0) (d = 1#8))

/-! ## GLAUNCH (R233) -/

/-- The queue and the packet type that a wave's GLAUNCH is logged under. -/
def Ctx.launchLog (c : Ctx) : Option (Nat × Nat) :=
  match c.g.launch with
  | some l => (c.s.launches.find? l).map fun x => (x.queue, if x.node.isSome then 3 else 2)
  | none => none

/-- GLAUNCH (0x96): a release of the wave's earlier writes. -/
def execGlaunch (a b : Reg) (s : State) : Host.Outcome State Fault Refusal :=
  issue (.glaunch a b) anyType s fun c =>
    c.once
      (let id := c.val a 0
       let param := (c.val64 b 0).toNat
       if c.tag ≠ 0 then c.defer (.glaunch id param)
       else if !c.settled then .wait c .fence
       else .done { c with s := c.s.glaunch c.g.ctx id.toNat param c.launchLog })

/-! ## A fork takes its tags -/

/-- The parameter blocks of a fork: address of future i's block. -/
def blockAddress (param stride i : Nat) : Nat := (param + i * stride) % 2 ^ 64

/-- Where the blocks' tags go, or why they cannot be written (R305): a trunk store to the page must be allowed and reach its place. -/
def State.blockPlaces (s : State) (who : Waiter) (ctx : Nat) : List Nat → Got (List (Translation × Nat))
  | [] => .ok []
  | va :: rest =>
    if va % 4 ≠ 0 then .fails 0x10 va
    else
      match s.frontAccess who ctx va 2 false true with
      | .waits s' => .waits s'
      | .fails c => .fails c va
      | .ok t pa =>
        let lost : Bool := match s.reach pa with | .gddr card _ => card ≠ s.ownCard && s.peer card == .down | .nothing => true | _ => false
        if lost then .fails 0x11 va
        else
          match s.blockPlaces who ctx rest with
          | .ok ps => .ok ((t, pa) :: ps)
          | r => r

/-- The party as which a fork writes its tags. -/
def forkWave (run : Nat) : Nat := 320 + run

/-- The latch point t_L of a head by which a join's deadline is measured (R348): the first one that is at least `deadline` clk from now; a
known one when it is that, else the frame's own time. It comes at its clk. -/
def State.latchClk (s : State) (head deadline : Nat) : Nat :=
  let least := s.clk + deadline
  let own := least + Config.latchAfter head least
  (s.head head).latches.foldl (fun t x => if least ≤ x.2 && (x.2 < t || x.1 ≤ t) then min x.2 (max t x.1) else t) own
def State.expectLatch (s : State) (head deadline : Nat) : State :=
  let h := s.head head
  let s := s.setHead head { h with latches := h.latches ++ [(s.clk + deadline, s.latchClk head deadline)] }
  { s with agenda := s.agenda ++ [.latch head h.latchMode] }

/-- Every instance of the fork's region begins (R347): the tags are LIVE, the region's nodes stand once per future, and the fork node
is launched for each. -/
def State.takeTags (s : State) (run n : Nat) (r : Run) (tags : List Nat) (x : NodeState) : State :=
  let ns := s.nodesOf r
  let rec_ := recordAt ns n
  let c := s.context r.ctx
  let s := tags.foldl (fun (s : State) t =>
    s.setTag t { state := .live, ctx := r.ctx, fork := c.forkId + 1, run := run, queue := r.queue }) s
  let s := s.setContext r.ctx { s.context r.ctx with forkTags := tags, forkCommitted := false, forkId := c.forkId + 1 }
  let instances := tags.flatMap fun t => (forkRegion ns).map fun i =>
    ({ node := i, tag := t, counter := (recordAt ns i).predInit, param := (recordAt ns i).param } : NodeState)
  let r := { r.setNode n 0 fun y => { y with ready := false, launched := true, retired := true, done := true } with tags := tags, taking := [], forkAt := s.clk }
  let r := match joinOf ns with
    | some j => { r with latchAt := s.latchClk (recordAt ns j).head (recordAt ns j).deadline }
    | none => r
  let s := s.setRun run { r with nodes := r.nodes ++ instances }
  let s := match joinOf ns with
    | some j => if (recordAt ns j).deadlineEn then (s.expectLatch (recordAt ns j).head (recordAt ns j).deadline).post (.joinDeadline run j) else s
    | none => s
  ((List.range tags.length).foldl (fun (s : State) i =>
    s.launchNode run n (tags.getD i 0) (blockAddress x.param rec_.paramStride i)) s).settleRun run

/-- FORK_TAKE_TAGS (R108, R305): the fork that has waited longest takes its tags once enough are FREE and the context has no live fork. First
each tag is written into its future's block, as a trunk store at dev scope; the fork goes on once those writes have been performed. -/
def execForkTakeTags (run node : Nat) (s : State) : Host.Outcome State Fault Refusal :=
  let again (s : State) : Host.Outcome State Fault Refusal := .next (s.repost (.forkTakeTags run node))
  match s.runs.find? run with
  | none => .next s
  | some r =>
    let rec_ := recordAt (s.nodesOf r) node
    let free := (List.range 16).filter fun t => t ≠ 0 && (s.tag t).state = .free
    match r.node? node 0 with
    | none => .next s
    | some x =>
      if !s.forkWaits.contains (run, node) then .next s
      else if s.forkWaits.head? ≠ some (run, node) || free.length < rec_.futures || s.forkLive r.ctx then again s
      else
        let out := { s with forkWaits := s.forkWaits.erase (run, node) }.forgive (.node run node 0)
        if r.taking ≠ [] then
          (if s.quiet frontParty (forkWave run) then .next (out.takeTags run node { r with taking := [] } r.taking x) else again s)
        else
          let tags := free.take rec_.futures
          match s.blockPlaces (.node run node 0) r.ctx ((List.range rec_.futures).map fun i => blockAddress x.param rec_.paramStride i) with
          | .waits s' => again s'
          | .fails _ a => .next ((out.rejectNode run node 0 10 0 a).settleRun run)
          | .ok ps =>
            let s := (ps.zip tags).foldl (fun (s : State) p =>
              s.postWrite { id := 0, g := frontParty, w := forkWave run, core := frontCore, tag := 0, page := p.1.1.page,
                            bytes := placed (s.physPlace p.1.2) (natBytes 4 p.2), front := some (r.ctx, 0, 0) }) s
            again (s.setRun run { r with taking := tags })

/-- JOIN_DEADLINE (R348): at the clk t_L − deadline, every future of the fork that is still LIVE is squashed with reason 1. -/
def execJoinDeadline (run node : Nat) (s : State) : Host.Outcome State Fault Refusal :=
  match s.runs.find? run with
  | none => .next s
  | some r =>
    if s.clk + (recordAt (s.nodesOf r) node).deadline < r.latchAt then .next (s.repost (.joinDeadline run node))
    else
      .next ((r.tags.foldl (fun (s : State) t =>
        if (s.tag t).run = run && (s.tag t).state = .live then s.squash t 1 else s) s.wakeFront).settleRun run)

/-! ## Commit, folding and scrubbing -/

/-- The lines of which a tag holds a version. -/
def State.versionsOf (s : State) (tag : Nat) : List Nat := (s.versions.filter fun v => v / 2 ^ 45 == tag).map (· % 2 ^ 45)

/-- Delete a tag's versions with all that the homes keep for them, and what is remembered of them (R429). -/
def State.dropVersions (s : State) (tag : Nat) : State :=
  { s with
    versions := s.versions.filter fun v => v / 2 ^ 45 ≠ tag
    mem := s.mem.keep fun k _ => placeTag k ≠ tag
    past := s.past.filter fun x => placeTag x.place ≠ tag
    lines := s.lines.keep fun k _ => k / 2 ^ 45 ≠ tag
    leases := s.leases.keep fun k _ => k / 128 / 2 ^ 45 ≠ tag }

/-- The later loads of a wave return nothing older than now (R274). -/
def State.acquireFor (s : State) (g w : Nat) : State :=
  match s.groups.find? g with
  | none => s
  | some x =>
    match x.waves[w]? with
    | none => s
    | some y => { s with groups := s.groups.set g (x.setWave w { y with acquired := s.writes, seen := [] }) }

/-- COMMIT_POINT (R114, R428): what the committing wave did before has been performed; the future's write set becomes the trunk; its siblings
are squashed with reason 2; its deferred effects are due. -/
def execCommitPoint (ctx tag : Nat) (s : State) : Host.Outcome State Fault Refusal :=
  let t := s.tag tag
  if t.state ≠ .committed || !t.committing || t.ctx ≠ ctx then .next s
  else if s.clk < t.commitAt || !(t.committer.all fun x => s.performedTo x.1 x.2.1 x.2.2) then .next (s.repost (.commitPoint ctx tag))
  else
    let bytes := (s.versionsOf tag).flatMap fun l => s.lineBytes (versionLine tag l) l
    let s := ((s.noteUnwritten bytes).notePast bytes).setBytes bytes
    let s := match t.committer with | some x => s.acquireFor x.1 x.2.1 | none => s
    let s := s.setTag tag { t with committing := false }
    let s := s.squashAll (fun x => x.ctx == ctx && x.fork == t.fork) 2
    let s := if t.effects = [] then s else s.post (.deferredEffect ctx tag)
    .next ((s.post (.foldingFinish ctx tag)).settleRun t.run)

/-- FOLDING_FINISH (R429): the committed tag's last version is gone and the tag is FREE; its deferred effects have left the queue. -/
def execFoldingFinish (ctx tag : Nat) (s : State) : Host.Outcome State Fault Refusal :=
  let t := s.tag tag
  if t.state ≠ .committed || t.committing || t.ctx ≠ ctx || tag = 0 then .next s
  else if t.effects ≠ [] then .next (s.repost (.foldingFinish ctx tag))
  else .next ((s.dropVersions tag).setTag tag {})

/-- SCRUBBING_FINISH (R429): first the tag's run takes note of the squash (R348), later the last version is scrubbed and the tag is
FREE. -/
def execScrubbingFinish (ctx tag : Nat) (s : State) : Host.Outcome State Fault Refusal :=
  let t := s.tag tag
  if t.state ≠ .squashed || t.ctx ≠ ctx || tag = 0 then .next s
  else if !t.noted then .next (((s.setTag tag { t with noted := true }).settleRun t.run).kick.repost (.scrubbingFinish ctx tag))
  else .next ((s.dropVersions tag).setTag tag {})

end Sys2Proof.Machine
end

