-- ==== Sys2Proof/Machine/Tensors.lean ====
section
/-!
DEFINITION. Sys2Proof/Machine/Tensors.lean: tensor records and where their elements and scales lie (R76, R77, R235 to R238), the table
and cursor instructions of row 0xA (R239 to R242).
-/

namespace Sys2Proof.Machine

open Sys2Proof

/-! ## Records (R235) -/

def TRecord.field (r : TRecord) (lo n : Nat) : Nat := bitsOf r.toNat lo n
def TRecord.format (r : TRecord) : Nat := r.field 0 8
def TRecord.ndims (r : TRecord) : Nat := r.field 8 2 + 1
/-- 0 linear, 1 blocked A, 2 blocked B, 3 sparse B. -/
def TRecord.layout (r : TRecord) : Nat := r.field 10 2
def TRecord.srcClass (r : TRecord) : Nat := r.field 12 3
def TRecord.landEn (r : TRecord) : Bool := r.field 15 1 == 1
def TRecord.landTeam (r : TRecord) : Nat := r.field 16 8
def TRecord.link (r : TRecord) : Nat := r.field 24 8
def TRecord.sampler (r : TRecord) : Nat := r.field 16 16
def TRecord.base (r : TRecord) : Nat := r.field 32 64
def TRecord.scaleBase (r : TRecord) : Nat := r.field 96 64
/-- The extent as the record holds it. -/
def TRecord.dim (r : TRecord) (i : Nat) : Nat := r.field (160 + 32 * i) 32
/-- The extent that counts: 1 above `ndims_m1` (R236). -/
def TRecord.extent (r : TRecord) (i : Nat) : Nat := if i < r.ndims then r.dim i else 1
/-- The stride of dimension 1, 2 or 3. -/
def TRecord.stride (r : TRecord) (i : Nat) : Nat := r.field (256 + 32 * i) 32
def TRecord.cur (r : TRecord) (i : Nat) : Word := BitVec.ofNat 32 (r.field (384 + 32 * i) 32)

/-- Formats (R76): the codes that are not reserved, textures, block-scaled ones, integers for the matrix engine. -/
def formatKnown (f : Nat) : Bool := (1 ≤ f && f ≤ 0x0C) || (0x10 ≤ f && f ≤ 0x19)
def formatTexture (f : Nat) : Bool := 0x11 ≤ f && f ≤ 0x19
def formatScaled (f : Nat) : Bool := f == 8 || f == 9
def formatMatrixB (f : Nat) : Bool := 6 ≤ f && f ≤ 0x0A
/-- Whether the format holds elements: neither a ray structure nor a texture. -/
def formatPlain (f : Nat) : Bool := 1 ≤ f && f ≤ 0x0C
def formatFloat (f : Nat) : Bool := 1 ≤ f && f ≤ 5

/-- Bits of an element (R76, R236). -/
def elementBits (f : Nat) : Nat :=
  match f with
  | 0x01 | 0x0C => 32
  | 0x02 | 0x03 | 0x0B => 16
  | 0x07 | 0x09 => 4
  | 0x0A => 1
  | _ => 8

/-- What the elements of a format are (R76). -/
def formatElem (f : Nat) : Elem :=
  match f with
  | 0x01 => .float fmtF32
  | 0x02 => .float fmtF16
  | 0x03 => .float fmtBf16
  | 0x04 => .float fmtE4M3
  | 0x05 => .float fmtE5M2
  | 0x07 | 0x09 => .int true 4
  | 0x0A => .int false 1
  | 0x0B => .int true 16
  | 0x0C => .int true 32
  | _ => .int true 8

/-- The first check of R240 that a record fails, by its sub-cause; 0 for none. `src_class` has three bits, so check 5 never fails. -/
def TRecord.check (r : TRecord) : Nat :=
  let f := r.format
  let l := r.layout
  if !formatKnown f then 1
  else if (List.range 4).any fun i => i < r.ndims && r.dim i == 0 then 2
  else if (l == 3 && !formatMatrixB f) || ((l == 1 || l == 2) && (formatFloat f || f == 0x0C || 0x10 ≤ f)) ||
      ((l == 2 || l == 3) && f == 0x0B) then 3
  else if formatTexture f && (r.landEn || r.sampler % 64 ≠ 0) then 4
  else 0

/-! ## Where elements lie (R236, R237) -/

/-- Four indices. -/
structure Idx where
  i0 : Nat
  i1 : Nat
  i2 : Nat
  i3 : Nat
deriving DecidableEq, Repr

def TRecord.holds (r : TRecord) (x : Idx) : Bool :=
  x.i0 < r.extent 0 && x.i1 < r.extent 1 && x.i2 < r.extent 2 && x.i3 < r.extent 3

/-- Rows of a tile along dimension 1, and elements along K. -/
def TRecord.tileRows (r : TRecord) : Nat := if r.layout = 1 then 8 else 64
def TRecord.tileK (r : TRecord) : Nat := if r.layout = 3 then 128 else 64
/-- The bytes of a tile's row (a column of B): 64 stored elements and, in sparse B, 16 bytes of codes. -/
def TRecord.lineBytes (r : TRecord) : Nat := 8 * elementBits r.format + (if r.layout = 3 then 16 else 0)

/-- What dimensions 2 and 3 add. -/
def TRecord.high (r : TRecord) (x : Idx) : Nat := x.i2 * r.stride 2 + x.i3 * r.stride 3

/-- The address of the tile line (a row of A, a column of B) that holds an element of a blocked tensor. -/
def TRecord.tileLine (r : TRecord) (x : Idx) : Nat :=
  let rows := r.tileRows
  r.base + x.i1 / rows * r.stride 1 + x.i0 / r.tileK * (rows * r.lineBytes) + r.high x + x.i1 % rows * r.lineBytes

/-- A run of bits in memory: the address of its first byte, the bit in it, how many. -/
structure Bits where
  va : Nat
  sh : Nat
  bits : Nat
deriving DecidableEq, Repr

def bitsAt (byteBase bit n : Nat) : Bits := ⟨(byteBase + bit / 8) % 2 ^ 64, bit % 8, n⟩

/-- Where an element of a dense layout stands, extents aside. -/
def TRecord.place (r : TRecord) (x : Idx) : Bits :=
  let b := elementBits r.format
  if r.layout = 0 then bitsAt (r.base + x.i1 * r.stride 1 + r.high x) (x.i0 * b) b
  else bitsAt (r.tileLine x) (x.i0 % 64 * b) b

/-- Where the kept element e (0 or 1) of a group of four of a sparse line stands, and its position code. -/
def TRecord.keptPlace (r : TRecord) (x : Idx) (e : Nat) : Bits :=
  let b := elementBits r.format
  bitsAt (r.tileLine x) ((x.i0 % 128 / 4 * 2 + e) * b) b
def TRecord.codePlace (r : TRecord) (x : Idx) (e : Nat) : Bits :=
  bitsAt (r.tileLine x + 8 * elementBits r.format) ((x.i0 % 128 / 4 * 2 + e) * 2) 2

/-- Where the scale of an element's block stands (R236, R237, R311). -/
def TRecord.scalePlace (r : TRecord) (x : Idx) : Bits :=
  let upper := x.i2 + r.extent 2 * x.i3
  let va :=
    if r.layout = 0 then r.scaleBase + 4 * (ceilDiv (r.extent 0) 32 * (x.i1 + r.extent 1 * upper) + x.i0 / 32)
    else
      let rows := r.tileRows
      let perLine := r.tileK / 32
      let t := (x.i1 / rows + ceilDiv (r.extent 1) rows * upper) * ceilDiv (r.extent 0) 64 + x.i0 / r.tileK
      r.scaleBase + t * (rows * perLine * 4) + 4 * (x.i1 % rows * perLine + x.i0 % r.tileK / 32)
  ⟨va % 2 ^ 64, 0, 32⟩

/-! ## Values that an engine reads -/

/-- A value that an engine forms from bytes of memory: which ranges it reads, and what it is. -/
structure Val where
  reads : List Bits
  value : (Nat → Byte) → Nat

def Val.const (n : Nat) : Val := ⟨[], fun _ => n⟩
def Val.map (f : Nat → Nat) (v : Val) : Val := ⟨v.reads, fun m => f (v.value m)⟩
/-- A value of several. -/
def Val.all (vs : List Val) (f : List Nat → Nat) : Val := ⟨vs.flatMap (·.reads), fun m => f (vs.map fun v => v.value m)⟩

/-- How many bytes a run of bits touches. -/
def Bits.bytes (b : Bits) : Nat := (b.sh + b.bits + 7) / 8
/-- The addresses of the bytes that a run touches. -/
def Bits.addrs (b : Bits) : List Nat := (List.range b.bytes).map fun i => (b.va + i) % 2 ^ 64

/-- The number that a run of bits holds. -/
def Bits.val (b : Bits) : Val := ⟨[b], fun m => bitsOf (bytesNat (b.addrs.map m)) b.sh b.bits⟩

/-- An element as its format stores it; one beyond the extents reads as 0 (R238); a sparse group whose codes do not rise reads as 0. -/
def TRecord.elem (r : TRecord) (x : Idx) : Val :=
  if !r.holds x then .const 0
  else if r.layout = 3 then
    .all [(r.codePlace x 0).val, (r.codePlace x 1).val, (r.keptPlace x 0).val, (r.keptPlace x 1).val] fun vs =>
      let c0 := vs.getD 0 0
      let c1 := vs.getD 1 0
      if c1 ≤ c0 then 0 else if c0 = x.i0 % 4 then vs.getD 2 0 else if c1 = x.i0 % 4 then vs.getD 3 0 else 0
  else (r.place x).val

/-- SC20 1.0, the scale of an integer operand (R82). -/
def scaleOne : Nat := 127 * 4096

/-- The 20-bit scale of an element's block (R77, R82, R238). -/
def TRecord.scale (r : TRecord) (x : Idx) : Val :=
  if !formatScaled r.format then .const scaleOne
  else if r.holds { x with i0 := x.i0 / 32 * 32 } then (r.scalePlace x).val.map (· % 2 ^ 20)
  else .const 0

/-! ## The table and the cursors (R240, R241) -/

/-- Forget the cursors that waves of a context keep for an id: its entry has been loaded or unloaded. -/
def State.dropCursors (s : State) (ctx t : Nat) : State :=
  { s with groups := s.groups.mapVals fun _ (g : Group) =>
      if g.ctx = ctx then
        { g with waves := g.waves.map fun (w : Wave) =>
            { w with cursors := w.cursors.filter fun x => x.id ≠ t, spilledCursors := w.spilledCursors.filter fun x => x ≠ t } }
      else g }

/-- Load an entry of a context's tensor table, or unload it. -/
def State.setTensor (s : State) (ctx t : Nat) (r : Option TRecord) : State :=
  let c := s.context ctx
  let s := s.setContext ctx { c with tensors := match r with | some r => c.tensors.set t r | none => c.tensors.erase t }
  s.dropCursors ctx t

/-- The entry of an id, when it is loaded. -/
def Ctx.tensor (c : Ctx) (t : Nat) : Option TRecord := (c.s.context c.g.ctx).tensors.find? t

/-- The place of an id's cursor in the save slot. -/
def cursorSave (t : Nat) : Nat := 0x800 + 16 * t

/-- A cursor's four words, and the cursor that 16 bytes hold. -/
def Cursor.bytes (x : Cursor) : List Byte := natBytes 4 x.c0.toNat ++ natBytes 4 x.c1.toNat ++ natBytes 4 x.c2.toNat ++ natBytes 4 x.c3.toNat
def Wave.savedCursor (w : Wave) (t : Nat) : Cursor :=
  let word (i : Nat) : Word := BitVec.ofNat 32 (bytesNat ((List.range 4).map fun j => Tab.get 0#8 w.save (cursorSave t + 4 * i + j)))
  ⟨t, word 0, word 1, word 2, word 3⟩

/-- Room for one more cursor on the chip: of 16, the one written longest ago moves to the save slot (R241). -/
def Wave.spillCursor (w : Wave) : Wave :=
  match w.cursors with
  | x :: rest =>
    if 16 ≤ w.cursors.length then
      { w.writeSave (cursorSave x.id) x.bytes with cursors := rest.filter fun y => y.id ≠ x.id, spilledCursors := insertNew x.id w.spilledCursors }
    else w
  | [] => w

/-- The wave with its cursor for an id on the chip: the record's, when it first names the id (R241). -/
def Wave.nameCursor (w : Wave) (t : Nat) (r : TRecord) : Wave :=
  if w.cursors.any fun x => x.id == t then w
  else if w.spilledCursors.contains t then
    let x := w.savedCursor t
    let w := w.spillCursor
    { w with cursors := x :: w.cursors, spilledCursors := w.spilledCursors.filter fun y => y ≠ t }
  else
    let w := w.spillCursor
    { w with cursors := w.cursors ++ [⟨t, r.cur 0, r.cur 1, r.cur 2, r.cur 3⟩] }

/-- The cursor of an id that the wave has named: on the chip, or in the save slot. -/
def Wave.cursor (w : Wave) (t : Nat) : Cursor :=
  match w.cursors.find? fun x => x.id == t with
  | some x => x
  | none => if w.spilledCursors.contains t then w.savedCursor t else ⟨t, 0#32, 0#32, 0#32, 0#32⟩

/-- Write a cursor: it becomes the one written last. -/
def Wave.setCursor (w : Wave) (x : Cursor) : Wave := { w with cursors := (w.cursors.filter fun y => y.id ≠ x.id) ++ [x] }

/-- A cursor as indices. -/
def Cursor.idx (x : Cursor) : Idx := ⟨x.c0.toNat, x.c1.toNat, x.c2.toNat, x.c3.toNat⟩

/-- The trap TENSOR_ID (R240, R243, R360) and SHAPE_MISMATCH (R243). -/
def Ctx.tensorTrap (c : Ctx) (t sub : Nat) : Res := .trap c ⟨causeTensorId, sub, t, c.act⟩
def Ctx.shapeTrap (c : Ctx) (t : Nat) : Res := .trap c ⟨causeShapeMismatch, 0, t, c.act⟩

/-- Go on with the record of a tensor that the instruction names, its cursor on the chip (R241, R243). -/
def Ctx.withTensor (c : Ctx) (t : Nat) (body : Ctx → TRecord → Res) : Res :=
  match c.tensor t with
  | none => c.tensorTrap t 0
  | some r => if formatKnown r.format then body { c with w := c.w.nameCursor t r } r else c.tensorTrap t 1

/-! ## Row 0xA: the table -/

/-- TDEF (0xA0). -/
def execTdef (d : Selector) (a : Reg) (s : State) : Host.Outcome State Fault Refusal :=
  issue (.tdef d a) anyType s fun c =>
    c.once
      (if c.tag ≠ 0 then .trap c ⟨causeFutEffect, 0, 0, c.act⟩
       else
         match (((c.plan .load 64 (laneBit (lowestLane c.S)) (c.address1 a)).andThen (fun c accs => c.checkAperture .load 64 accs)).andThen
             (fun c accs => c.checkDevice accs)).andThen (fun c accs => c.takeLeases accs) with
         | .stop (.trap c t) => .trap c { t with lanes := c.S }
         | .stop r => r
         | .go c accs =>
           match accs with
           | [x] =>
             if x.spot = .off then c.complete accs
             else
               let r : TRecord := BitVec.ofNat 512 (bytesNat (c.accBytes x 64))
               if r.check ≠ 0 then c.tensorTrap d.toNat r.check
               else
                 let own (w : Wave) : Wave :=
                   { w with cursors := w.cursors.filter fun y => y.id ≠ d.toNat, spilledCursors := w.spilledCursors.filter fun y => y ≠ d.toNat }
                 .done { c with s := c.s.setTensor c.g.ctx d.toNat (some r), g := { c.g with waves := c.g.waves.map own }, w := own c.w }
           | _ => .done c)

/-- TREL (0xA1). -/
def execTrel (d : Selector) (s : State) : Host.Outcome State Fault Refusal :=
  issue (.trel d) anyType s fun c =>
    c.once
      (if c.tag ≠ 0 then .trap c ⟨causeFutEffect, 0, 0, c.act⟩
       else
         let own (w : Wave) : Wave :=
           { w with cursors := w.cursors.filter fun y => y.id ≠ d.toNat, spilledCursors := w.spilledCursors.filter fun y => y ≠ d.toNat }
         .done { c with s := c.s.setTensor c.g.ctx d.toNat none, g := { c.g with waves := c.g.waves.map own }, w := own c.w })

/-- TCUR (0xA2). -/
def execTcur (d : Selector) (a : Reg) (s : State) : Host.Outcome State Fault Refusal :=
  issue (.tcur d a) anyType s fun c =>
    c.once (c.withTensor d.toNat fun c _ =>
      .done { c with w := c.w.setCursor { c.w.cursor d.toNat with c0 := c.valAt a 0 0, c1 := c.valAt a 1 0 } })

/-- TCURHI (0xA3). -/
def execTcurhi (d : Selector) (a : Reg) (s : State) : Host.Outcome State Fault Refusal :=
  issue (.tcurhi d a) anyType s fun c =>
    c.once (c.withTensor d.toNat fun c _ =>
      .done { c with w := c.w.setCursor { c.w.cursor d.toNat with c2 := c.valAt a 0 0, c3 := c.valAt a 1 0 } })

/-- The value of TQUERY's field (R242). -/
def queryValue (r : TRecord) (x : Cursor) (field : Nat) : Word :=
  match field with
  | 0 => BitVec.ofNat 32 r.format
  | 1 => BitVec.ofNat 32 r.ndims
  | 2 => BitVec.ofNat 32 (r.dim 0)
  | 3 => BitVec.ofNat 32 (r.dim 1)
  | 4 => BitVec.ofNat 32 (r.dim 2)
  | 5 => BitVec.ofNat 32 (r.dim 3)
  | 6 => x.c0
  | 7 => x.c1
  | 8 => x.c2
  | 9 => x.c3
  | 10 => BitVec.ofNat 32 r.layout
  | 11 => BitVec.ofNat 32 r.srcClass
  | 12 => BitVec.ofNat 32 (r.landEn.toNat * 256 + r.landTeam)
  | _ => BitVec.ofNat 32 r.link

/-- TQUERY (0xAA): field 14 never traps. -/
def execTquery (d : Reg) (a b : Selector) (s : State) : Host.Outcome State Fault Refusal :=
  issue (.tquery d a b) anyType s fun c =>
    c.once
      (if b = 14#8 then .done (c.putOnce d (if (c.tensor a.toNat).isSome then 1#32 else 0#32))
       else c.withTensor a.toNat fun c r => .done (c.putOnce d (queryValue r (c.w.cursor a.toNat) b.toNat)))

end Sys2Proof.Machine
end

