-- ==== Sys2Proof/Machine/Engines.lean ====
section
/-!
DEFINITION. Sys2Proof/Machine/Engines.lean: how engine operations meet memory and their wave: reads and writes of an engine
(R243 to R245, R250, R251, R307, R308, R457, R458), indivisible additions (R249, R260), counters, errors and landing teams.
-/

namespace Sys2Proof.Machine

open Sys2Proof

/-- The party that an engine operation acts as: its number, its wave, its context and its future. The front end acts as one when it
performs a deferred addition. -/
structure Eng where
  id : Nat
  g : Nat
  w : Nat
  ctx : Nat
  tag : Nat
  who : Waiter := .engine id
deriving DecidableEq, Repr

def Eng.die (e : Eng) : Nat := dieOfGroup e.g
def Eng.core (e : Eng) : Nat := coreOfGroup e.g
def Eng.front (e : Eng) : Bool := e.g == frontParty
/-- Its request in the queue of a line. -/
def Eng.request (e : Eng) : Request := .engine e.id

/-- The die whose firmware serves the party's fault at an address, and the controller that translates for it (R413, R415). -/
def State.engDie (s : State) (e : Eng) (va : Nat) : Nat := if e.front then s.readyDie else faultDie va
def Eng.controller (e : Eng) (va : Nat) : Nat := if e.front then 12 else controllerOf e.ctx va

/-- Where a byte of an engine's operand stands: memory, a scratchpad byte of a group, beyond a group's scratch (R457), out of reach
(R458), or the engine must wait. -/
inductive EngSpot where
  | memory (t : Translation) (pa : Nat)
  | scratch (gk off : Nat)
  | beyond
  | fails
  | waits (s : State)
deriving DecidableEq, Repr

/-- The group at a gang position of a group's gang (R15). -/
def State.gangMate (s : State) (gk j : Nat) : Option Nat :=
  match s.groups.find? gk with
  | none => none
  | some g =>
    if j = g.j then some gk
    else
      match g.launch with
      | none => none
      | some l => (List.find? (fun (x : Nat × Group) => x.2.launch == some l && x.2.gang == g.gang && x.2.j == j) s.groups).map (·.1)

/-- A scratch byte of a group, when it lies within the declared scratch. -/
def State.scratchSpotOf (s : State) (gk : Option Nat) (off : Nat) : EngSpot :=
  match gk with
  | none => .beyond
  | some k =>
    match s.groups.find? k with
    | some g => if off < g.scratchBytes then .scratch k off else .beyond
    | none => .beyond

/-- Where an engine finds an address. A page that is not resident queues a fault that delays the operation (R251); registers of the
device are out of an engine's reach. -/
def State.engSpot (s : State) (e : Eng) (va kind : Nat) (needR needW : Bool) : EngSpot :=
  match regionOf va with
  | .outside _ => .fails
  | .aperture .scratch off => s.scratchSpotOf (some e.g) off
  | .aperture .hive off => s.scratchSpotOf (s.gangMate e.g (off / 0x40000)) (off % 0x40000)
  | .aperture _ _ => .fails
  | .memory =>
    match s.fill e.ctx va (e.controller va) with
    | .fault type leaf bits =>
      if s.refused.any fun r => r.holds e.who e.ctx va then .fails
      else if e.front && type ≠ 2 then .fails
      else .waits (s.queueFault (s.engDie e va) e.ctx va e.tag kind type leaf bits (e.controller va) e.who)
    | .ok t =>
      let pa := t.pa va
      if (needR && !t.read) || (needW && !t.write) then .fails
      else
        match s.reach pa, s.bar0Offset pa with
        | .window _, _ => .fails
        | _, some _ => .fails
        | .gddr card _, none =>
          if card = s.ownCard then .memory t pa
          else
            match s.peer card with
            | .up => .memory t pa
            | .retraining => .waits s
            | .down => .fails
        | _, none => .memory t pa

/-! ## Reading -/

/-- The addresses that values read, each once, and the lines of addresses. -/
def addrsOf (bs : List Bits) : List Nat := bs.foldl (fun as b => b.addrs.foldl (fun as a => insertNew a as) as) []
def linesOf (as : List Nat) : List Nat := as.foldl (fun ls a => insertNew (a / 128) ls) []

/-- What an engine reads by line of the address space: it waits, or where each line stands. -/
inductive EngRead where
  | waits (s : State)
  | ok (s : State) (spots : List (Nat × EngSpot))

/-- An engine's read waits in the queue of a line; a line that another core owns is recalled. -/
def State.engAsk (s : State) (e : Eng) (line : Nat) : State :=
  let s := if e.front then s else s.enqueue line e.request
  if (s.line line).owner.any fun o => o != e.core then s.postOnce (.ownershipRecall line) else s

/-- Find the lines that an engine reads: their homes must serve the read, each in its turn (R100, R104, R420). -/
def State.engLines (s : State) (e : Eng) : List Nat → EngRead
  | [] => .ok s []
  | n :: rest =>
    match s.engSpot e (n * 128) 1 true false with
    | .waits s' => .waits s'
    | .memory t pa =>
      let line := lineOf (s.viewPlace e.tag t pa)
      if (s.leased line e.core && !capBlocks (s.line line) e.g e.w) || s.readServed line e.core e.g e.w t.page (s.firstAt line e.request) then
        match ((s.keepTranslation e.ctx (n * 128)).unqueue line e.request).engLines e rest with
        | .ok s' xs => .ok s' ((n, .memory t pa) :: xs)
        | r => r
      else .waits (s.engAsk e line)
    | spot =>
      match s.engLines e rest with
      | .ok s' xs => .ok s' ((n, spot) :: xs)
      | r => r

/-- Where the line of an address stands. -/
def spotOf (spots : List (Nat × EngSpot)) (va : Nat) : EngSpot :=
  match spots.find? fun (x : Nat × EngSpot) => x.1 == va / 128 with
  | some x => x.2
  | none => .fails

/-- The byte of an address, once its line is found: what cannot be read reads as 0, and so does a granule that is not valid (R308). -/
def State.engByte (s : State) (e : Eng) (spots : List (Nat × EngSpot)) (va : Nat) : Byte :=
  match spotOf spots va with
  | .memory t pa => s.readByte e.die (s.viewPlace e.tag t pa + va % 128)
  | .scratch gk off =>
    match s.groups.find? gk with
    | some g => if granuleValid g (off / 128) && off + va % 128 < g.scratchBytes then Tab.get 0#8 g.scratch (off + va % 128) else 0#8
    | none => 0#8
  | _ => 0#8

/-- Whether an address could not be read at all, or lies beyond a group's scratch. -/
def engFailed (spots : List (Nat × EngSpot)) (va : Nat) : Bool := spotOf spots va == .fails
def State.engBeyond (s : State) (spots : List (Nat × EngSpot)) (va : Nat) : Bool :=
  match spotOf spots va with
  | .beyond => true
  | .scratch gk off => (match s.groups.find? gk with | some g => g.scratchBytes ≤ off + va % 128 | none => true)
  | _ => false

/-! ## Writing -/

/-- A byte that an engine writes: its address, which of its bits, and their values. -/
structure EngByte where
  va : Nat
  mask : Byte
  byte : Byte
deriving DecidableEq, Repr

def EngByte.onto (b : EngByte) (old : Byte) : Byte := (old &&& ~~~b.mask) ||| (b.byte &&& b.mask)

/-- The outcome of an engine's write to one line: written, but for bytes beyond a group's scratch; `squashed` is a future whose version
fits nowhere (R111). -/
inductive EngWrite where
  | waits (s : State)
  | ok (s : State) (beyond : Bool)
  | fails
  | squashed (s : State)

/-- The place an engine writes: its future's own version, or the trunk. -/
def Eng.place (e : Eng) (pa : Nat) : Nat := if e.tag ≠ 0 then memPlace e.tag pa else memPlace 0 pa

/-- A line of memory that an engine is about to write: in the die's own copy under software management (R425), at the home once it
serves the write in its turn, in a future's version once that can be made (R110, R427); else it joins the line's queue, and what stands
against it is asked to go (R102). The front end, which adds for a future, only asks. -/
inductive Ready where
  | home (s : State)
  | guest
  | wait (s : State)
  | full

def State.lineReady (s : State) (e : Eng) (t : Translation) (line : Nat) : Ready :=
  let tag := placeTag (line * 128)
  let trunk := line % 2 ^ 45
  let at_ := s.writeLine line
  if tag = 0 && t.page = .plain && s.softLine line && homeDie line ≠ e.die && !e.front then .guest
  else if tag ≠ 0 && !s.ownVersion tag line && !s.versionFits trunk then .full
  else if (capMine (s.line at_) e.g e.w || s.firstAt at_ e.request) && (tag = 0 || s.versionReady tag trunk) && s.writeServed line e.g e.w then
    .home ((if tag = 0 then s else s.createVersion tag line).unqueue at_ e.request)
  else if e.front then .wait ((s.requestExclusive at_).requestExclusive line)
  else .wait (s.askLine at_ e.core e.request)

/-- The place of a byte of a line. -/
def placeAt (line va : Nat) : Nat := line * 128 + va % 128

/-- Bytes of one line perform for an engine. Its replicas' updates are no accesses of the wave (R188). -/
def State.engPerform (s : State) (e : Eng) (t : Translation) (line : Nat) (bytes : List EngByte) : State :=
  let bs := bytes.map fun b => (placeAt line b.va, b.onto (s.byteAt (placeAt line b.va)))
  let s := s.performWrite e.id e.g (if e.front then e.w else e.w + 64) t.page bs
  { s with guestCopies := bs.foldl (fun g y =>
      if (g.find? (guestKey e.die y.1)).isSome then g.set (guestKey e.die y.1) y.2.toNat else g) s.guestCopies }

/-- Write bytes of one line of the address space. -/
def State.engWrite (s : State) (e : Eng) (bytes : List EngByte) : EngWrite :=
  match bytes with
  | [] => .ok s false
  | b :: _ =>
    match s.engSpot e (b.va / 128 * 128) 2 false true with
    | .waits s' => .waits s'
    | .beyond => .ok s true
    | .fails => .fails
    | .scratch gk off =>
      match s.groups.find? gk with
      | none => .ok s true
      | some g =>
        let inside := bytes.filter fun b => off + b.va % 128 < g.scratchBytes
        let old (b : EngByte) : Byte := Tab.get 0#8 g.scratch (off + b.va % 128)
        let scratch := g.scratch.putAll 0#8 (inside.map fun b => (off + b.va % 128, b.onto (old b)))
        .ok { s with groups := s.groups.set gk { g with scratch := scratch } } (decide (inside.length < bytes.length))
    | .memory t pa =>
      if e.tag ≠ 0 && t.page ≠ .ver then .fails
      else
        let line := lineOf (e.place pa)
        match s.lineReady e t line with
        | .wait s' => .waits s'
        | .full => .squashed (s.squash e.tag 4)
        | .guest => .ok (s.writeGuest e.die (bytes.map fun b => (placeAt line b.va, b.onto (s.readByte e.die (placeAt line b.va))))) false
        | .home s' => .ok ((s'.keepTranslation e.ctx b.va).engPerform e t line bytes) false

/-! ## Granules (R93, R250, R307) -/

/-- Change the granule of a group that an address of the scratch or hive-local aperture names. -/
def State.onGranule (s : State) (gk va : Nat) (f : Group → Nat → Group) : State :=
  let spot :=
    match regionOf va with
    | .aperture .scratch off => s.scratchSpotOf (some gk) off
    | .aperture .hive off => s.scratchSpotOf (s.gangMate gk (off / 0x40000)) (off % 0x40000)
    | _ => .beyond
  match spot with
  | .scratch k off =>
    match s.groups.find? k with
    | some g => { s with groups := s.groups.set k (f g (off / 128)) }
    | none => s
  | _ => s

/-- The bytes of a granule that holds nothing valid read as 0 from here on. -/
def Group.clearGranule (g : Group) (i : Nat) : Group := { g with scratch := g.scratch.keep fun k _ => k / 128 ≠ i }

/-- A copy is issued into the granule: `landing` is set; a granule that is neither valid nor landing starts from zeros. -/
def Group.startLanding (g : Group) (i : Nat) : Group :=
  let x := Tab.get 0 g.granules i
  let g := if x = 0 then g.clearGranule i else g
  { g with granules := g.granules.put 0 i (if bitOf x 0 then 3 else 2) }

/-- The last byte of a copy for the granule has landed: `landing` is cleared though another copy may be outstanding (DEDUCED, log entry 113). -/
def Group.endLanding (g : Group) (i : Nat) : Group := { g with granules := g.granules.put 0 i 1 }

/-- A copy stops with the granule unfinished: `landing` clears and `valid` stays (R458). -/
def Group.stopLanding (g : Group) (i : Nat) : Group := { g with granules := g.granules.put 0 i (if granuleValid g i then 1 else 0) }

/-- A drain is about to write the granule: its first write zeroes the other bytes, and `valid` is set (R307). What lies beyond the
group's scratch is dropped and touches no granule (R457). -/
def Group.drainInto (g : Group) (i : Nat) : Group :=
  if granuleValid g i then g
  else { g.clearGranule i with granules := g.granules.put 0 i (Tab.get 0 g.granules i + 1) }

/-! ## Additions (R249, R260) -/

/-- The rounding of an engine that adds or converts: rsr acts as rne (R73). -/
def engineRounding (m : ModeImage) : Rounding := ⟨if modeRound m = 5 then 0 else modeRound m, modeSat m, modeFtz m, none⟩

/-- An element of a target format after an addition: SCATA's of a value of the same format, computed as AADD (R191), or MDRAINA's of
a tile's word (R260). -/
def addInto (format : Nat) (kind : AddKind) (m : ModeImage) (old x : Nat) : Nat :=
  let r := engineRounding m
  match formatElem format, kind with
  | .float f, .same => addElem (.float f) (atomicRounding (modeRound m) (modeFtz m)) old x 0
  | .float f, .int =>
    let v := signedOf 32 x
    f.round r (fvSum (r.round == 3) [f.value r.ftz old, .fin (decide (v < 0)) v.natAbs 1])
  | .float f, .float => f.round r (fvSum (r.round == 3) [f.value r.ftz old, fmtF32.value r.ftz x])
  | .int _ _, .float =>
    match fmtF32.value r.ftz x with
    | .nan => 0
    | .inf neg => if neg then 2 ^ 31 else 2 ^ 31 - 1
    | .fin n a b =>
      let o := signedOf 32 old
      match fvSum false [.fin (decide (o < 0)) o.natAbs 1, .fin n a b] with
      | .fin n a b => reduceInt true 32 r.sat (r.toInt n (.quot a b))
      | _ => 0
  | .int _ _, _ => reduceInt true 32 r.sat (signedOf 32 old + signedOf 32 x)

/-- Bytes of an element that is added to, with their places: in memory of a line, or in a scratchpad. -/
structure AddSpot where
  va : Nat
  word : Word
  spots : List EngSpot
deriving DecidableEq, Repr

/-- The outcome of an indivisible addition: how many bytes were written, and whether any were dropped beyond a scratchpad or out of
reach. -/
inductive AddRead where
  | waits (s : State)
  | squashed (s : State)
  | ok (s : State) (written : Nat) (beyond failed : Bool)

/-- Find every byte that an addition touches. -/
def State.addSpots (s : State) (e : Eng) (size : Nat) : List (Nat × Word) → (State × Bool × List AddSpot)
  | [] => (s, false, [])
  | (va, x) :: rest =>
    let found := (List.range size).map fun i => s.engSpot e ((va + i) % 2 ^ 64) 3 true true
    match found.findSome? fun f => match f with | .waits s' => some s' | _ => none with
    | some s' => (s', true, [])
    | none =>
      let (s, w, ys) := s.addSpots e size rest
      (s, w, ⟨va, x, found⟩ :: ys)

/-- The elements that an operation adds on a DEFER page go into the entry that it took at issue (R116). -/
def Effect.fill (op : Nat) (values : List (Nat × Word)) (x : Effect) : Effect :=
  match x with
  | .adds o format kind mode old => if o = op then .adds o format kind mode (old ++ values) else x
  | _ => x

/-- Whether one of the addresses lies on a DEFER page, for a future. -/
def Ctx.defers (c : Ctx) (as : List Nat) : Bool :=
  c.tag ≠ 0 && as.any fun va =>
    match regionOf va, c.s.translate c.g.ctx va with
    | .memory, .ok t => t.fut == 2
    | _, _ => false

/-- A SCATA or MDRAINA of a future that adds on a DEFER page takes one deferred entry, in the wave's program order (R116, R118). -/
def Ctx.deferAdds (c : Ctx) (as : List Nat) (op format : Nat) (kind : AddKind) (mode : ModeImage) (body : Ctx → Res) : Res :=
  if !c.defers as then body c
  else
    match c.defer (.adds op format kind mode []) with
    | .done c => body c
    | r => r

/-- Add to elements as one indivisible update: every line of memory is ready before anything is written. A future's elements on a
DEFER page go into its deferred entry (R118). SCATA adds nothing from the first element on that it cannot write (R251, R458). -/
def State.addAll (s : State) (e : Eng) (format : Nat) (kind : AddKind) (mode : ModeImage) (items : List (Nat × Word)) : AddRead :=
  let size := elementBits format / 8
  let (s, waits, xs) := s.addSpots e size items
  if waits then .waits s
  else
    let bad (f : EngSpot) : Bool := match f with | .fails => true | .memory t _ => e.tag ≠ 0 && t.page ≠ .ver && t.fut ≠ 2 | _ => false
    let later (f : EngSpot) : Bool := match f with | .memory t _ => e.tag ≠ 0 && t.page ≠ .ver | _ => false
    let failed := xs.any fun x => x.spots.any bad
    let xs := if kind = .same then xs.takeWhile fun x => !(x.spots.any bad) else xs
    let beyond := xs.any fun x => x.spots.any fun f => f == .beyond
    let good := xs.filter fun x => !(x.spots.any bad) && !(x.spots.any fun f => f == .beyond)
    let deferred := good.filter fun x => x.spots.any later
    let now := good.filter fun x => !(x.spots.any later)
    let lines := now.foldl (fun (ls : List (Nat × Translation)) x => x.spots.foldl (fun ls f =>
      match f with
      | .memory t pa => insertNew (lineOf (e.place pa), t) ls
      | _ => ls) ls) []
    let states := lines.map fun l => s.lineReady e l.2 l.1
    if states.any fun r => match r with | .full => true | _ => false then .squashed (s.squash e.tag 4)
    else if states.any fun r => match r with | .wait _ => true | _ => false then
      -- it waits at one line at a time, the lowest that is not ready, and gives up its places behind it
      let first := lines.foldl (fun (n : Nat) l => match s.lineReady e l.2 l.1 with | .wait _ => min n l.1 | _ => n) (2 ^ 60)
      .waits (lines.foldl (fun (s : State) l =>
        if l.1 = first then (match s.lineReady e l.2 l.1 with | .wait s' => s' | _ => s)
        else if first < l.1 then s.unqueue (s.writeLine l.1) e.request else s) s)
    else
      let s := lines.foldl (fun (s : State) l => match s.lineReady e l.2 l.1 with | .home s' => s' | _ => s) s
      let s := now.foldl (fun (s : State) x =>
        let place (i : Nat) : Nat :=
          match x.spots.getD i .fails with
          | .memory _ pa => e.place pa
          | .scratch gk off => scratchPlace gk off
          | _ => 0
        let read (s : State) (p : Nat) : Byte :=
          if isScratch p then
            (match s.groups.find? (placeGroup p) with | some g => if granuleValid g (placeOffset p / 128) then s.byteAt p else 0#8 | none => 0#8)
          else s.readByte e.die p
        let old := bytesNat ((List.range size).map fun i => read s (place i))
        let new := natBytes size (addInto format kind mode old x.word.toNat)
        (List.range size).foldl (fun (s : State) i =>
          match x.spots.getD i .fails with
          | .memory t pa =>
            let line := lineOf (e.place pa)
            let b : EngByte := ⟨pa, 0xFF#8, new.getD i 0#8⟩
            match s.lineReady e t line with
            | .guest => s.writeGuest e.die [(e.place pa, new.getD i 0#8)]
            | _ => s.engPerform e t line [b]
          | .scratch gk off =>
            match s.groups.find? gk with
            | some g => { s with groups := s.groups.set gk ((g.drainInto (off / 128)).writeScratch off [new.getD i 0#8]) }
            | none => s
          | _ => s) s) s
      let written := size * (now.length + deferred.length)
      let t := s.tag e.tag
      let s := if deferred = [] then s else s.setTag e.tag { t with effects := t.effects.map (Effect.fill e.id (deferred.map fun x => (x.va, x.word))) }
      .ok s written beyond failed

/-! ## Counters, errors, landing teams -/

/-- Change a wave. -/
def State.onWave (s : State) (gk wi : Nat) (f : Wave → Wave) : State :=
  match s.groups.find? gk with
  | none => s
  | some g =>
    match g.waves[wi]? with
    | none => s
    | some w => { s with groups := s.groups.set gk (g.setWave wi (f w)) }

/-- A counted operation has completed (R225, R245). -/
def State.countDownClass (s : State) (gk wi cls : Nat) : State :=
  s.onWave gk wi fun w => { w with counts := w.counts.put 0 cls (Tab.get 0 w.counts cls - 1) }

/-- Whether the instruction must wait before it counts: the counter would reach 64; a slot that waits goes on at 62 (R245). -/
def Ctx.counterWaits (c : Ctx) (cls : Nat) : Bool :=
  let n := Tab.get 0 c.w.counts cls
  63 ≤ n || (c.p.wait = .engine && 62 < n)

/-- Count an operation. -/
def Ctx.countUp (c : Ctx) (cls : Nat) : Ctx := { c with w := { c.w with counts := c.w.counts.put 0 cls (Tab.get 0 c.w.counts cls + 1) } }

/-- Count an error of an engine operation against its launch (R342). -/
def State.countError (s : State) (gk : Nat) (f : Tally → Tally) : State :=
  match s.groups.find? gk with
  | some g =>
    match g.launch with
    | some l => { s with launches := s.launches.mapVals fun k (x : Launch) => if k = l then { x with tally := f x.tally } else x }
    | none => s
  | none => s

def State.copyError (s : State) (gk : Nat) : State := s.countError gk fun t => { t with copyErrors := t.copyErrors + 1 }

/-- Landed bytes leave a team's pending count, and its phase may end (R218, R252, R309). -/
def State.landed (s : State) (gk team n : Nat) : State :=
  match s.groups.find? gk with
  | some g =>
    match g.launch with
    | some l =>
      match s.team l team with
      | some t => (s.setTeam l team { t with pending := t.pending - BitVec.ofNat 32 n }).settleTeam l team
      | none => s
    | none => s
  | none => s

/-- Whether the wave's accesses that were issued before an operation have been performed (R244). -/
def State.earlierDone (s : State) (gk wi id : Nat) : Bool :=
  !(s.posted.any fun p => p.g == gk && p.w == wi && p.id < id) && !(s.lags.any fun r => r.g == gk && r.w == wi && r.id < id) &&
    !s.commitPending gk wi id

/-- An engine's next step: at once, or behind an instruction of some path. -/
def State.proceed (s : State) (i : Instr) : State :=
  if Config.freeChoice s.free s.serial then { s with agenda := s.agenda ++ [.pick, .event i] } else s.post i

/-! ## Checks at issue (R251, R457, R118) -/

/-- What an operand's address meets at issue: PROTECTION for the register and save-slot apertures and for addresses that no window
holds. -/
def addressTrap (lanes : LaneMask) (va : Nat) : Option Trap :=
  match regionOf va with
  | .outside n => some ⟨causeProtection, n, va, lanes⟩
  | .aperture .registers _ | .aperture .save _ => some ⟨causeProtection, 6, va, lanes⟩
  | _ => none

/-- The party that waits at issue for a page of a future's engine write: no path traps when its service fails (R458). -/
def Ctx.issuing (c : Ctx) : Waiter := .issuing c.gk c.wi c.slotB

/-- What a future's engine write meets at issue (R118): the page is waited for, a cause, or nothing. `adds` says that a DEFER page takes
it as a deferred entry. A page whose service has failed is met again by the operation itself, as it reaches it (R458). -/
inductive FutureCheck where
  | ok
  | waits (s : State) (va : Nat)
  | trap (t : Trap)

def Ctx.futureCheck (c : Ctx) (adds : Bool) : List Nat → FutureCheck
  | [] => .ok
  | va :: rest =>
    if c.tag = 0 || regionOf va ≠ .memory then c.futureCheck adds rest
    else
      match c.s.fill c.g.ctx va (controllerOf c.g.ctx va) with
      | .fault type leaf bits =>
        if c.s.refused.any fun r => r.holds c.issuing c.g.ctx va then c.futureCheck adds rest
        else .waits (c.s.queueFault (faultDie va) c.g.ctx va c.tag 6 type leaf bits (controllerOf c.g.ctx va) c.issuing) va
      | .ok t =>
        if c.s.remote (t.pa va) then .trap ⟨causeFutRemote, 0, va, c.act⟩
        else if t.repl || t.fut = 0 then .trap ⟨causeFutUnversioned, 0, va, c.act⟩
        else if t.fut = 2 && !adds then .trap ⟨causeFutEffect, 0, va, c.act⟩
        else c.futureCheck adds rest

/-- The checks of an engine operation's operands at issue: destination before source (R243). -/
def Ctx.checkOperands (c : Ctx) (adds : Bool) (dst src : List Nat) (body : Ctx → Res) : Res :=
  match dst.findSome? (addressTrap c.act) with
  | some t => .trap c t
  | none =>
    match c.futureCheck adds dst with
    | .waits s va => .wait { c with s := s, p := { c.p with faultAt := va } } .fault
    | .trap t => .trap c t
    | .ok =>
      match src.findSome? (addressTrap c.act) with
      | some t => .trap c t
      | none => body { c with s := c.s.forgive c.issuing }

end Sys2Proof.Machine
end

