-- ==== Sys2Proof/Machine/Teams.lean ====
section
/-!
DEFINITION. Sys2Proof/Machine/Teams.lean: the barriers and reductions of teams (R217 to R221), the register window (R222, R223), the
early point and engine counters (R224, R225).
-/

namespace Sys2Proof.Machine

open Sys2Proof

/-- What a team instruction does for a member: the launch, the team, and the wave as a member. Inside a transaction it is not
allowed (R207); a wave that is no member traps (R21). -/
def Ctx.member (c : Ctx) (id : Nat) (body : Nat → Team → Nat × Nat → Res) : Res :=
  let me := (c.g.linear, c.wi)
  if c.txLanes ≠ 0#32 then .unsupported c
  else
    match c.g.launch with
    | none => .trap c ⟨causeNotMember, id, 0, c.act⟩
    | some l =>
      match c.s.team l id with
      | none => .trap c ⟨causeNotMember, id, 0, c.act⟩
      | some t => if me ∈ t.members then body l t me else .trap c ⟨causeNotMember, id, 0, c.act⟩

/-- Record an arrival, one for each wave and phase, with the number up to which the wave's accesses come before it; the first of a phase
starts the watchdog's age (R23, R219, R374). -/
def Team.arrival (t : Team) (me : Nat × Nat) (mark : Nat) : Team :=
  if t.arrived.contains me then t else { t with arrived := insertNew me t.arrived, marks := t.marks ++ [(me.1, me.2, mark)] }
def Ctx.arrive (c : Ctx) (l id : Nat) (t : Team) (me : Nat × Nat) : Ctx :=
  { c with s := (c.s.setTeam l id (t.arrival me c.s.serial)).settlePhase l id }

/-- The key of a path's wait at a barrier. -/
def Ctx.waitKey (c : Ctx) (id : Nat) : Nat := id * 2 + c.slotB.toNat

/-- The current phase of a team. -/
def State.phase (s : State) (l id : Nat) : Word := match s.team l id with | some t => t.phase | none => 0#32

/-- BARW (0x85). Behind the end of the phase, the wave's loads return nothing older (R219). -/
def execBarw (b : Selector) (s : State) : Host.Outcome State Fault Refusal :=
  issue (.barw b) anyType s fun c =>
    c.member b.toNat fun l t me =>
      let key := c.waitKey b.toNat
      match (if c.p.wait = .barrier then c.w.arrived.find? fun x => x.1 == key else none) with
      | some (_, ph) =>
        if t.phase = ph then .wait c .barrier
        else .done { c with w := { c.w with arrived := c.w.arrived.filter fun x => x.1 ≠ key } }.acquire
      | none =>
        let c' := c.arrive l b.toNat t me
        if c'.s.phase l b.toNat ≠ t.phase then .done c'.acquire
        else .wait { c' with w := { c.w with arrived := (key, t.phase) :: c.w.arrived.filter fun x => x.1 ≠ key } } .barrier

/-- BARA (0x86): arrives, does not wait, and writes the phase in which the arrival counts. -/
def execBara (d : Reg) (b : Selector) (s : State) : Host.Outcome State Fault Refusal :=
  issue (.bara d b) anyType s fun c =>
    c.member b.toNat fun l t me =>
      .done ((c.arrive l b.toNat t me).putOnce d t.phase)

/-- BARWT (0x87): waits until the phase in kB has ended; in that phase it arrives. -/
def execBarwt (a : Selector) (b : Reg) (s : State) : Host.Outcome State Fault Refusal :=
  issue (.barwt a b) anyType s fun c =>
    c.member a.toNat fun l t me =>
      let delta := t.phase - c.val b 0
      if 2 ^ 31 ≤ delta.toNat then .trap c ⟨causeIllegalOperand, 3, 0, c.act⟩
      else if delta ≠ 0#32 then .done c.acquire
      else
        let c' := c.arrive l a.toNat t me
        if c'.s.phase l a.toNat ≠ t.phase then .done c'.acquire else .wait c' .barrier

/-- BARX (0x88): declares pending bytes. -/
def execBarx (a : Selector) (b : Reg) (s : State) : Host.Outcome State Fault Refusal :=
  issue (.barx a b) anyType s fun c =>
    c.member a.toNat fun l t _ =>
      .done { c with s := (c.s.setTeam l a.toNat { t with pending := t.pending + c.val b 0 }).settlePhase l a.toNat }

/-! ## Reductions -/

/-- The types that the reductions take (R221). -/
def reduceType (m : ModeImage) : Bool := modeType m == 0 || modeType m == 6 || modeType m == 7

/-- Put an arrival into the first round that the wave has not arrived in, or into a new one (R220), whichever slot it comes from (DESIGN
CHOICE, log entry 117); none when that round has another
type. -/
def joinRound (mode : ModeImage) (me : Nat × Nat) (xs : List Word) (taker : Nat × Nat × Nat × LaneMask × Nat) :
    List Reduction → Option (List Reduction)
  | [] => some [{ mode := some mode, arrived := [me], values := xs, takers := [taker] }]
  | r :: rest =>
    if r.arrived.contains me then (joinRound mode me xs taker rest).map fun rs => r :: rs
    else if modeType (r.mode.getD mode) ≠ modeType mode then none
    else some ({ r with arrived := r.arrived ++ [me], values := r.values ++ xs, takers := r.takers ++ [taker] } :: rest)

/-- An arrival at a round of a kind; vD waits in the scoreboard for its result. -/
def Ctx.reduce (c : Ctx) (k : ReduceKind) (d a : Reg) (b : Selector) : Res :=
  c.member b.toNat fun l t me =>
    let xs := (lanesOf c.S).map fun i => c.val a i
    match d with
    | .v n =>
      let id := c.s.serial + 1
      match joinRound c.mode me xs (c.gk, c.wi, n.val, c.S, id) (t.rounds k) with
      | none => .trap c ⟨causeIllegalType, modeType c.mode, 0, c.act⟩
      | some rs => .arrives ({ c with s := c.s.fresh.setTeam l b.toNat (t.setRounds k rs) }.expects [.v n.val] c.S id) l b.toNat
    | _ => .done c

/-- TREDADD (0x89). -/
def execTredadd (d a : Reg) (b : Selector) (s : State) : Host.Outcome State Fault Refusal :=
  issue (.tredadd d a b) reduceType s fun c => c.reduce .sum d a b
/-- TREDMIN (0x8A). -/
def execTredmin (d a : Reg) (b : Selector) (s : State) : Host.Outcome State Fault Refusal :=
  issue (.tredmin d a b) reduceType s fun c => c.reduce .min d a b
/-- TREDMAX (0x8B). -/
def execTredmax (d a : Reg) (b : Selector) (s : State) : Host.Outcome State Fault Refusal :=
  issue (.tredmax d a b) reduceType s fun c => c.reduce .max d a b

/-! ## The register window (R222, R223) -/

/-- Bytes of a core's unified store beside the floor of L1 (R17). -/
def coreStore : Nat := 655360

/-- What the groups of a core hold of it: the windows of their waves as they are, and their scratchpads in units of 4 KiB (R17,
R319). -/
def State.storeUsed (s : State) (core : Nat) : Nat :=
  s.groups.foldl (fun n (x : Nat × Group) =>
    if coreOfGroup x.1 = core then x.2.waves.foldl (fun n w => n + 128 * w.n) (n + roundUp x.2.scratchBytes 4096) else n) 0

/-- GROW (0x8C): the request joins the core's queue; GROW_GRANT completes it. -/
def execGrow (b : Selector) (s : State) : Host.Outcome State Fault Refusal :=
  issue (.grow b) anyType s fun c =>
    if c.txLanes ≠ 0#32 then .unsupported c
    else if 192 < c.w.n + 8 * b.toNat then .trap c ⟨causeIllegalOperand, 3, 0, c.act⟩
    else
      let me := (c.gk, c.wi, c.slotB, b.toNat)
      let s := if c.s.grows.contains me then c.s else { c.s with grows := c.s.grows ++ [me] }
      .wait { c with s := s.postOnce (.growGrant c.gk c.wi c.slotB) } .registers

/-- A wave's window grows by n granules, and the new registers read 0. -/
def Wave.grown (w : Wave) (n : Nat) : Wave :=
  { w with n := w.n + 8 * n, v := w.v.keep fun k _ => k / 32 < w.n || w.n + 8 * n ≤ k / 32 }

/-- GROW_GRANT (R222): the oldest request of a core is granted when its store is free: the window grows and the GROW completes. Where the
wave's other slot has grown the window in the meantime so far that this GROW would pass 192 registers, the request goes and the GROW
traps. First the banks that it needs wake (R318). -/
def execGrowGrant (g w : Nat) (slotB : Bool) (s : State) : Host.Outcome State Fault Refusal :=
  let core := coreOfGroup g
  let again := s.repost (.growGrant g w slotB)
  match s.grows.find? fun r => r.1 == g && r.2.1 == w && r.2.2.1 == slotB, s.pathCtx? g w slotB with
  | some r, some c =>
    let n := r.2.2.2
    if (s.grows.find? fun x => coreOfGroup x.1 == core) ≠ some r || c.g.halted then .next again
    else if 192 < c.w.n + 8 * n then .next { c with s := { s with grows := s.grows.erase r }, p := { c.p with wait := .none } }.putPath
    else if coreStore < s.storeUsed core + 1024 * n then .next again
    else if s.bankWake core (c.w.grown n).n ≠ 0 then
      let s' := (s.wakeBanks core (c.w.grown n).n).gateLater core ((List.range 16).filter fun b => !s.awakeBanks.contains (core * 16 + b))
      .next (s'.after (s.bankWake core (c.w.grown n).n) (.event (.growGrant g w slotB)))
    else
      let s := { c.s with grows := c.s.grows.erase r }.wakeBanks core (c.w.grown n).n
      .next (Ctx.finish (.grow (BitVec.ofNat 8 n)) c (.done { c with s := s, w := c.w.grown n }))
  | _, _ => .next s

/-- A path whose results in flight to registers from n up are dropped. -/
def Path.shrunk (n : Nat) (p : Option Path) : Option Path :=
  match p with
  | some p => some { p with inflight := p.inflight.filter fun e => match e.reg with | .v r => r < n | _ => true }
  | none => none

/-- SHRINK (0x8D): it waits until no result is outstanding to a removed register; contents above the window are lost. -/
def execShrink (b : Selector) (s : State) : Host.Outcome State Fault Refusal :=
  issue (.shrink b) anyType s fun c =>
    let n := c.w.n - 8 * b.toNat
    if c.txLanes ≠ 0#32 then .unsupported c
    else if c.w.n < 8 * b.toNat + 8 then .trap c ⟨causeIllegalOperand, 3, 0, c.act⟩
    else if c.w.scoreboard.any fun o => o.regs.any fun r => match r with | .v x => n ≤ x | _ => false then .wait c .scoreboard
    else
      let w := { c.w with
        n := n
        v := c.w.v.keep fun k _ => k / 32 < n
        dead := c.w.dead.keep fun k _ => k < n
        poison := c.w.poison.filter fun p => match p.reg with | .v r => r < n | _ => true
        slotA := Path.shrunk n c.w.slotA
        slotB := Path.shrunk n c.w.slotB }
      let c' : Ctx := { c with w := w, p := (Path.shrunk n (some c.p)).getD c.p }
      .done { c' with s := c'.s.gateLater c.core (c'.s.banksFreed c'.putWave c.core) }

/-! ## Early point and engine counters -/

/-- EARLYGO (0x8E): the wave is past its early point (R38, R224). -/
def execEarlygo (s : State) : Host.Outcome State Fault Refusal :=
  issue .earlygo anyType s fun c =>
    if c.txLanes ≠ 0#32 then .unsupported c
    else
      match c.g.launch with
      | some l => .done { c with s := c.s.pastEarly l c.g.linear c.wi, w := { c.w with early := true } }
      | none => .done { c with w := { c.w with early := true } }

/-- WAITC (0x8F, R225). -/
def execWaitc (a b : Selector) (s : State) : Host.Outcome State Fault Refusal :=
  issue (.waitc a b) anyType s fun c => if Tab.get 0 c.w.counts a.toNat ≤ b.toNat || b = 63#8 then .done c.acquire else .wait c .engine

end Sys2Proof.Machine
end

