-- ==== Sys2Proof/Machine/Copy.lean ====
section
/-!
DEFINITION. Sys2Proof/Machine/Copy.lean: the copy engine: CPY, CPYT, CPYQ, CPYX, GATH and SCATA (R85 to R87, R246 to R252, R309), the
landing of their bytes and their completion.
-/

namespace Sys2Proof.Machine

open Sys2Proof

/-! ## Block scales (R77, R85, R86) -/

/-- The value of an SC20 scale with 1 ≤ e ≤ 254 as a quotient. -/
def scaleQuot (w : Nat) : Nat × Nat :=
  shiftQuot (4096 + w % 4096) 4096 ((bitsOf w 12 8 : Int) - 127)

/-- An element's exact value: a NaN block's count as NaN, a zero block's as 0 (R86, R87). -/
def expandElem (w : Nat) (q : Int) : FV :=
  let e := bitsOf w 12 8
  if e = 255 then .nan
  else if e = 0 then .fin false 0 1
  else
    let (n, d) := scaleQuot w
    .fin (decide (q < 0)) (q.natAbs * n) d

/-- The smallest SC20 value at or above a positive quotient, within 1 ≤ e ≤ 254 (R85). -/
def scaleAbove (num den : Nat) : Nat :=
  let k := quotLog2 num den
  if k < -126 then 4096
  else
    let (n, d) := shiftQuot num den (12 - k)
    let f := ceilDiv n d - 4096
    let e := (k + 127).toNat + f / 4096
    if 254 < e then 254 * 4096 + 4095 else e * 4096 + f % 4096

/-- One block quantised: its scale word and its elements (R85). -/
def quantise (q : Nat) (xs : List FV) : Nat × List Int :=
  if xs.any fun x => match x with | .fin _ _ _ => false | _ => true then (255 * 4096, xs.map fun _ => 0)
  else
    -- the largest magnitude
    let top := xs.foldl (fun (m : Nat × Nat) x => match x with | .fin _ a b => if m.1 * b < a * m.2 then (a, b) else m | _ => m) (0, 1)
    if top.1 = 0 then (0, xs.map fun _ => 0)
    else
      let w := scaleAbove top.1 (top.2 * q)
      let (n, d) := scaleQuot w
      (w, xs.map fun x =>
        match x with
        | .fin neg a b => min (max ((⟨0, false, false, none⟩ : Rounding).toInt neg (.quot (a * d) (b * n))) (-(q : Int) - 1)) q
        | _ => 0)

/-- Q of a block-scaled format. -/
def scaledTop (format : Nat) : Nat := if format = 8 then 127 else 7

/-! ## What a copy writes -/

/-- One thing that a copy writes at its destination. -/
structure Cell where
  at_ : Bits
  val : Val

def CopyOp.swaps (o : CopyOp) : Bool := o.kind == .cpyt

/-- The box's extents (R246), or the row length of GATH (R248). -/
def CopyOp.extent (o : CopyOp) : Idx :=
  let d := o.dstCur.idx
  let s := o.srcCur.idx
  let len (a b x y : Nat) : Nat := min (o.src.extent a - x) (o.dst.extent b - y)
  let b : Idx :=
    if o.swaps then ⟨len 1 0 s.i1 d.i0, len 0 1 s.i0 d.i1, len 2 2 s.i2 d.i2, len 3 3 s.i3 d.i3⟩
    else ⟨len 0 0 s.i0 d.i0, len 1 1 s.i1 d.i1, len 2 2 s.i2 d.i2, len 3 3 s.i3 d.i3⟩
  if b.i0 = 0 || b.i1 = 0 || b.i2 = 0 || b.i3 = 0 then ⟨0, 0, 0, 0⟩ else b

/-- The destination index of an index of the box, and the source index behind a destination index. -/
def CopyOp.inBox (o : CopyOp) (x : Idx) : Bool :=
  let d := o.dstCur.idx
  let e := o.extent
  d.i0 ≤ x.i0 && x.i0 < d.i0 + e.i0 && d.i1 ≤ x.i1 && x.i1 < d.i1 + e.i1 && d.i2 ≤ x.i2 && x.i2 < d.i2 + e.i2 &&
    d.i3 ≤ x.i3 && x.i3 < d.i3 + e.i3
def CopyOp.sourceOf (o : CopyOp) (x : Idx) : Idx :=
  let d := o.dstCur.idx
  let s := o.srcCur.idx
  let r0 := x.i0 - d.i0
  let r1 := x.i1 - d.i1
  if o.swaps then ⟨s.i0 + r1, s.i1 + r0, s.i2 + (x.i2 - d.i2), s.i3 + (x.i3 - d.i3)⟩
  else ⟨s.i0 + r0, s.i1 + r1, s.i2 + (x.i2 - d.i2), s.i3 + (x.i3 - d.i3)⟩

/-- The exact value of a source element, with its block's scale, for quantising. -/
def CopyOp.exact (o : CopyOp) (w q : Nat) : FV :=
  match formatElem o.src.format with
  | .float f => f.value false q
  | .int signed n => expandElem w (intValue signed n q)

/-- Whether the copy forms new blocks (R85, R87). -/
def CopyOp.quantises (o : CopyOp) : Bool := o.kind == .cpyq || (o.kind == .cpyt && formatScaled o.src.format)

/-- The elements of the box in the block of a destination element, ascending. A block that the box covers in part is formed of these alone,
and its other elements keep their bits (DESIGN CHOICE, log entry 112). -/
def CopyOp.blockOf (o : CopyOp) (x : Idx) : List Idx :=
  ((List.range 32).map fun i => { x with i0 := x.i0 / 32 * 32 + i }).filter o.inBox

/-- The block of a destination element, quantised: the scale and the elements. -/
def CopyOp.quantised (o : CopyOp) (x : Idx) (pick : Nat × List Int → Nat) : Val :=
  let xs := o.blockOf x
  .all (xs.map fun y => .all [o.src.scale (o.sourceOf y), o.src.elem (o.sourceOf y)] fun vs => vs.getD 0 0 + 2 ^ 20 * vs.getD 1 0)
    fun vs => pick (quantise (scaledTop o.dst.format) (vs.map fun v => o.exact (v % 2 ^ 20) (v / 2 ^ 20)))

/-- The element of the box at a destination index, as the destination stores it. -/
def CopyOp.element (o : CopyOp) (x : Idx) : Val :=
  let s := o.sourceOf x
  if o.quantises then
    let i := (o.blockOf x).findIdx fun y => y == x
    o.quantised x fun b => wrapBits (elementBits o.dst.format) (b.2.getD i 0)
  else if o.kind == .cpyx then
    match formatElem o.dst.format with
    | .float f =>
      .all [o.src.scale s, o.src.elem s] fun vs =>
        f.round ⟨0, false, false, none⟩ (expandElem (vs.getD 0 0) (signedOf (elementBits o.src.format) (vs.getD 1 0)))
    | _ => .const 0
  else o.src.elem s

/-- The scale word of a destination block that holds an element of the box. -/
def CopyOp.scaleWord (o : CopyOp) (x : Idx) : Val :=
  if o.quantises then o.quantised x (·.1)
  else
    match o.blockOf x with
    | y :: _ => o.src.scale (o.sourceOf y)
    | [] => .const 0

/-- The numbers lo, lo + 1, … below hi. -/
def upto (lo hi : Nat) : List Nat := (List.range (hi - lo)).map (lo + ·)

/-- What a copy writes into a linear destination: the box, and the scales of its blocks. -/
def CopyOp.linearCells (o : CopyOp) : List Cell :=
  let d := o.dstCur.idx
  let e := o.extent
  (upto d.i3 (d.i3 + e.i3)).flatMap fun i3 => (upto d.i2 (d.i2 + e.i2)).flatMap fun i2 => (upto d.i1 (d.i1 + e.i1)).flatMap fun i1 =>
    ((upto d.i0 (d.i0 + e.i0)).map fun i0 => (⟨o.dst.place ⟨i0, i1, i2, i3⟩, o.element ⟨i0, i1, i2, i3⟩⟩ : Cell)) ++
      (if formatScaled o.dst.format then
        (upto (d.i0 / 32) (ceilDiv (d.i0 + e.i0) 32)).map fun b => (⟨o.dst.scalePlace ⟨32 * b, i1, i2, i3⟩, o.scaleWord ⟨32 * b, i1, i2, i3⟩⟩ : Cell)
      else [])

/-- The element of the box at an index, or the zero that pads the tile. -/
def CopyOp.padded (o : CopyOp) (x : Idx) : Val := if o.inBox x then o.element x else .const 0

/-- The magnitude of an integer element as its format stores it. -/
def elementSize (format q : Nat) : Nat :=
  match formatElem format with
  | .int signed w => (intValue signed w q).natAbs
  | .float _ => q

/-- The two positions of a group of four that sparse B keeps: the largest magnitudes, the lower position on a tie, ascending (R246). -/
def keptPair (sizes : List Nat) : Nat × Nat :=
  let at_ (i : Nat) : Nat := sizes.getD i 0
  let best (skip : Option Nat) : Nat :=
    ((List.range 4).foldl (fun (m : Option Nat) i =>
      if some i = skip then m
      else
        match m with
        | none => some i
        | some j => if at_ j < at_ i then some i else m) none).getD 0
  let x := best none
  let y := best (some x)
  (min x y, max x y)

/-- What a copy writes for one line of a tile (a row of A, a column of B): every element, codes, scales. -/
def CopyOp.lineCells (o : CopyOp) (k i1 i2 i3 : Nat) : List Cell :=
  let tk := o.dst.tileK
  let at_ (i : Nat) : Idx := ⟨tk * k + i, i1, i2, i3⟩
  let elems :=
    if o.dst.layout = 3 then
      (List.range 32).flatMap fun q =>
        let vs := (List.range 4).map fun i => o.padded (at_ (4 * q + i))
        let kept (xs : List Nat) : Nat × Nat := keptPair (xs.map (elementSize o.dst.format))
        [(⟨o.dst.keptPlace (at_ (4 * q)) 0, .all vs fun xs => xs.getD (kept xs).1 0⟩ : Cell),
         ⟨o.dst.keptPlace (at_ (4 * q)) 1, .all vs fun xs => xs.getD (kept xs).2 0⟩,
         ⟨o.dst.codePlace (at_ (4 * q)) 0, .all vs fun xs => (kept xs).1⟩,
         ⟨o.dst.codePlace (at_ (4 * q)) 1, .all vs fun xs => (kept xs).2⟩]
    else (List.range tk).map fun i => ⟨o.dst.place (at_ i), o.padded (at_ i)⟩
  elems ++
    (if formatScaled o.dst.format then
      (List.range (tk / 32)).map fun b =>
        (⟨o.dst.scalePlace (at_ (32 * b)), if (o.blockOf (at_ (32 * b))) = [] then .const 0 else o.scaleWord (at_ (32 * b))⟩ : Cell)
    else [])

/-- What a copy writes into a blocked destination: every tile that the box touches, padded (R246, R309). -/
def CopyOp.tileCells (o : CopyOp) : List Cell :=
  let d := o.dstCur.idx
  let e := o.extent
  let rows := o.dst.tileRows
  let tk := o.dst.tileK
  if e.i0 = 0 then []
  else
    (upto d.i3 (d.i3 + e.i3)).flatMap fun i3 => (upto d.i2 (d.i2 + e.i2)).flatMap fun i2 =>
      (upto (d.i1 / rows) (ceilDiv (d.i1 + e.i1) rows)).flatMap fun p =>
        (upto (d.i0 / tk) (ceilDiv (d.i0 + e.i0) tk)).flatMap fun k =>
          (List.range rows).flatMap fun i => o.lineCells k (rows * p + i) i2 i3

/-- The rows of GATH (R248). -/
def CopyOp.gatherCells (o : CopyOp) : List Cell :=
  let d := o.dstCur.idx
  let s := o.srcCur.idx
  let n := min (o.src.extent 0 - s.i0) (o.dst.extent 0 - d.i0)
  o.rows.flatMap fun row =>
    let at_ (i : Nat) : Idx := ⟨d.i0 + i, d.i1 + row.1, d.i2, d.i3⟩
    let from_ (i : Nat) : Idx := ⟨s.i0 + i, row.2.toNat, s.i2, s.i3⟩
    if !o.dst.holds (at_ 0) then []
    else
      ((List.range n).map fun i => (⟨o.dst.place (at_ i), o.src.elem (from_ i)⟩ : Cell)) ++
        (if formatScaled o.dst.format then
          (List.range (ceilDiv n 32)).map fun b => (⟨o.dst.scalePlace (at_ (32 * b)), o.src.scale (from_ (32 * b))⟩ : Cell)
        else [])

/-- Everything that an operation writes, SCATA aside. -/
def CopyOp.cells (o : CopyOp) : List Cell :=
  match o.kind with
  | .gath => o.gatherCells
  | .scata => []
  | _ => if o.dst.layout = 0 then o.linearCells else o.tileCells

/-- What SCATA adds, in order: the element of the target, and the source's element (R249). Rows of the target that do not exist are
dropped. -/
def CopyOp.adds (o : CopyOp) : List Cell :=
  let d := o.dstCur.idx
  let s := o.srcCur.idx
  let n := min (o.src.extent 0 - s.i0) (o.dst.extent 0 - d.i0)
  o.rows.flatMap fun row =>
    ((List.range n).map fun i => ((⟨d.i0 + i, row.2.toNat, d.i2, d.i3⟩ : Idx), (⟨s.i0 + i, s.i1 + row.1, s.i2, s.i3⟩ : Idx))).filterMap fun p =>
      if o.dst.holds p.1 then some (⟨o.dst.place p.1, o.src.elem p.2⟩ : Cell) else none

/-- The addresses that an operation writes and reads. -/
def CopyOp.dstAddrs (o : CopyOp) : List Nat := addrsOf ((o.cells ++ (if o.kind == .scata then o.adds else [])).map (·.at_))
def CopyOp.srcAddrs (o : CopyOp) : List Nat := addrsOf ((o.cells ++ (if o.kind == .scata then o.adds else [])).flatMap (·.val.reads))

/-- The 16-byte units of addresses, each once. -/
def unitsOf (as : List Nat) : List Nat := as.foldl (fun us a => insertNew (a / 16) us) []

/-! ## Issue -/

/-- S and W of a source class (R247). -/
def classTimes (cls : Nat) : Nat × Nat :=
  match cls with
  | 0 => (24, 128)
  | 1 => (40, 64)
  | 2 => (80, 64)
  | 3 => (160, 48)
  | 4 => (220, 48)
  | 5 => (400, 32)
  | 6 => (1800, 16)
  | _ => (2400, 16)

/-- Bytes that copies queued earlier on a core's copy engine have yet to write (R247). -/
def State.queuedBytes (s : State) (core : Nat) : Nat :=
  ((s.copies.filter fun o => coreOfGroup o.g == core && o.left != []).map fun o => o.bytes - o.landed).sum

/-- Whether the destination's record is accepted, and the source's (R246, R248, R249, R268). -/
def CopyOp.dstFits (o : CopyOp) : Bool :=
  let d := o.dst.format
  let f := o.src.format
  match o.kind with
  | .cpy => formatPlain d && d == f && !(formatScaled d && o.dstCur.c0.toNat % 32 != 0)
  | .cpyt => formatPlain d && d == f && o.dst.layout != 3
  | .cpyq => formatScaled d && o.dstCur.c0.toNat % 32 == 0
  | .cpyx => d == 1 || d == 3
  | .gath => formatPlain d && d == f && o.dst.layout == 0 && !(formatScaled d && o.dstCur.c0.toNat % 32 != 0)
  | .scata => (d == 1 || d == 2 || d == 3 || d == 0x0C) && d == f && o.dst.layout == 0
def CopyOp.srcFits (o : CopyOp) : Bool :=
  let f := o.src.format
  match o.kind with
  | .cpy => formatPlain f && !(formatScaled f && o.srcCur.c0.toNat % 32 != 0)
  | .cpyt => formatPlain f && o.src.layout != 3
  | .cpyq => formatFloat f
  | .cpyx => formatScaled f && o.srcCur.c0.toNat % 32 == 0
  | .gath => formatPlain f && o.src.layout == 0 && !(formatScaled f && o.srcCur.c0.toNat % 32 != 0)
  | .scata => o.src.layout == 0

/-- Issue an operation: the checks of R243 in their order, the counter's wait, the promise (R247), the landing granules (R250). -/
def Ctx.issueCopy (c : Ctx) (kind : CopyKind) (d : Reg) (dst src : Nat) (dr sr : TRecord) (rows : List (Nat × Word)) : Res :=
  let o : CopyOp :=
    { id := c.s.serial + 1, g := c.gk, w := c.wi, kind := kind, dst := dr, src := sr, dstCur := c.w.cursor dst, srcCur := c.w.cursor src,
      rows := rows, mode := c.mode, ctx := c.g.ctx, tag := c.tag, promise := 0, bytes := 0 }
  if !o.dstFits then c.shapeTrap dst
  else if !o.srcFits then c.shapeTrap src
  else
    let go : Res :=
      c.checkOperands (kind == .scata) o.dstAddrs o.srcAddrs fun c =>
        if c.counterWaits 0 then .wait c .engine
        else
          let bytes := if kind == .scata then (o.adds.map fun x => x.at_.bytes).sum else o.dstAddrs.length
          let lat := (classTimes sr.srcClass).1
          let rate := (classTimes sr.srcClass).2
          let promise := c.s.clk + lat + ceilDiv bytes rate + ceilDiv (c.s.queuedBytes c.core) rate
          let left := if kind == .scata then List.range o.adds.length else unitsOf o.dstAddrs
          let o := { o with promise := promise, bytes := bytes, left := left }
          let go (c : Ctx) : Res :=
            let c := c.countUp 0
            -- the granules of the own group stand in the context's copy
            let s := c.putWave
            let s := if kind == .scata then s else (linesOf o.dstAddrs).foldl (fun (s : State) n => s.onGranule c.gk (n * 128) Group.startLanding) s
            let s := { s.fresh with copies := s.copies ++ [o] }
            let s := s.post (if left = [] then .copyComplete o.id else .copyLanding o.id)
            match s.groups.find? c.gk with
            | some g => .done ({ c with s := s, g := g }.putOnce64 d (BitVec.ofNat 64 promise))
            | none => .done c
          if kind == .scata then c.deferAdds o.dstAddrs o.id o.dst.format .same o.mode go else go c
    if dr.landEn then
      match c.member dr.landTeam fun _ _ _ => .done c with
      | .done _ => go
      | r => r
    else go

/-- A copy between two named tensors: TENSOR_ID for the destination, then for the source (R243). -/
def Ctx.copy (c : Ctx) (kind : CopyKind) (d : Reg) (a b : Selector) : Res :=
  c.once (c.withTensor a.toNat fun c dr => c.withTensor b.toNat fun c sr => c.issueCopy kind d a.toNat b.toNat dr sr [])

/-- CPY (0xA4). -/
def execCpy (d : Reg) (a b : Selector) (s : State) : Host.Outcome State Fault Refusal :=
  issue (.cpy d a b) anyType s fun c => c.copy .cpy d a b

/-- CPYT (0xA5). -/
def execCpyt (d : Reg) (a b : Selector) (s : State) : Host.Outcome State Fault Refusal :=
  issue (.cpyt d a b) anyType s fun c => c.copy .cpyt d a b

/-- CPYQ (0xA6). -/
def execCpyq (d : Reg) (a b : Selector) (s : State) : Host.Outcome State Fault Refusal :=
  issue (.cpyq d a b) anyType s fun c => c.copy .cpyq d a b

/-- CPYX (0xA7). -/
def execCpyx (d : Reg) (a b : Selector) (s : State) : Host.Outcome State Fault Refusal :=
  issue (.cpyx d a b) anyType s fun c => c.copy .cpyx d a b

/-- The row index of each lane of S. -/
def Ctx.laneRows (c : Ctx) (b : Reg) : List (Nat × Word) := (lanesOf c.S).map fun l => (l, c.val b l)

/-- GATH (0xA8): the source is the destination record's `link`. -/
def execGath (d : Reg) (a : Selector) (b : Reg) (s : State) : Host.Outcome State Fault Refusal :=
  issue (.gath d a b) anyType s fun c =>
    c.once (c.withTensor a.toNat fun c dr => c.withTensor dr.link fun c sr =>
      c.issueCopy .gath d a.toNat dr.link dr sr (c.laneRows b))

/-- SCATA (0xA9): the target is the source record's `link`; TENSOR_ID is decided for the target first. -/
def execScata (d : Reg) (a : Selector) (b : Reg) (s : State) : Host.Outcome State Fault Refusal :=
  issue (.scata d a b) anyType s fun c =>
    c.once
      (match c.tensor a.toNat with
       | none => c.tensorTrap a.toNat 0
       | some sr => c.withTensor sr.link fun c dr => c.withTensor a.toNat fun c sr =>
           c.issueCopy .scata d sr.link a.toNat dr sr (c.laneRows b))

/-! ## Landing -/

def CopyOp.eng (o : CopyOp) : Eng := { id := o.id, g := o.g, w := o.w, ctx := o.ctx, tag := o.tag }
def State.setCopy (s : State) (o : CopyOp) : State := { s with copies := replaceFirst (fun x => x.id == o.id) o s.copies }

/-- A copy meets its first error: it counts once (R457, R458). -/
def State.copyFails (s : State) (o : CopyOp) : State := if o.error then s else s.copyError o.g

/-- Overlay a cell on a byte; overlapping cells leave either value (R238). -/
def overlay (free : Nat) (m : Nat → Byte) (va : Nat) (acc : EngByte) (x : Cell) : EngByte :=
  match x.at_.addrs.findIdx? fun a => a == va with
  | none => acc
  | some i =>
    let ones := bytesNat (natBytes x.at_.bytes ((2 ^ x.at_.bits - 1) * 2 ^ x.at_.sh)) / 256 ^ i % 256
    let mask : Byte := BitVec.ofNat 8 ones
    let byte : Byte := BitVec.ofNat 8 (x.val.value m % 2 ^ x.at_.bits * 2 ^ x.at_.sh / 256 ^ i)
    if acc.mask &&& mask ≠ 0#8 && Config.freeChoice free (x.at_.va * 8 + x.at_.sh) then acc
    else ⟨va, acc.mask ||| mask, (acc.byte &&& ~~~mask) ||| (byte &&& mask)⟩

/-- The bytes of one unit that an operation writes, from what it reads. -/
def unitBytes (free : Nat) (m : Nat → Byte) (cells : List Cell) (unit : Nat) : List EngByte :=
  ((List.range 16).map fun i => cells.foldl (overlay free m (16 * unit + i)) ⟨16 * unit + i, 0#8, 0#8⟩).filter fun b => b.mask ≠ 0#8

/-- The cells that touch a unit. -/
def cellsOf (cells : List Cell) (unit : Nat) : List Cell := cells.filter fun x => x.at_.addrs.any fun a => a / 16 == unit

/-- The operation stops: it completes with what it has written (R251, R458). -/
def State.stopCopy (s : State) (o : CopyOp) : State :=
  ((s.copyFails o).setCopy { o with left := [], error := true }).post (.copyComplete o.id)

/-- A unit has landed: its granule may be finished, its bytes leave the landing team's count (R250, R252). -/
def State.unitLanded (s : State) (o : CopyOp) (unit n : Nat) (beyond : Bool) : State :=
  let s := if beyond then s.copyFails o else s
  let o := { o with left := o.left.erase unit, landed := o.landed + n, error := o.error || beyond }
  let s := s.setCopy o
  let s := if o.left.any fun u => u / 8 == unit / 8 then s else s.onGranule o.g (16 * unit) Group.endLanding
  let s := if o.dst.landEn then s.landed o.g o.dst.landTeam n else s
  if o.left = [] then s.post (.copyComplete o.id) else s.proceed (.copyLanding o.id)

/-- The bytes that an operation has read. -/
def CopyOp.byte (o : CopyOp) (va : Nat) : Byte := Tab.get 0#8 o.read va

/-- What comes of reading the source: the operation waits, it stops, or it has the bytes, some of them beyond a group's scratch or not. -/
inductive CopyRead where
  | waits (s : State)
  | fails (s : State)
  | ok (s : State) (o : CopyOp) (beyond : Bool)

/-- The operation reads what it needs of its source. A 16-byte unit of the source is read as one access, when its first byte is needed, and
kept for those that are needed later (R244, R278). -/
def State.copyRead (s : State) (o : CopyOp) (needs : List Nat) : CopyRead :=
  let units := unitsOf (needs.filter fun a => (o.read.find? a).isNone)
  if units = [] then .ok s o false
  else
    let as := o.srcAddrs.filter fun a => a / 16 ∈ units && (o.read.find? a).isNone
    match s.engLines o.eng (linesOf as) with
    | .waits s' => .waits s'
    | .ok s spots =>
      if as.any (engFailed spots) then .fails s
      else .ok s { o with read := as.foldl (fun (t : Tab Byte) a => t.set a (s.engByte o.eng spots a)) o.read } (as.any (s.engBeyond spots))

/-- One unit lands: any of those that are left. -/
def State.landUnit (s : State) (o : CopyOp) (unit : Nat) : State :=
  let cells := cellsOf o.cells unit
  match s.copyRead o (cells.flatMap fun x => addrsOf x.val.reads) with
  | .waits s' => s'.repost (.copyLanding o.id)
  | .fails s' => s'.stopCopy o
  | .ok s o far =>
    let s := if far then s.copyFails o else s
    let o := { o with error := o.error || far }
    let bytes := unitBytes s.free o.byte cells unit
    match s.engWrite o.eng bytes with
    | .waits s' => (s'.setCopy o).repost (.copyLanding o.id)
    | .squashed s' => s'
    | .fails => s.stopCopy o
    | .ok s' beyond => { s' with free := s'.free + 1 }.unitLanded o unit bytes.length beyond

/-- Elements of a SCATA are added as one atomic (R249), or the operation stops at one that it cannot write (R251). -/
def State.landAdds (s : State) (o : CopyOp) (items : List Cell) : State :=
  match s.copyRead o (items.flatMap fun x => addrsOf x.val.reads) with
  | .waits s' => s'.repost (.copyLanding o.id)
  | .fails s' => s'.stopCopy o
  | .ok s o far =>
    let s := if far then s.copyFails o else s
    let o := { o with error := o.error || far }
    match s.addAll o.eng o.dst.format .same o.mode (items.map fun x => (x.at_.va, BitVec.ofNat 32 (x.val.value o.byte))) with
    | .waits s' => (s'.setCopy o).repost (.copyLanding o.id)
    | .squashed s' => s'
    | .ok s' n beyond failed =>
      let s' := if beyond then s'.copyFails o else s'
      let s' := if o.dst.landEn then s'.landed o.g o.dst.landTeam n else s'
      let o := { o with left := o.left.drop items.length, landed := o.landed + n, error := o.error || beyond }
      if failed then s'.stopCopy o
      else if o.left = [] then (s'.setCopy o).post (.copyComplete o.id)
      else (s'.setCopy o).proceed (.copyLanding o.id)

/-- A SCATA adds its next element or, in a future, all of them as one indivisible update (R118). -/
def State.landScata (s : State) (o : CopyOp) : State := s.landAdds o (if o.tag = 0 then (o.adds.drop (o.left.headD 0)).take 1 else o.adds)

/-- COPY_LANDING (R93, R250, R252): the copies of one core move in issue order, behind the wave's earlier accesses (R244, R247). -/
def execCopyLanding (op : Nat) (s : State) : Host.Outcome State Fault Refusal :=
  match s.copies.find? fun o => o.id == op with
  | none => .next s
  | some o =>
    if o.left = [] then .next s
    else if (s.copies.any fun x => x.id < op && coreOfGroup x.g == coreOfGroup o.g && x.left != []) || !s.earlierDone o.g o.w op then
      .next (s.repost (.copyLanding op))
    else if o.kind == .scata then .next (s.landScata o)
    else .next (s.landUnit o (o.left.getD (Config.freeNat s.free op % o.left.length) 0))

/-- COPY_COMPLETE (R244, R245, R250): completions come in issue order; a copy with nothing to write completes at its promise; what was
not written leaves the landing team's count, and granules that were not finished stop landing (R458). -/
def execCopyComplete (op : Nat) (s : State) : Host.Outcome State Fault Refusal :=
  match s.copies.find? fun o => o.id == op with
  | none => .next s
  | some o =>
    if o.left ≠ [] then .next s
    else if (s.copies.any fun x => x.id < op && x.g == o.g && x.w == o.w) || (s.lags.any fun r => r.id == op) ||
        (o.bytes = 0 && s.clk < o.promise) then .next (s.repost (.copyComplete op))
    else
      let s := { s with copies := s.copies.filter fun x => x.id ≠ op }.forgive (.engine op)
      let s := if o.landed < o.bytes then
          let s := if o.kind == .scata then s else (linesOf o.dstAddrs).foldl (fun (s : State) n => s.onGranule o.g (n * 128) fun g i =>
            if granuleLanding g i then g.stopLanding i else g) s
          if o.dst.landEn then s.landed o.g o.dst.landTeam (o.bytes - o.landed) else s
        else s
      .next (s.countDownClass o.g o.w 0)

end Sys2Proof.Machine
end

