-- ==== Sys2Proof/Machine/Matrix.lean ====
section
/-!
DEFINITION. Sys2Proof/Machine/Matrix.lean: the matrix engine, row 0xB (R78 to R84, R253 to R261, R307, R308, R310): loads of macros,
passes, drains, batches, tile rows.
-/

namespace Sys2Proof.Machine

open Sys2Proof

/-! ## Issue -/

/-- The tiles that an operation reads or writes. -/
def MatOp.tiles (o : MatOp) : List Nat :=
  match o.kind with
  | .load => []
  | .mma | .mmas => (quartersOf o.lanes).map fun q => o.tile + q
  | _ => [o.tile]

def Wave.tile (w : Wave) (t : Nat) : Tile := Tab.get {} w.tiles t
def Wave.setTile (w : Wave) (t : Nat) (x : Tile) : Wave := { w with tiles := w.tiles.put {} t x }
/-- The tile's kind, as the wave's operations see it in issue order (R257). -/
def Wave.setKind (w : Wave) (t : Nat) (k : TileKind) : Wave := w.setTile t { w.tile t with kind := k }

def MatOp.eng (o : MatOp) (g w : Nat) : Eng := { id := o.id, g := g, w := w, ctx := o.ctx, tag := o.tag }

/-- The trap for a field that names no row (R261). -/
def Ctx.operandTrap (c : Ctx) (field : Nat) : Res := .trap c ⟨causeIllegalOperand, field, 0, c.act⟩

/-- The operation joins the wave's (R258); its step is due. -/
def Ctx.issueMat (c : Ctx) (o : MatOp) : Res :=
  let step : Instr := if o.kind == .load then .mbldComplete c.gk o.mac else .matrixPass c.gk c.wi
  .done { c with s := c.s.fresh.post step, w := { c.w with matOps := c.w.matOps ++ [{ o with id := c.s.serial + 1 }] } }

/-- An operation as it stands at its issue. -/
def Ctx.matOp (c : Ctx) (kind : MatKind) : MatOp :=
  { id := 0, kind := kind, mode := c.mode, lanes := c.S, ctx := c.g.ctx, tag := c.tag }

/-- The elements of a B tile, and its blocks' scales: K index and column. -/
def tileElem (r : TRecord) (x : Cursor) (k n : Nat) : Val :=
  let i := x.idx
  r.elem ⟨i.i0 + k, i.i1 + n, i.i2, i.i3⟩
def tileScale (r : TRecord) (x : Cursor) (b n : Nat) : Val :=
  let i := x.idx
  r.scale ⟨i.i0 + 32 * b, i.i1 + n, i.i2, i.i3⟩

/-- All that a part of a tensor is read for: `k` elements along K of `n` lines from `first`. -/
def tileReads (r : TRecord) (x : Cursor) (k first n : Nat) : List Bits :=
  (List.range n).flatMap fun j =>
    ((List.range k).flatMap fun i => (tileElem r x i (first + j)).reads) ++
      (List.range (k / 32)).flatMap fun b => (tileScale r x b (first + j)).reads

/-- MBLD (0xB0, R254). -/
def execMbld (d a : Selector) (s : State) : Host.Outcome State Fault Refusal :=
  issue (.mbld d a) anyType s fun c =>
    c.once
      (c.withTensor a.toNat fun c r =>
         let x := c.w.cursor a.toNat
         if !(r.layout == 2 || r.layout == 3) || !formatMatrixB r.format || x.c0.toNat % r.tileK ≠ 0 || x.c1.toNat % 64 ≠ 0 then
           c.shapeTrap a.toNat
         else
           c.checkOperands false [] (addrsOf (tileReads r x r.tileK 0 64)) fun c =>
             let m : MacroSlot := c.g.macros.getD d.toNat {}
             let m := { m with loaded := true, kStart := x.c0.toNat, dim0 := r.dim 0, format := r.format, sparse := r.layout == 3 }
             { c with g := { c.g with macros := c.g.macros.set d.toNat m, badMacros := c.g.badMacros.filter fun x => x ≠ d.toNat } }.issueMat
               { c.matOp .load with mac := d.toNat, record := r, cursor := x })

/-- MMA and MMAS (R255, R257). -/
def Ctx.mma (c : Ctx) (sparse : Bool) (d a b : Selector) : Res :=
  c.once
    (let tiles := (quartersOf c.S).map fun q => d.toNat + q
     c.withTensor a.toNat fun c r =>
       let x := c.w.cursor a.toNat
       let m : MacroSlot := c.g.macros.getD b.toNat {}
       let kind : TileKind := if formatScaled r.format || formatScaled m.format then .float else .int
       let depth := if sparse then 128 else 64
       if r.layout ≠ 1 || !(formatMatrixB r.format || r.format == 0x0B) || x.c0.toNat % 64 ≠ 0 || x.c1.toNat % 8 ≠ 0 ||
           !m.loaded || r.dim 0 ≠ m.dim0 || x.c0.toNat ≠ m.kStart || m.sparse ≠ sparse ||
           (tiles.any fun t => (c.w.tile t).kind ≠ .empty && (c.w.tile t).kind ≠ kind) then c.shapeTrap a.toNat
       else
         c.checkOperands false [] (addrsOf ((quartersOf c.S).flatMap fun q => tileReads r x depth (8 * q) 8)) fun c =>
           { c with w := tiles.foldl (fun (w : Wave) t => w.setKind t kind) c.w }.issueMat
             { c.matOp (if sparse then .mmas else .mma) with tile := d.toNat, mac := b.toNat, record := r, cursor := x })

/-- MMA (0xB1). -/
def execMma (d a b : Selector) (s : State) : Host.Outcome State Fault Refusal :=
  issue (.mma d a b) anyType s fun c => c.mma false d a b

/-- MMAS (0xB2). -/
def execMmas (d a b : Selector) (s : State) : Host.Outcome State Fault Refusal :=
  issue (.mmas d a b) anyType s fun c => c.mma true d a b

/-- MBATCH (0xB3, R258). -/
def execMbatch (s : State) : Host.Outcome State Fault Refusal :=
  issue .mbatch anyType s fun c =>
    c.once
      (if c.counterWaits 1 then .wait c .engine
       else
         let c := c.countUp 1
         .done { c with s := c.s.fresh.post (.batchComplete c.gk c.wi), w := { c.w with matBatches := c.w.matBatches ++ [c.s.serial] } })

/-- MZERO (0xB4, R257). -/
def execMzero (d : Selector) (s : State) : Host.Outcome State Fault Refusal :=
  issue (.mzero d) anyType s fun c =>
    c.once
      ({ c with w := { c.w.setKind d.toNat .empty with badTiles := c.w.badTiles.filter fun t => t ≠ d.toNat } }.issueMat { c.matOp .zero with tile := d.toNat })

/-- Formats that a drain may write (R259). -/
def formatDrain (f : Nat) : Bool := f == 1 || f == 2 || f == 3 || f == 0x0C

/-- The elements that a drain writes, each with its place in the tile (R259); elements beyond the extents are dropped (R238). -/
def drainElems (r : TRecord) (x : Cursor) : List (Nat × Bits) :=
  (List.range 512).filterMap fun k =>
    let i : Idx := ⟨x.c0.toNat + k % 64, x.c1.toNat + k / 64, x.c2.toNat, x.c3.toNat⟩
    if r.holds i then some (k, r.place i) else none

/-- MDRAIN and MDRAINA (R259, R260). -/
def Ctx.drain (c : Ctx) (adds : Bool) (d a : Selector) : Res :=
  c.once
    (c.withTensor d.toNat fun c r =>
       let x := c.w.cursor d.toNat
       if r.layout ≠ 0 || !formatDrain r.format then c.shapeTrap d.toNat
       else
         let as := addrsOf ((drainElems r x).map (·.2))
         c.checkOperands adds as [] fun c =>
           let o : MatOp :=
             { c.matOp (if adds then .drainAdd else .drain) with tile := a.toNat, record := r, cursor := x, tileKind := (c.w.tile a.toNat).kind }
           if adds then c.deferAdds as o.id r.format (if o.tileKind = .int then .int else .float) o.mode fun c => c.issueMat o
           else c.issueMat o)

/-- MDRAIN (0xB5). -/
def execMdrain (d a : Selector) (s : State) : Host.Outcome State Fault Refusal :=
  issue (.mdrain d a) anyType s fun c => c.drain false d a

/-- MDRAINA (0xB6). -/
def execMdraina (d a : Selector) (s : State) : Host.Outcome State Fault Refusal :=
  issue (.mdraina d a) anyType s fun c => c.drain true d a

/-- MRD (0xB7, R261): it waits for every earlier operation on the tile. -/
def execMrd (d : Reg) (a : Selector) (b : Reg) (s : State) : Host.Outcome State Fault Refusal :=
  issue (.mrd d a b) anyType s fun c =>
    c.once
      (let row := (c.val b 0).toNat
       if 7 < row then c.operandTrap 3
       else if c.w.matOps.any fun o => o.tiles.contains a.toNat then .wait c .engine
       else
         let at_ (col : Nat) : Word := Tab.get 0#32 (c.w.tile a.toNat).cells (row * 64 + col)
         .done ((c.putAt d 0 c.S fun l => at_ (2 * l)).putAt d 1 c.S fun l => at_ (2 * l + 1)))

/-- The types that MWR takes (R257). -/
def tileType (m : ModeImage) : Bool := modeType m == 0 || modeType m == 6 || modeType m == 7

/-- MWR (0xB8, R257, R261). -/
def execMwr (d : Selector) (a b : Reg) (s : State) : Host.Outcome State Fault Refusal :=
  issue (.mwr d a b) tileType s fun c =>
    c.once
      (let row := (c.val b 0).toNat
       if 7 < row then c.operandTrap 3
       else if c.w.matOps.any fun o => o.tiles.contains d.toNat then .wait c .engine
       else
         let cells := (lanesOf c.S).foldl (fun (t : Tab Word) l =>
           (t.put 0#32 (row * 64 + 2 * l) (c.valAt a 0 l)).put 0#32 (row * 64 + 2 * l + 1) (c.valAt a 1 l)) (c.w.tile d.toNat).cells
         .done { c with w := c.w.setTile d.toNat ⟨if modeType c.mode = 0 then .float else .int, cells⟩ })

/-! ## Performing -/

/-- The value of an element for the engine (R78, R79). -/
def matrixInt (format q : Nat) : Int :=
  match formatElem format with
  | .int signed w => intValue signed w q
  | .float _ => 0

/-- Read values for an operation: it waits, or the values as bytes give them, and whether any byte could not be read. -/
inductive MatRead where
  | waits (s : State)
  | ok (s : State) (m : Nat → Byte) (error : Bool)

def State.matRead (s : State) (e : Eng) (reads : List Bits) : MatRead :=
  let as := addrsOf reads
  match s.engLines e (linesOf as) with
  | .waits s' => .waits s'
  | .ok s' spots => .ok s' (s'.engByte e spots) ((as.any (engFailed spots)) || as.any (s'.engBeyond spots))

/-- The operation has been performed. -/
def State.matDone (s : State) (gk wi : Nat) (o : MatOp) (error : Bool) : State :=
  let s := s.onWave gk wi fun w => { w with matOps := w.matOps.filter fun x => x.id ≠ o.id }
  (if error then s.copyError gk else s).forgive (.engine o.id)

/-- The 31 bits of an element's residues (R78): ρ1, ρ2, ρ3 diminished by one, and its zero flag. -/
def residueBits (b : Int) : Nat :=
  let r3 := (b % 1025).toNat
  (b % 1023).toNat + 2 ^ 10 * (b % 1024).toNat + (if r3 = 0 then 2 ^ 30 else 2 ^ 20 * (r3 - 1))
/-- Those of 0. -/
def residueZero : Nat := 2 ^ 30
/-- The residue of channel c, of modulus 1022 + c. -/
def residueOf (c x : Nat) : Nat :=
  match c with
  | 1 => bitsOf x 0 10
  | 2 => bitsOf x 10 10
  | _ => if bitOf x 30 then 0 else bitsOf x 20 10 + 1

/-- The residues of a macro's tile at K index k of a column: in a sparse tile the stored element whose code names the position, and 0 at
a dropped one and in a group whose codes do not rise (R84, R237). -/
def MacroSlot.elem (x : MacroSlot) (k n : Nat) : Nat :=
  if !x.thin then Tab.get residueZero x.kept (k * 64 + n)
  else
    let e := k / 4 * 2
    let c0 := Tab.get 0 x.codes (e * 64 + n)
    let c1 := Tab.get 0 x.codes ((e + 1) * 64 + n)
    if c1 ≤ c0 then residueZero
    else if c0 = k % 4 then Tab.get residueZero x.kept (e * 64 + n)
    else if c1 = k % 4 then Tab.get residueZero x.kept ((e + 1) * 64 + n)
    else residueZero

/-- One block of a block-scaled operation enters an accumulator (R82). An exact zero contribution is +0 (DESIGN CHOICE, log entry 112). -/
def blockAdd (r : Rounding) (acc : Nat) (dot : Int) (sa sb : Nat) : Nat :=
  let ea := bitsOf sa 12 8
  let eb := bitsOf sb 12 8
  let a := fmtF32.value r.ftz acc
  let neg := decide (dot < 0)
  if ea = 255 || eb = 255 then fmtF32.nan
  else if ea = 0 || eb = 0 || dot = 0 then fmtF32.round r (fvSum (r.round == 3) [a, .fin false 0 1])
  else
    let (n, d) := scaleQuot sa
    let (n', d') := scaleQuot sb
    let scale := fmtF32.value false (fmtF32.roundMag ⟨0, false, false, none⟩ false (.quot (n * n') (d * d')))
    match scale, a with
    | .inf _, .fin _ _ _ => if r.sat then fmtF32.sign neg + fmtF32.max else fmtF32.inf neg false
    | .inf _, .inf m => if r.sat then acc else if m = neg then fmtF32.inf neg false else fmtF32.nan
    | .inf _, .nan => fmtF32.nan
    | scale, a => fmtF32.round r (fvSum (r.round == 3) [a, (FV.fin neg dot.natAbs 1).mul scale])

/-- The sum of channel c over a range of K (R79): the weights of an element's planes add up to the element. -/
def channelSum (c : Nat) (row : Nat → Int) (col : Nat → Nat) (lo n : Nat) : Nat :=
  ((List.range n).foldl (fun (x : Int) k => x + row (lo + k) * (residueOf c (col (lo + k)) : Int)) 0 % ((1022 + c : Nat) : Int)).toNat
/-- The integer that three channel sums make (R80). -/
def crt (s1 s2 s3 : Nat) : Int :=
  let x := (s1 * 537395200 + s2 * 1072692225 + s3 * 537394176) % 1073740800
  if x ≤ 536870399 then (x : Int) else (x : Int) - 1073740800
/-- The dot product over a range of K of a row and of a column's residues (R79, R80). -/
def dotProduct (row : Nat → Int) (col : Nat → Nat) (lo n : Nat) : Int :=
  crt (channelSum 1 row col lo n) (channelSum 2 row col lo n) (channelSum 3 row col lo n)

/-- One pass of 64 K from `lo` adds to one accumulator (R81, R82, R83). -/
def passElem (r : Rounding) (scaled : Bool) (row : Nat → Int) (col sa sb : Nat → Nat) (lo acc : Nat) : Nat :=
  if scaled then
    let acc := blockAdd r acc (dotProduct row col lo 32) (sa (lo / 32)) (sb (lo / 32))
    blockAdd r acc (dotProduct row col (lo + 32) 32) (sa (lo / 32 + 1)) (sb (lo / 32 + 1))
  else reduceInt true 32 r.sat (signedOf 32 acc + dotProduct row col lo 64)

/-- The rows of a quarter enter the quarter's tile (R255). -/
def quarterPass (o : MatOp) (mac : MacroSlot) (m : Nat → Byte) (q : Nat) (t : Tile) : Tile :=
  let depth := if o.kind == .mmas then 128 else 64
  let scaled := formatScaled o.record.format || mac.scaled
  let r := engineRounding o.mode
  let rows : List (List Int × List Nat) := (List.range 8).map fun i =>
    ((List.range depth).map fun k => matrixInt o.record.format ((tileElem o.record o.cursor k (8 * q + i)).value m),
     (List.range (depth / 32)).map fun b => (tileScale o.record o.cursor b (8 * q + i)).value m)
  { t with cells := (List.range 512).foldl (fun (cells : Tab Word) j =>
      let row := rows.getD (j / 64) ([], [])
      let a (k : Nat) : Int := row.1.getD k 0
      let b (k : Nat) : Nat := mac.elem k (j % 64)
      let sa (k : Nat) : Nat := row.2.getD k 0
      let sb (k : Nat) : Nat := (Tab.get 0#32 mac.scales (k * 64 + j % 64)).toNat
      let acc := (Tab.get 0#32 cells j).toNat
      let acc := passElem r scaled a b sa sb 0 acc
      let acc := if depth = 128 then passElem r scaled a b sa sb 64 acc else acc
      cells.put 0#32 j (BitVec.ofNat 32 acc)) t.cells }

/-- Whether a cap holds back a core's matrix passes (R446). -/
def State.passHeld (s : State) (core : Nat) : Bool :=
  ((Tab.get {} s.matrix core).now s.clk).held (Tab.get {} s.power (core / Config.coresPerDie)).matrixCap s.clk

/-- A pass of a core whose passes are capped counts. -/
def State.notePass (s : State) (core : Nat) : State :=
  if (Tab.get {} s.power (core / Config.coresPerDie)).matrixCap = 100 then s
  else { s with matrix := s.matrix.set core (((Tab.get {} s.matrix core).now s.clk).note s.clk) }

/-- A pass (R255, R256): the macro's tile is read wholly as it stands; a macro that waits for its first tile, or that an MBLD holds, is
waited for (R310); so is the next window of a core whose passes are capped (R446). -/
def State.matPass (s : State) (gk wi : Nat) (o : MatOp) : State :=
  let again (s : State) : State := s.repost (.matrixPass gk wi)
  let mac : MacroSlot := ((s.groups.find? gk).map fun g => g.macros.getD o.mac {}).getD {}
  let depth := if o.kind == .mmas then 128 else 64
  if !mac.filled || s.clk < mac.held || s.passHeld (coreOfGroup gk) then again s
  else
    match s.matRead (o.eng gk wi) ((quartersOf o.lanes).flatMap fun q => tileReads o.record o.cursor depth (8 * q) 8) with
    | .waits s' => again s'
    | .ok s m error =>
      ((s.notePass (coreOfGroup gk)).onWave gk wi fun w =>
        (quartersOf o.lanes).foldl (fun (w : Wave) q => w.setTile (o.tile + q) (quarterPass o mac m q (w.tile (o.tile + q)))) w).matDone gk wi o error

/-- What a drain writes: each element converted (R259). -/
def drainCells (o : MatOp) (t : Tile) : List Cell :=
  let src : Elem := if o.tileKind = .int then .int true 32 else .float fmtF32
  (drainElems o.record o.cursor).map fun x =>
    ⟨x.2, .const (convertElem (engineRounding o.mode) src (formatElem o.record.format) (Tab.get 0#32 t.cells x.1).toNat)⟩

/-- One unit of a drain lands; what cannot be written is dropped (R307, R457, R458). -/
def State.matDrain (s : State) (gk wi : Nat) (o : MatOp) (t : Tile) : State :=
  let cells := drainCells o t
  let o := if o.started then o else { o with started := true, left := unitsOf (addrsOf (cells.map (·.at_))) }
  let keep (s : State) (o : MatOp) : State := s.onWave gk wi fun w => { w with matOps := replaceFirst (fun x => x.id == o.id) o w.matOps }
  match o.left with
  | [] => s.matDone gk wi o o.error
  | u :: _ =>
    let unit := o.left.getD (Config.freeNat s.free o.id % o.left.length) u
    let bytes := unitBytes s.free (fun _ => 0#8) (cellsOf cells unit) unit
    let ready := s.onGranule gk (16 * unit) fun g i =>
      if bytes.any fun b => 128 * i + b.va % 128 < g.scratchBytes then g.drainInto i else g
    let next (s : State) (bad : Bool) : State :=
      let o := { o with left := o.left.erase unit, error := o.error || bad }
      if o.left = [] then s.matDone gk wi o o.error else (keep { s with free := s.free + 1 } o).proceed (.matrixPass gk wi)
    match ready.engWrite (o.eng gk wi) bytes with
    | .waits s' => (keep s' o).repost (.matrixPass gk wi)
    | .squashed s' => s'
    | .fails => next s true
    | .ok s' beyond => next s' beyond

/-- A tile is added into its elements, as one indivisible action (R260). -/
def State.matDrainAdd (s : State) (gk wi : Nat) (o : MatOp) (t : Tile) : State :=
  let items := (drainElems o.record o.cursor).map fun x => (x.2.va, Tab.get 0#32 t.cells x.1)
  match s.addAll (o.eng gk wi) o.record.format (if o.tileKind = .int then .int else .float) o.mode items with
  | .waits s' => s'.repost (.matrixPass gk wi)
  | .squashed s' => s'
  | .ok s' _ beyond failed => s'.matDone gk wi o (beyond || failed)

/-- The operation that a wave's matrix work has reached. -/
def State.matHead (s : State) (gk wi : Nat) : Option (Wave × MatOp) :=
  match s.groups.find? gk with
  | none => none
  | some g =>
    match g.waves[wi]? with
    | none => none
    | some w => w.matOps.head?.map fun o => (w, o)

/-- MATRIX_PASS: the next operation of the wave, in issue order, behind the wave's earlier accesses (R244, R254). -/
def execMatrixPass (g w : Nat) (s : State) : Host.Outcome State Fault Refusal :=
  match s.matHead g w with
  | none => .next s
  | some (wave, o) =>
    if !s.earlierDone g w o.id then .next (s.repost (.matrixPass g w))
    else
      match o.kind with
      | .load => .next (s.repost (.matrixPass g w))
      | .mma | .mmas => .next (s.matPass g w o)
      | .zero => .next ((s.onWave g w fun x => x.setTile o.tile { x.tile o.tile with cells := [] }).matDone g w o false)
      | .drain => .next (s.matDrain g w o (wave.tile o.tile))
      | .drainAdd => .next (s.matDrainAdd g w o (wave.tile o.tile))

/-- The code of the stored element e of a sparse column, and the element: 0 where its position lies beyond the extents. -/
def thinCode (r : TRecord) (x : Cursor) (m : Nat → Byte) (e n : Nat) : Nat :=
  let i := x.idx
  let p : Idx := ⟨i.i0 + e / 2 * 4, i.i1 + n, i.i2, i.i3⟩
  if r.holds p then (r.codePlace p (e % 2)).val.value m else 0
def thinElem (r : TRecord) (x : Cursor) (m : Nat → Byte) (e n : Nat) : Int :=
  let i := x.idx
  let p : Idx := ⟨i.i0 + e / 2 * 4, i.i1 + n, i.i2, i.i3⟩
  if r.holds { p with i0 := p.i0 + thinCode r x m e n } then matrixInt r.format ((r.keptPlace p (e % 2)).val.value m) else 0

/-- The tile that an MBLD leaves in its macro (R78, R254). -/
def loadedMacro (x : MacroSlot) (o : MatOp) (m : Nat → Byte) : MacroSlot :=
  let r := o.record
  let thin := r.layout == 3
  { x with
    filled := true
    scaled := formatScaled r.format
    thin := thin
    kept := (List.range 4096).foldl (fun (t : Tab Nat) j =>
      t.put residueZero j (residueBits (if thin then thinElem r o.cursor m (j / 64) (j % 64)
        else matrixInt r.format ((tileElem r o.cursor (j / 64) (j % 64)).value m)))) []
    codes := if thin then (List.range 4096).foldl (fun (t : Tab Nat) j => t.put 0 j (thinCode r o.cursor m (j / 64) (j % 64))) [] else []
    scales := (List.range (r.tileK / 32 * 64)).foldl (fun (t : Tab Word) j =>
      t.put 0#32 j (BitVec.ofNat 32 ((tileScale r o.cursor (j / 64) (j % 64)).value m))) [] }

/-- MBLD_COMPLETE (R310): of the waves whose matrix work has reached an MBLD to the macro, the one that issued it first. Its tile arrives,
and for 64 clk it holds the macro; then it ends. -/
def execMbldComplete (g mac : Nat) (s : State) : Host.Outcome State Fault Refusal :=
  match s.groups.find? g with
  | none => .next s
  | some grp =>
    let pending := grp.waves.any fun w => w.matOps.any fun o => o.kind == .load && o.mac == mac
    let reached := (List.range grp.waves.length).filterMap fun i =>
      match s.matHead g i with
      | some (_, o) => if o.kind == .load && o.mac == mac && s.earlierDone g i o.id then some (i, o) else none
      | none => none
    let rank (o : MatOp) : Nat := if o.ends.isSome then 0 else o.id + 1
    let first := reached.foldl (fun (m : Option (Nat × MatOp)) x =>
      match m with
      | none => some x
      | some y => if rank x.2 < rank y.2 then some x else some y) none
    match first with
    | none => .next (if pending then s.repost (.mbldComplete g mac) else s)
    | some (i, o) =>
      match o.ends with
      | some t => .next (if s.clk < t then s.repost (.mbldComplete g mac) else s.matDone g i o o.error)
      | none =>
        match s.matRead (o.eng g i) (tileReads o.record o.cursor o.record.tileK 0 64) with
        | .waits s' => .next (s'.repost (.mbldComplete g mac))
        | .ok s m error =>
          let s := match s.groups.find? g with
            | some x =>
              let slot := { loadedMacro (x.macros.getD mac {}) o m with held := s.clk + 64 }
              { s with groups := s.groups.set g { x with macros := x.macros.set mac slot } }
            | none => s
          let o' := { o with ends := some (s.clk + 64), error := error }
          .next ((s.onWave g i fun w => { w with matOps := replaceFirst (fun x => x.id == o.id) o' w.matOps }).repost (.mbldComplete g mac))

/-- BATCH_COMPLETE (R258): the oldest batch completes when its operations have. -/
def execBatchComplete (g w : Nat) (s : State) : Host.Outcome State Fault Refusal :=
  match s.groups.find? g with
  | none => .next s
  | some grp =>
    match grp.waves[w]? with
    | none => .next s
    | some wave =>
      match wave.matBatches with
      | [] => .next s
      | mark :: rest =>
        if (wave.matOps.any fun o => o.id ≤ mark) || s.lags.any fun r => r.g == g && r.w == w + 64 && r.id ≤ mark then .next (s.repost (.batchComplete g w))
        else .next ((s.onWave g w fun x => { x with matBatches := rest }).countDownClass g w 1)

end Sys2Proof.Machine
end

