-- ==== Sys2Proof/Machine/Rays.lean ====
section
/-!
DEFINITION. Sys2Proof/Machine/Rays.lean: ray traversal, RAYQ and RAYQA (R262 to R265, R268), and how the ray and texture units read
memory and deliver their results.
-/

namespace Sys2Proof.Machine

open Sys2Proof

/-! ## Reading and delivering -/

/-- What a unit reads for a lane: a value, or it waits, or the read is not allowed, or the lane is switched off (R94, R457), or the data holds
an uncorrectable error, with the unit it lies in and the address (R362). -/
inductive Fetch (α : Type) where
  | ok (x : α)
  | waits (s : State)
  | fails
  | off
  | bad (unit va : Nat)

def LaneOp.eng (o : LaneOp) : Eng := { id := o.id, g := o.g, w := o.w, ctx := o.ctx, tag := o.tag }

/-- A byte of the register aperture or of the save slot, as a load of the wave reads it (R89, R91): behind results of the wave's earlier
operations; a register beyond the window cannot be read. None for any other address. -/
def State.unitOwn (s : State) (e : Eng) (va : Nat) : Option (Fetch Byte) :=
  match regionOf va, (s.groups.find? e.g).bind fun g => g.waves[e.w]? with
  | .aperture .save off, some w => some (.ok (Tab.get 0#8 w.save off))
  | .aperture .registers off, some w =>
    let n := off / 128
    let l := off % 128 / 4
    if w.n ≤ n then some .fails
    else if w.scoreboard.any fun o => o.id < e.id && o.regs.contains (.v n) then some (.waits s)
    else
      match w.poison.find? fun p => p.reg == .v n && p.lanes.getLsbD l with
      | some p => some (.bad p.unit va)
      | none =>
        let x := if (Tab.get 0#32 w.dead n).getLsbD l && Config.freeChoice s.free (vKey n l * 64 + 63) then 0#32 else Tab.get 0#32 w.v (vKey n l)
        some (.ok (x.extractLsb' (8 * (off % 4)) 8))
  | _, _ => none

/-- n bytes from an address, as a load of the wave (R118, R265, R267): in all four apertures (R90), and in memory. -/
def State.unitLoad (s : State) (e : Eng) (va n : Nat) : Fetch Nat :=
  let all := (List.range n).map fun i => (va + i) % 2 ^ 64
  let own := all.filterMap (s.unitOwn e)
  let as := all.filter fun a => (s.unitOwn e a).isNone
  let byte (spots : List (Nat × EngSpot)) (a : Nat) : Byte := match s.unitOwn e a with | some (.ok b) => b | _ => s.engByte e spots a
  match s.engLines e (linesOf as) with
  | .waits s' => .waits s'
  | .ok _ spots =>
    let off (a : Nat) : Bool :=
      s.engBeyond spots a ||
        (match spotOf spots a with
         | .scratch gk o => (match s.groups.find? gk with | some g => granuleLanding g (o / 128) || !granuleValid g (o / 128) | none => true)
         | _ => false)
    let bad (a : Nat) : Option (Nat × Nat) :=
      match spotOf spots a with
      | .memory t pa => (s.health.poisonedLines.find? (lineOf (s.viewPlace e.tag t pa))).map fun u => (u, a)
      | .scratch gk o => (s.health.poisonedLines.find? (lineOf (scratchPlace gk o))).map fun u => (u, a)
      | _ => none
    if own.any fun x => match x with | .waits _ => true | _ => false then .waits s
    else if (as.any (engFailed spots)) || own.any fun x => match x with | .fails => true | _ => false then .fails
    else if as.any off then .off
    else
      match (as.findSome? bad).orElse fun _ => own.findSome? fun x => match x with | .bad u a => some (u, a) | _ => none with
      | some (u, a) => .bad u a
      | none => .ok (bytesNat (all.map (byte spots)))

/-- Lanes of a wave are switched off (R94): they are marked in fmask and end. -/
def State.switchOff (s : State) (gk wi : Nat) (lanes : LaneMask) : State :=
  match s.groups.find? gk with
  | none => s
  | some g =>
    match g.waves[wi]? with
    | none => s
    | some w =>
      let c : Ctx := ⟨s, gk, g, wi, { w with fmask := w.fmask ||| lanes }, false, { pc := 0#32, mask := 0#32, mode := modeStart },
        ⟨gk, wi, false, 0#32, 0#4, 0, 0#32, 0#32, false⟩⟩
      (c.endLanes lanes).fillSlots.settle

/-- What the lanes of an operation get: values, lanes switched off, whether a read was not allowed, and lanes whose data holds an
uncorrectable error, with its unit and address. -/
structure Answers where
  values : List (Nat × List Word) := []
  off : LaneMask := 0#32
  error : Bool := false
  poison : List (Nat × Nat × Nat) := []

/-- The result registers of a lane are poisoned (R362), and a record of kind 2 says so (R437). -/
def State.poisonResult (s : State) (o : LaneOp) (lane unit va : Nat) : State :=
  let s := s.errorRecord { kind := 2, va := va, ctx := o.ctx, tag := o.tag, value0 := s.health.trapped, die := dieOfGroup o.g,
                           unit := coreOfGroup o.g % Config.coresPerDie, source := unit }
  { s with groups := s.groups.mapVals fun k (g : Group) =>
      if k ≠ o.g then g
      else
        match g.waves[o.w]? with
        | some w => g.setWave o.w { w with poison := w.poison ++ (List.range 4).map fun j => (⟨.v (o.dest + j), laneBit lane, unit, va⟩ : Poison) }
        | none => g }

/-- An operation's results are written to four registers of each lane that got any, its counter falls, and lanes that were switched off
end (R225, R262). -/
def State.laneResults (s : State) (o : LaneOp) (cls : Nat) (as : Answers) : State :=
  -- the registers of a lane whose data holds an error are poisoned; what they hold is free
  let xs := as.values ++ as.poison.map fun p => (p.1, (List.range 4).map fun j => Config.freeWord s.free (p.1 * 4 + j))
  let s := if as.poison = [] then s else { s with free := s.free + 1 }
  let off := as.off
  let lanes := xs.foldl (fun m x => m ||| laneBit x.1) 0#32
  let word (j l : Nat) : Word :=
    match xs.find? fun x => x.1 == l with
    | some x => x.2.getD j 0#32
    | none => 0#32
  let s := ((List.range 4).foldl (fun (s : State) j => s.deliver o.g o.w (o.dest + j) lanes (word j) o.id) s).received o.g o.w o.id
  let s := { s with laneOps := s.laneOps.filter fun x => x.id ≠ o.id }.forgive (.engine o.id)
  let s := s.countDownClass o.g o.w cls
  let s := as.poison.foldl (fun (s : State) p => s.poisonResult o p.1 p.2.1 p.2.2) s
  if off = 0#32 then s else s.switchOff o.g o.w off

/-- Issue a ray query or a sample (R243, R245, R262): its destinations wait in the scoreboard. -/
def Ctx.issueLane (c : Ctx) (kind words cls : Nat) (fits : Nat → Bool) (d a : Reg) (t : Nat) (event : Nat → Instr) : Res :=
  c.once
    (c.withTensor t fun c r =>
      if !fits r.format then c.shapeTrap t
      else if c.counterWaits cls then .wait c .engine
      else
        match d with
        | .v n =>
          let id := c.s.serial + 1
          let args := (List.range 32).foldl (fun (t : Tab Word) l =>
            (List.range words).foldl (fun (t : Tab Word) j => t.put 0#32 (l * 8 + j) (c.valAt a j l)) t) []
          let o : LaneOp := { id := id, g := c.gk, w := c.wi, kind := kind, dest := n.val, lanes := c.S, args := args, record := r,
                              mode := c.mode, ctx := c.g.ctx, tag := c.tag }
          let c := c.countUp cls
          let s := c.s.fresh
          .done ({ c with s := { s with laneOps := s.laneOps ++ [o] }.post (event id) }.expects
            ((List.range 4).map fun j => .v (n.val + j)) c.S id)
        | _ => .done c)

/-- RAYQ (0xC0). -/
def execRayq (d a : Reg) (b : Selector) (s : State) : Host.Outcome State Fault Refusal :=
  issue (.rayq d a b) anyType s fun c => c.issueLane 0 8 2 (fun f => f == 0x10) d a b.toNat .rayComplete

/-- RAYQA (0xC1). -/
def execRayqa (d a : Reg) (b : Selector) (s : State) : Host.Outcome State Fault Refusal :=
  issue (.rayqa d a b) anyType s fun c => c.issueLane 1 8 2 (fun f => f == 0x10) d a b.toNat .rayComplete

/-! ## Boxes (R263, R264) -/

/-- A ray: origin, direction, tmin and tmax as f32 bits. -/
structure Ray where
  origin : List Nat
  dir : List Nat
  tmin : Nat
  tmax : Nat
deriving DecidableEq, Repr

def f32 (x : Nat) : FV := fmtF32.value false x

/-- The ray of a lane. -/
def LaneOp.ray (o : LaneOp) (l : Nat) : Ray :=
  let at_ (j : Nat) : Nat := (Tab.get 0#32 o.args (l * 8 + j)).toNat
  ⟨[at_ 0, at_ 1, at_ 2], [at_ 3, at_ 4, at_ 5], at_ 6, at_ 7⟩

/-- A ray with a NaN component or with tmin > tmax hits nothing. -/
def Ray.dead (r : Ray) : Bool :=
  ((r.origin ++ r.dir ++ [r.tmin, r.tmax]).any fun x => f32 x == .nan) || (f32 r.tmax).less (f32 r.tmin)

def fvMin (x y : FV) : FV := if y.below x then y else x
def fvMax (x y : FV) : FV := if x.below y then y else x

/-- A quotient rounded to f32, down or up. -/
def slabTime (round : Nat) (bound origin dir : Nat) : FV :=
  f32 (fmtF32.round ⟨round, false, false, none⟩ ((fvSum false [f32 bound, (f32 origin).neg]).div (f32 dir)))

/-- Entry and exit of one slab: none for an empty one. -/
def slab (lo hi origin dir : Nat) : Option (FV × FV) :=
  let all : FV × FV := (.inf true, .inf false)
  match f32 dir with
  | .fin _ 0 _ => if !(f32 origin).less (f32 lo) && !(f32 hi).less (f32 origin) && f32 lo ≠ .nan && f32 hi ≠ .nan then some all else none
  | _ =>
    let down (b : Nat) : FV := slabTime 3 b origin dir
    let up (b : Nat) : FV := slabTime 2 b origin dir
    if [down lo, down hi, up lo, up hi].contains .nan then
      (if Config.slabCorner (lo + 2 ^ 32 * hi + 2 ^ 64 * origin + 2 ^ 96 * dir) then some all else none)
    else some (fvMin (down lo) (down hi), fvMax (up lo) (up hi))

/-- tnear of a box that the ray hits. -/
def Ray.box (r : Ray) (box : List Nat) : Option FV :=
  let slabs := (List.range 3).map fun i => slab (box.getD i 0) (box.getD (i + 3) 0) (r.origin.getD i 0) (r.dir.getD i 0)
  if slabs.contains none then none
  else
    let near := slabs.foldl (fun m x => match x with | some p => fvMax m p.1 | none => m) (f32 r.tmin)
    let far := slabs.foldl (fun m x => match x with | some p => fvMin m p.2 | none => m) (f32 r.tmax)
    if far.less near then none else some near

/-! ## Triangles (R264, R265) -/

/-- A finite f32 as a multiple of 2^-149. -/
def fixedF32 (x : Nat) : Option Int :=
  match f32 x with
  | .fin n a b => some (if n then -((a * (2 ^ 149 / b) : Nat) : Int) else ((a * (2 ^ 149 / b) : Nat) : Int))
  | _ => none

/-- Vectors of multiples of 2^-149. -/
structure Vec where
  x : Int
  y : Int
  z : Int
deriving DecidableEq, Repr

def Vec.sub (a b : Vec) : Vec := ⟨a.x - b.x, a.y - b.y, a.z - b.z⟩
def Vec.cross (a b : Vec) : Vec := ⟨a.y * b.z - a.z * b.y, a.z * b.x - a.x * b.z, a.x * b.y - a.y * b.x⟩
def Vec.dot (a b : Vec) : Int := a.x * b.x + a.y * b.y + a.z * b.z

def vecOf (xs : List Nat) : Option Vec :=
  match (xs.take 3).filterMap fixedF32 with
  | [x, y, z] => some ⟨x, y, z⟩
  | _ => none

/-- The sign of an edge function once rounded to f32: the exact value is n × 2^-447. -/
def edgeSign (n : Int) : Int :=
  match f32 (fmtF32.roundMag ⟨0, false, false, none⟩ false (.quot n.natAbs (2 ^ 447))) with
  | .fin _ 0 _ => 0
  | _ => if n < 0 then -1 else 1

/-- An exact quotient rounded once to f32. -/
def quotF32 (n d : Int) : Nat :=
  fmtF32.roundMag ⟨0, false, false, none⟩ (decide ((n < 0) ≠ (d < 0)) && n != 0) (.quot n.natAbs d.natAbs)

/-- A hit: t, prim_id, u, v. -/
structure Hit where
  t : Nat
  prim : Nat
  u : Nat
  v : Nat
deriving DecidableEq, Repr

/-- A ray against a triangle of nine words. -/
def Ray.triangle (r : Ray) (vs : List Nat) (prim : Nat) : Option Hit :=
  let within (t : Nat) : Bool := !(f32 t).less (f32 r.tmin) && !(f32 r.tmax).less (f32 t) && f32 t ≠ .nan
  match vecOf r.origin, vecOf r.dir, vecOf vs, vecOf (vs.drop 3), vecOf (vs.drop 6) with
  | some o, some d, some v0, some v1, some v2 =>
    let p0 := v0.sub o
    let p1 := v1.sub o
    let p2 := v2.sub o
    let e0 := d.dot (p1.cross p2)
    let e1 := d.dot (p2.cross p0)
    let e2 := d.dot (p0.cross p1)
    let signs := [edgeSign e0, edgeSign e1, edgeSign e2]
    let det := e0 + e1 + e2
    if ((signs.all fun x => 0 ≤ x) || signs.all fun x => x ≤ 0) && (signs.any fun x => x ≠ 0) && det ≠ 0 then
      let t := quotF32 (p0.dot ((v1.sub v0).cross (v2.sub v0))) det
      if within t then some ⟨t, prim, quotF32 e1 det, quotF32 e2 det⟩ else none
    else none
  | _, _, _, _, _ =>
    match Config.triangleCorner ((r.origin ++ r.dir ++ vs.take 9).foldl (fun n x => n * 2 ^ 32 + x) 0) with
    | some (t, u, v) => if within t.toNat then some ⟨t.toNat, prim, u.toNat, v.toNat⟩ else none
    | none => none

/-- The better of two hits: the lower t, and at equal t the lower `prim_id`. -/
def Hit.better (a b : Hit) : Bool :=
  (f32 a.t).less (f32 b.t) || ((f32 a.t).same (f32 b.t) && a.prim < b.prim)

/-! ## Traversal -/

/-- Insert a child by tnear, behind those of the same tnear. -/
def insertChild (x : FV × Nat) : List (FV × Nat) → List (FV × Nat)
  | [] => [x]
  | y :: r => if x.1.less y.1 then x :: y :: r else y :: insertChild x r

/-- The children of a node that the ray hits, in the order of traversal. -/
def Ray.children (r : Ray) (nodes node : Nat) : List Nat :=
  let word (i : Nat) : Nat := bitsOf node (32 * i) 32
  let hit := (List.range 4).filterMap fun i =>
    let ref := word (24 + i)
    if ref = 0x7FFFFFFF || (ref < 2 ^ 31 && nodes ≤ ref) then none
    else (r.box ((List.range 6).map fun j => word (6 * i + j))).map fun t => (t, ref)
  (hit.foldl (fun l x => insertChild x l) []).map (·.2)

/-- The triangles of a leaf, in index order: `any` stops at the first hit. -/
def State.leaf (s : State) (o : LaneOp) (r : Ray) (any : Bool) (best : Option Hit) : List Nat → Fetch (Option Hit)
  | [] => .ok best
  | i :: rest =>
    if o.record.extent 1 ≤ i then s.leaf o r any best rest
    else
      match s.unitLoad o.eng ((o.record.scaleBase + 48 * i) % 2 ^ 64) 48 with
      | .ok x =>
        let hit := r.triangle ((List.range 9).map fun j => bitsOf x (32 * j) 32) (bitsOf x 288 32)
        (match hit, best with
         | some h, _ => if any then .ok (some h) else
             (match best with
              | some b => s.leaf o r any (some (if h.better b then h else b)) rest
              | none => s.leaf o r any (some h) rest)
         | none, b => s.leaf o r any b rest)
      | .waits s' => .waits s'
      | .fails => .fails
      | .off => .off
      | .bad u a => .bad u a

/-- Depth-first traversal from a reference (R264). No path of a structure without a circle is longer than it has nodes; one that names its
nodes in a circle keeps the unit busy: when the depth is used up, the query waits. -/
def State.traverse (s : State) (o : LaneOp) (r : Ray) (any : Bool) : Nat → Nat → Option Hit → Fetch (Option Hit)
  | 0, _, _ => .waits s
  | depth + 1, ref, best =>
    if 2 ^ 31 ≤ ref then s.leaf o r any best ((List.range (ref % 16 + 1)).map fun i => bitsOf ref 4 27 + i)
    else
      match s.unitLoad o.eng ((o.record.base + 128 * ref) % 2 ^ 64) 128 with
      | .ok x =>
        (r.children (o.record.extent 0) x).foldl (fun (found : Fetch (Option Hit)) child =>
          match found with
          | .ok b => if any && b.isSome then .ok b else s.traverse o r any depth child b
          | x => x) (.ok best)
      | .waits s' => .waits s'
      | .fails => .fails
      | .off => .off
      | .bad u a => .bad u a

/-- The four result words of a lane (R265). -/
def hitWords : Option Hit → List Word
  | some h => [BitVec.ofNat 32 h.t, BitVec.ofNat 32 h.prim, BitVec.ofNat 32 h.u, BitVec.ofNat 32 h.v]
  | none => [0x7F800000#32, 0xFFFFFFFF#32, 0#32, 0#32]

/-- A lane's query. -/
def State.query (s : State) (o : LaneOp) (l : Nat) : Fetch (Option Hit) :=
  let r := o.ray l
  if r.dead || o.record.extent 0 = 0 then .ok none else s.traverse o r (o.kind == 1) (o.record.extent 0 + 1) 0 none

/-- What the lanes of an operation get: results, lanes switched off, whether a read was not allowed. -/
def collect (ask : Nat → Fetch (List Word)) (bad : List Word) : List Nat → Fetch Answers
  | [] => .ok {}
  | l :: rest =>
    match ask l with
    | .waits s => .waits s
    | x =>
      match collect ask bad rest with
      | .ok as =>
        (match x with
         | .ok y => .ok { as with values := (l, y) :: as.values }
         | .off => .ok { as with off := as.off ||| laneBit l }
         | .bad u a => .ok { as with poison := (l, u, a) :: as.poison }
         | _ => .ok { as with values := (l, bad) :: as.values, error := true })
      | r => r

/-- An operation of a lane unit completes when its turn has come: behind the wave's earlier accesses (R244) and the wave's earlier
operations of its class (R225). -/
def State.laneTurn (s : State) (o : LaneOp) (sameClass : Nat → Bool) : Bool :=
  s.earlierDone o.g o.w o.id && !(s.laneOps.any fun x => x.id < o.id && x.g == o.g && x.w == o.w && sameClass x.kind)

/-- RAY_COMPLETE (R264, R265): a read that is not allowed gives a miss and counts a ray error. -/
def execRayComplete (op : Nat) (s : State) : Host.Outcome State Fault Refusal :=
  match s.laneOps.find? fun o => o.id == op with
  | none => .next s
  | some o =>
    if !s.laneTurn o (fun k => k ≤ 1) then .next (s.repost (.rayComplete op))
    else
      let ask (l : Nat) : Fetch (List Word) :=
        match s.query o l with
        | .ok h => .ok (hitWords h)
        | .waits s' => .waits s'
        | .fails => .fails
        | .off => .off
        | .bad u a => .bad u a
      match collect ask (hitWords none) (lanesOf o.lanes) with
      | .ok as =>
        let s := if as.error then s.countError o.g fun t => { t with rayErrors := t.rayErrors + 1 } else s
        .next (s.laneResults o 2 as)
      | .waits s' => .next (s'.repost (.rayComplete op))
      | _ => .next s

end Sys2Proof.Machine
end

