-- ==== Sys2Proof/Machine/Textures.lean ====
section
/-!
DEFINITION. Sys2Proof/Machine/Textures.lean: texture sampling, TEX, TEXL and TEXG (R266 to R268).
-/

namespace Sys2Proof.Machine

open Sys2Proof

/-- TEX (0xC2). -/
def execTex (d a : Reg) (b : Selector) (s : State) : Host.Outcome State Fault Refusal :=
  issue (.tex d a b) anyType s fun c => c.issueLane 2 4 3 formatTexture d a b.toNat .texComplete

/-- TEXL (0xC3). -/
def execTexl (d a : Reg) (b : Selector) (s : State) : Host.Outcome State Fault Refusal :=
  issue (.texl d a b) anyType s fun c => c.issueLane 3 4 3 formatTexture d a b.toNat .texComplete

/-- TEXG (0xC4). -/
def execTexg (d a : Reg) (b : Selector) (s : State) : Host.Outcome State Fault Refusal :=
  issue (.texg d a b) anyType s fun c => c.issueLane 4 8 3 formatTexture d a b.toNat .texComplete

/-! ## Formats (R266) -/

/-- The largest r with r^5 ≤ x, bit by bit from bit n down. -/
def root5From (x : Nat) : Nat → Nat → Nat
  | 0, r => r
  | n + 1, r => root5From x n (if (r + 2 ^ n) ^ 5 ≤ x then r + 2 ^ n else r)

/-- The sRGB transfer function of an 8-bit channel, correctly rounded to f32: c ÷ 12.92 up to 0.04045, else ((c + 0.055) ÷ 1.055)^2.4,
a fifth root of a twelfth power. -/
def srgb (c : Nat) : FV :=
  let r : Rounding := ⟨0, false, false, none⟩
  if c ≤ 10 then f32 (fmtF32.roundMag r false (.quot (100 * c) (255 * 1292)))
  else if c = 255 then .fin false 1 1
  else
    let n := 1000 * c + 55 * 255
    let d := 255 * 1055
    let q := root5From (n ^ 12 * 2 ^ 300 / d ^ 12) 61 0
    f32 (fmtF32.roundMag r false (.quot (2 * q + 1) (2 ^ 61)))

/-- Bytes of a texel. -/
def texelBytes (f : Nat) : Nat :=
  match f with
  | 0x13 => 8
  | 0x14 => 16
  | 0x17 => 1
  | _ => 4

/-- The four channels of a texel. -/
def texelChannels (f x : Nat) : List FV :=
  let unorm (lo n : Nat) : FV := .fin false (bitsOf x lo n) (2 ^ n - 1)
  let half (lo : Nat) : FV := fmtF16.value false (bitsOf x lo 16)
  let zero : FV := .fin false 0 1
  let one : FV := .fin false 1 1
  match f with
  | 0x11 => [unorm 0 8, unorm 8 8, unorm 16 8, unorm 24 8]
  | 0x12 => [srgb (bitsOf x 0 8), srgb (bitsOf x 8 8), srgb (bitsOf x 16 8), unorm 24 8]
  | 0x13 => [half 0, half 16, half 32, half 48]
  | 0x14 => [f32 (bitsOf x 0 32), f32 (bitsOf x 32 32), f32 (bitsOf x 64 32), f32 (bitsOf x 96 32)]
  | 0x15 => [f32 x, zero, zero, one]
  | 0x16 => [half 0, half 16, zero, one]
  | 0x17 => [unorm 0 8, zero, zero, one]
  | 0x18 => [unorm 0 10, unorm 10 10, unorm 20 10, unorm 30 2]
  | _ => [(⟨12, 5, 6, 15, true⟩ : Fmt).value false (bitsOf x 0 11), (⟨12, 5, 6, 15, true⟩ : Fmt).value false (bitsOf x 11 11),
          (⟨11, 5, 5, 15, true⟩ : Fmt).value false (bitsOf x 22 10), one]

/-! ## The sampler and the level of detail (R266, R267) -/

def TRecord.wrapU (r : TRecord) : Nat := r.field 30 2
def TRecord.wrapV (r : TRecord) : Nat := r.field 28 2
def TRecord.bilinear (r : TRecord) : Bool := r.field 27 1 == 1
def TRecord.mipLinear (r : TRecord) : Bool := r.field 26 1 == 1
def TRecord.levels (r : TRecord) : Nat := r.field 22 4

/-- A level of detail, clamped: the nearest level, the level below it, and the weight of the next one in 256ths. -/
structure Lod where
  nearest : Nat
  lower : Nat
  weight : Nat
deriving DecidableEq, Repr

/-- A quotient rounded to an integer, ties to even. -/
def nearestInt (num den : Nat) : Nat := ((⟨0, false, false, none⟩ : Rounding).toInt false (.quot num den)).toNat

/-- The level of detail of a number λ (TEXL). -/
def lodOf (top : Nat) : FV → Lod
  | .nan | .inf true => ⟨0, 0, 0⟩
  | .inf false => ⟨top, top, 0⟩
  | .fin true _ _ => ⟨0, 0, 0⟩
  | .fin false n d =>
    if top * d ≤ n then ⟨top, top, 0⟩ else ⟨min top ((2 * n + d) / (2 * d)), n / d, nearestInt (n % d * 256) d⟩

/-- The level of detail λ = log2 of a magnitude (TEX and TEXG). -/
def lodOfSize (top : Nat) : FV → Lod
  | .nan => ⟨0, 0, 0⟩
  | .inf _ => ⟨top, top, 0⟩
  | .fin _ n d =>
    if n ≤ d then ⟨0, 0, 0⟩
    else if d * 2 ^ top ≤ n then ⟨top, top, 0⟩
    else
      let m := (quotLog2 n d).toNat
      let d := d * 2 ^ m
      -- n ÷ d lies in [1, 2): the weight is log2 of it in 256ths, rounded
      let w := ((List.range 256).filter fun j => d ^ 512 * 2 ^ (2 * j + 1) ≤ n ^ 512).length
      ⟨min top (if 2 * d * d ≤ n * n then m + 1 else m), m, w⟩

/-- A coordinate: NaN reads as 0. -/
def coordinate (x : Nat) : FV := match f32 x with | .nan => .fin false 0 1 | v => v

/-- |x| × n. -/
def FV.scaled (x : FV) (n : Nat) : FV :=
  match x with
  | .nan => .fin false 0 1
  | .inf _ => .inf false
  | .fin _ a b => .fin false (a * n) b

/-- The level of detail of a lane (R267). -/
def LaneOp.lod (o : LaneOp) (l : Nat) : Lod :=
  let r := o.record
  let at_ (l j : Nat) : FV := coordinate (Tab.get 0#32 o.args (l * 8 + j)).toNat
  let size (du dv du' dv' : FV) : FV :=
    fvMax (fvMax (du.scaled (r.extent 0)) (dv.scaled (r.extent 1))) (fvMax (du'.scaled (r.extent 0)) (dv'.scaled (r.extent 1)))
  if o.kind = 3 then lodOf r.levels (at_ l 3)
  else if o.kind = 4 then lodOfSize r.levels (size (at_ l 4) (at_ l 5) (at_ l 6) (at_ l 7))
  else
    let q := l / 4 * 4
    let diff (m j : Nat) : FV := fvSum false [at_ m j, (at_ q j).neg]
    lodOfSize r.levels (size (diff (q + 1) 0) (diff (q + 1) 1) (diff (q + 2) 0) (diff (q + 2) 1))

/-! ## Texels -/

/-- An index along a dimension of n texels under a wrap mode; none for the border. -/
def wrapIndex (mode n : Nat) (i : Int) : Option Nat :=
  match mode with
  | 0 => some (i % (n : Int)).toNat
  | 1 =>
    let j := (i % (2 * n : Int)).toNat
    some (if j < n then j else 2 * n - 1 - j)
  | 2 => some (min (max i 0) ((n : Int) - 1)).toNat
  | _ => if 0 ≤ i && i < n then some i.toNat else none

/-- The taps along one dimension: index and weight in 256ths. The texel coordinate is x = u × n − 0.5. -/
def taps (bilinear : Bool) (n : Nat) (u : FV) : List (Int × Nat) :=
  match u with
  | .fin neg a b =>
    -- x = num ÷ (2 × b)
    let num : Int := 2 * (if neg then -((a * n : Nat) : Int) else ((a * n : Nat) : Int)) - b
    let den : Int := 2 * b
    if bilinear then
      let f := num / den
      let w := nearestInt ((num % den).toNat * 256) den.toNat
      [(f, 256 - w), (f + 1, w)]
    else [((num + b) / den, 256)]
  | _ => [(0, 256)]

/-- Read one texel of a level at an address. -/
def State.texel (s : State) (o : LaneOp) (level layer : Nat) (x y : Int) (base : Nat) : Fetch (List FV) :=
  let r := o.record
  let w := max 1 (r.extent 0 / 2 ^ level)
  let h := max 1 (r.extent 1 / 2 ^ level)
  let stride := roundUp (r.stride 1 / 2 ^ level) 16
  match wrapIndex r.wrapU w x, wrapIndex r.wrapV h y with
  | some i, some j =>
    let n := texelBytes r.format
    match s.unitLoad o.eng ((base + layer * (stride * h) + j * stride + i * n) % 2 ^ 64) n with
    | .ok v => .ok (texelChannels r.format v)
    | .waits s' => .waits s'
    | .fails => .fails
    | .off => .off
    | .bad u a => .bad u a
  | _, _ => .ok [.fin false 0 1, .fin false 0 1, .fin false 0 1, .fin false 0 1]

/-- The weighted texels of a list of taps: (level, base, x, y, weight in 2^24ths). -/
def State.texels (s : State) (o : LaneOp) (layer : Nat) : List (Nat × Nat × Int × Int × Nat) → Fetch (List (List FV))
  | [] => .ok []
  | (level, base, x, y, w) :: rest =>
    match s.texel o level layer x y base with
    | .ok cs =>
      match s.texels o layer rest with
      | .ok xs => .ok ((cs.map fun v => v.mul (.fin false w (2 ^ 24))) :: xs)
      | r => r
    | .waits s' => .waits s'
    | .fails => .fails
    | .off => .off
    | .bad u a => .bad u a

/-- The addresses of levels, from the table (R266). -/
def State.levelBases (s : State) (o : LaneOp) : List (Nat × Nat) → Fetch (List (Nat × Nat × Nat))
  | [] => .ok []
  | (level, w) :: rest =>
    match s.unitLoad o.eng ((o.record.scaleBase + 8 * level) % 2 ^ 64) 8 with
    | .ok base =>
      match s.levelBases o rest with
      | .ok xs => .ok ((level, w, base) :: xs)
      | .waits s' => .waits s'
      | .fails => .fails
      | .off => .off
      | .bad u a => .bad u a
    | .waits s' => .waits s'
    | .fails => .fails
    | .off => .off
    | .bad u a => .bad u a

/-- A lane's sample: the four channels (R267). -/
def State.sample (s : State) (o : LaneOp) (l : Nat) : Fetch (List Word) :=
  let r := o.record
  let arg (j : Nat) : Nat := (Tab.get 0#32 o.args (l * 8 + j)).toNat
  let u := coordinate (arg 0)
  let v := coordinate (arg 1)
  let infinite (x : FV) : Bool := match x with | .inf _ => true | _ => false
  let layer : Nat :=
    match coordinate (arg 2) with
    | .fin false n d => min (nearestInt n d) (r.extent 2 - 1)
    | .inf false => r.extent 2 - 1
    | _ => 0
  let lod := o.lod l
  let levels : List (Nat × Nat) :=
    if r.mipLinear then [(lod.lower, 256 - lod.weight), (min r.levels (lod.lower + 1), lod.weight)] else [(lod.nearest, 256)]
  match s.levelBases o levels with
  | .ok ls =>
    let all := ls.flatMap fun x =>
      let (level, w, base) := x
      (taps r.bilinear (max 1 (r.extent 0 / 2 ^ level)) u).flatMap fun tx =>
        (taps r.bilinear (max 1 (r.extent 1 / 2 ^ level)) v).map fun ty => (level, base, tx.1, ty.1, w * tx.2 * ty.2)
    if infinite u || infinite v then
      .ok ((List.range 4).map fun ch => Config.texelCorner ch ((List.range 8).foldl (fun n j => n * 2 ^ 32 + arg j) 0))
    else
      match s.texels o layer all with
      | .ok xs =>
        .ok ((List.range 4).map fun ch =>
          BitVec.ofNat 32 (fmtF32.round ⟨0, false, false, none⟩ (fvSum false (xs.map fun cs => cs.getD ch (.fin false 0 1)))))
      | .waits s' => .waits s'
      | .fails => .fails
      | .off => .off
      | .bad u a => .bad u a
  | .waits s' => .waits s'
  | .fails => .fails
  | .off => .off
  | .bad u a => .bad u a

/-- TEX_COMPLETE (R267): a read that is not allowed returns (0, 0, 0, 0) and counts a texture error. -/
def execTexComplete (op : Nat) (s : State) : Host.Outcome State Fault Refusal :=
  match s.laneOps.find? fun o => o.id == op with
  | none => .next s
  | some o =>
    if !s.laneTurn o (fun k => 2 ≤ k) then .next (s.repost (.texComplete op))
    else
      match collect (s.sample o) [0#32, 0#32, 0#32, 0#32] (lanesOf o.lanes) with
      | .ok as =>
        let s := if as.error then s.countError o.g fun t => { t with texErrors := t.texErrors + 1 } else s
        .next (s.laneResults o 3 as)
      | .waits s' => .next (s'.repost (.texComplete op))
      | _ => .next s

end Sys2Proof.Machine
end

