-- ==== Sys2Proof/Machine/Typed.lean ====
section
/-!
DEFINITION. Sys2Proof/Machine/Typed.lean: the typed arithmetic of opcode rows 0x4 and 0x5 (R161 to R179).
-/

namespace Sys2Proof.Machine

open Sys2Proof

/-! ## The frame of a typed instruction (R161, R165) -/

/-- The generator of lane l; a wave starts as seeded with 0 (R72). -/
def Wave.generatorOf (w : Wave) (l : Nat) : Word := Tab.get (seedLane 0#32 l) w.generator l

/-- n elements of w bits from element e on, put together from the low end; under rsr each takes one step of the generator, unless
the instruction never steps. -/
def elements (steps : Bool) (r : Rounding) (w : Nat) (f : Rounding → Nat → Nat) : Nat → Nat → Word → Nat × Word
  | 0, _, g => (0, g)
  | n + 1, e, g =>
    let g := if steps && r.round = 5 then stepLane g else g
    let x := f (if steps && r.round = 5 then { r with draw := some g } else r) e % 2 ^ w
    let (rest, g') := elements steps r w f n (e + 1) g
    (x + 2 ^ w * rest, g')

/-- The results of several lanes, ascending, with the wave's generators moved on. -/
def laneResults (steps : Bool) (r : Rounding) (n w : Nat) (f : Nat → Rounding → Nat → Nat) :
    List Nat → Wave → Tab Nat × Wave
  | [], wv => ([], wv)
  | l :: ls, wv =>
    let (x, g) := elements steps r w (f l) n 0 (wv.generatorOf l)
    let wv := if steps && r.round = 5 then { wv with generator := wv.generator.set l g } else wv
    let (rest, wv') := laneResults steps r n w f ls wv
    (rest.set l x, wv')

/-- The lanes that compute: S, or its lowest lane for a k destination (R161). -/
def Ctx.computing (c : Ctx) (d : Reg) : List Nat :=
  match d with
  | .k _ => (lanesOf c.S).take 1
  | _ => lanesOf c.S

/-- A typed instruction whose result has n elements of w bits; `wide` says that the destination is a pair. -/
def Ctx.typedResult (c : Ctx) (steps wide : Bool) (n w : Nat) (d : Reg) (f : Nat → Rounding → Nat → Nat) : Res :=
  let (t, wv) := laneResults steps (roundingOf c.mode) n w f (c.computing d) c.w
  let c' := { c with w := wv }
  if wide then .done (c'.put64 d c.S fun l => BitVec.ofNat 64 (Tab.get 0 t l))
  else .done (c'.put d c.S fun l => BitVec.ofNat 32 (Tab.get 0 t l))

/-- A typed instruction in the elements of the mode type: each element of the result from the elements of A, B and D. -/
def typedOp (i : Instr) (legal : Nat → Bool) (steps : Bool) (d a b : Reg) (f : Elem → Rounding → Nat → Nat → Nat → Nat) (s : State) :
    Host.Outcome State Fault Refusal :=
  issue i (fun m => legal (modeType m)) s fun c =>
    let code := modeType c.mode
    let el := elemOf code
    let w := el.width
    c.typedResult steps (type64 code) (elementCount code) w d fun l r e =>
      f el r (elemAt w (c.valT code a l) e) (elemAt w (c.valT code b l) e) (elemAt w (c.valT code d l) e)

/-! ## The types for which an instruction is defined (R163) -/

def legalAll (_ : Nat) : Bool := true
def legalDiv (code : Nat) : Bool := !(code == 3 || code == 4)
def legalFloat (code : Nat) : Bool := code ≤ 2 || code == 5 || code == 0xA || code == 0xB
def legalApprox (code : Nat) : Bool := code ≤ 2 || code == 0xA || code == 0xB
def legalPacked (code : Nat) : Bool := elementCount code != 1
def legalDot2 (code : Nat) : Bool := elementCount code == 2
def legalDot4 (code : Nat) : Bool := elementCount code == 4
def legalClass (code : Nat) : Bool := code ≤ 2 || code == 5

/-- A dot product instruction: D is one 32-bit accumulator. -/
def dotOp (i : Instr) (legal : Nat → Bool) (n : Nat) (d a b : Reg) (s : State) : Host.Outcome State Fault Refusal :=
  issue i (fun m => legal (modeType m)) s fun c =>
    c.typedResult true false 1 32 d fun l r _ =>
      dotElem n (elemOf (modeType c.mode)) r (c.val a l).toNat (c.val b l).toNat (c.val d l).toNat

/-- UNPACKLO and UNPACKHI (R175). -/
def unpackOp (i : Instr) (hi : Nat) (d a : Reg) (s : State) : Host.Outcome State Fault Refusal :=
  issue i (fun m => legalPacked (modeType m)) s fun c =>
    let code := modeType c.mode
    let half := elementCount code / 2
    let w := (elemOf code).width
    c.typedResult false false half (widerElem code).width d fun l r e =>
      convertElem ⟨0, false, r.ftz, none⟩ (elemOf code) (widerElem code) (elemAt w (c.val a l).toNat (half * hi + e))

/-! ## The instructions (R162) -/

/-- ADD (0x40, R166). -/
def execAddT (d a b : Reg) (s : State) : Host.Outcome State Fault Refusal :=
  typedOp (.addT d a b) legalAll true d a b addElem s

/-- SUB (0x41, R166). -/
def execSubT (d a b : Reg) (s : State) : Host.Outcome State Fault Refusal :=
  typedOp (.subT d a b) legalAll true d a b subElem s

/-- MUL (0x42, R166). -/
def execMulT (d a b : Reg) (s : State) : Host.Outcome State Fault Refusal :=
  typedOp (.mulT d a b) legalAll true d a b (fun el r a b _ => mulElem el r a b) s

/-- FMA (0x43, R166). -/
def execFma (d a b : Reg) (s : State) : Host.Outcome State Fault Refusal :=
  typedOp (.fma d a b) legalAll true d a b fmaElem s

/-- FMS (0x44, R166). -/
def execFms (d a b : Reg) (s : State) : Host.Outcome State Fault Refusal :=
  typedOp (.fms d a b) legalAll true d a b fmsElem s

/-- FNMA (0x45, R166). -/
def execFnma (d a b : Reg) (s : State) : Host.Outcome State Fault Refusal :=
  typedOp (.fnma d a b) legalAll true d a b fnmaElem s

/-- MIN (0x46, R167). -/
def execMinT (d a b : Reg) (s : State) : Host.Outcome State Fault Refusal :=
  typedOp (.minT d a b) legalAll false d a b (fun el r a b _ => minMaxElem false el r.ftz a b) s

/-- MAX (0x47, R167). -/
def execMaxT (d a b : Reg) (s : State) : Host.Outcome State Fault Refusal :=
  typedOp (.maxT d a b) legalAll false d a b (fun el r a b _ => minMaxElem true el r.ftz a b) s

/-- ABS (0x48, R168). -/
def execAbsT (d a : Reg) (s : State) : Host.Outcome State Fault Refusal :=
  typedOp (.absT d a) legalAll false d a (.c 0) (fun el r a _ _ => absElem el r a) s

/-- NEG (0x49, R168). -/
def execNegT (d a : Reg) (s : State) : Host.Outcome State Fault Refusal :=
  typedOp (.negT d a) legalAll false d a (.c 0) (fun el r a _ _ => negElem el r a) s

/-- CLAMP (0x4A): MIN(MAX(d, a), b) (R167). -/
def execClamp (d a b : Reg) (s : State) : Host.Outcome State Fault Refusal :=
  typedOp (.clamp d a b) legalAll false d a b
    (fun el r a b d => minMaxElem false el r.ftz (minMaxElem true el r.ftz d a) b) s

/-- DIV (0x4B, R169). -/
def execDivT (d a b : Reg) (s : State) : Host.Outcome State Fault Refusal :=
  typedOp (.divT d a b) legalDiv true d a b (fun el r a b _ => divElem el r a b) s

/-- SQRT (0x4C, R169). -/
def execSqrt (d a : Reg) (s : State) : Host.Outcome State Fault Refusal :=
  typedOp (.sqrt d a) legalFloat true d a (.c 0) (fun el r a _ _ => sqrtElem el r a) s

/-- RCP (0x4D, R170). -/
def execRcp (d a : Reg) (s : State) : Host.Outcome State Fault Refusal :=
  typedOp (.rcp d a) legalApprox false d a (.c 0) (fun el r a _ _ => approxElem .rcp el r a) s

/-- RSQ (0x4E, R170). -/
def execRsq (d a : Reg) (s : State) : Host.Outcome State Fault Refusal :=
  typedOp (.rsq d a) legalApprox false d a (.c 0) (fun el r a _ _ => approxElem .rsq el r a) s

/-- EXP2 (0x4F, R170). -/
def execExp2 (d a : Reg) (s : State) : Host.Outcome State Fault Refusal :=
  typedOp (.exp2 d a) legalApprox false d a (.c 0) (fun el r a _ _ => approxElem .exp2 el r a) s

/-- LOG2 (0x50, R170). -/
def execLog2 (d a : Reg) (s : State) : Host.Outcome State Fault Refusal :=
  typedOp (.log2 d a) legalApprox false d a (.c 0) (fun el r a _ _ => approxElem .log2 el r a) s

/-- SINPI (0x51, R170). -/
def execSinpi (d a : Reg) (s : State) : Host.Outcome State Fault Refusal :=
  typedOp (.sinpi d a) legalApprox false d a (.c 0) (fun el r a _ _ => approxElem .sinpi el r a) s

/-- COSPI (0x52, R170). -/
def execCospi (d a : Reg) (s : State) : Host.Outcome State Fault Refusal :=
  typedOp (.cospi d a) legalApprox false d a (.c 0) (fun el r a _ _ => approxElem .cospi el r a) s

/-- FRACT (0x53, R172). -/
def execFract (d a : Reg) (s : State) : Host.Outcome State Fault Refusal :=
  typedOp (.fract d a) legalFloat true d a (.c 0) (fun el r a _ _ => fractElem el r a) s

/-- FLOOR (0x54, R172). -/
def execFloor (d a : Reg) (s : State) : Host.Outcome State Fault Refusal :=
  typedOp (.floor d a) legalFloat true d a (.c 0) (fun el r a _ _ => integralElem 3 el r a) s

/-- CEIL (0x55, R172). -/
def execCeil (d a : Reg) (s : State) : Host.Outcome State Fault Refusal :=
  typedOp (.ceil d a) legalFloat true d a (.c 0) (fun el r a _ _ => integralElem 2 el r a) s

/-- TRUNC (0x56, R172). -/
def execTrunc (d a : Reg) (s : State) : Host.Outcome State Fault Refusal :=
  typedOp (.trunc d a) legalFloat true d a (.c 0) (fun el r a _ _ => integralElem 1 el r a) s

/-- RINT (0x57): to an integral value in the mode's rounding (R172). -/
def execRint (d a : Reg) (s : State) : Host.Outcome State Fault Refusal :=
  typedOp (.rint d a) legalFloat true d a (.c 0) (fun el r a _ _ => integralElem r.round el r a) s

/-- CVT (0x58): A, read as the type that B names, in the mode type (R173). -/
def execCvt (d a : Reg) (b : Selector) (s : State) : Host.Outcome State Fault Refusal :=
  issue (.cvt d a b) (fun m => elementCount b.toNat == elementCount (modeType m)) s fun c =>
    let code := modeType c.mode
    let src := elemOf b.toNat
    c.typedResult true (type64 code) (elementCount code) (elemOf code).width d fun l r e =>
      convertElem r src (elemOf code) (elemAt src.width (c.valT b.toNat a l) e)

/-- PACK (0x59): elements of A, then of B, narrowed (R174). -/
def execPack (d a b : Reg) (s : State) : Host.Outcome State Fault Refusal :=
  issue (.pack d a b) (fun m => legalPacked (modeType m)) s fun c =>
    let code := modeType c.mode
    let src := widerElem code
    let half := elementCount code / 2
    c.typedResult true false (elementCount code) (elemOf code).width d fun l r e =>
      convertElem r src (elemOf code)
        (if e < half then elemAt src.width (c.val a l).toNat e else elemAt src.width (c.val b l).toNat (e - half))

/-- UNPACKLO (0x5A, R175). -/
def execUnpacklo (d a : Reg) (s : State) : Host.Outcome State Fault Refusal := unpackOp (.unpacklo d a) 0 d a s

/-- UNPACKHI (0x5B, R175). -/
def execUnpackhi (d a : Reg) (s : State) : Host.Outcome State Fault Refusal := unpackOp (.unpackhi d a) 1 d a s

/-- DOT2 (0x5C, R176). -/
def execDot2 (d a b : Reg) (s : State) : Host.Outcome State Fault Refusal := dotOp (.dot2 d a b) legalDot2 2 d a b s

/-- DOT4 (0x5D, R177). -/
def execDot4 (d a b : Reg) (s : State) : Host.Outcome State Fault Refusal := dotOp (.dot4 d a b) legalDot4 4 d a b s

/-- SCALEB (0x5E): B is one 32-bit register for every element (R178). -/
def execScaleb (d a b : Reg) (s : State) : Host.Outcome State Fault Refusal :=
  issue (.scaleb d a b) (fun m => legalFloat (modeType m)) s fun c =>
    let code := modeType c.mode
    let w := (elemOf code).width
    c.typedResult true (type64 code) (elementCount code) w d fun l r e =>
      scalebElem (elemOf code) r (elemAt w (c.valT code a l) e) (c.val b l)

/-- CLASS (0x5F): the encoding as stored; one 32-bit register (R179). Under rsr the generator steps, as R161 has it. -/
def execClassT (d a : Reg) (s : State) : Host.Outcome State Fault Refusal :=
  issue (.classT d a) (fun m => legalClass (modeType m)) s fun c =>
    let code := modeType c.mode
    c.typedResult true false 1 32 d fun l _ _ =>
      match elemOf code with
      | .float f => 2 ^ f.classBit (elemAt f.bits (c.valT code a l) 0)
      | .int _ _ => 0

end Sys2Proof.Machine
end

