-- ==== Sys2Proof/Machine/Images.lean ====
section
/-!
DEFINITION. Sys2Proof/Machine/Images.lean: a group as a save image (R375), a group restored from one (R376), and the resumption of a
halted group (R377).
-/

namespace Sys2Proof.Machine

open Sys2Proof

/-! ## The image of a group (R375) -/

/-- Before a save slot is copied, the divergence entries and the cursors on the chip are flushed into it. -/
def Wave.flush (w : Wave) : Wave :=
  let w := w.stack.foldl (fun (w : Wave) e =>
    match (List.range 64).find? fun i => (w.spillEntry i).isNone with
    | some i => w.setSpill i (some e)
    | none => w) { w with stack := [] }
  w.cursors.foldl (fun (w : Wave) x =>
    { w.writeSave (cursorSave x.id) x.bytes with spilledCursors := insertNew x.id w.spilledCursors }) { w with cursors := [] }

/-- The kind of a wait in R36's order, for the waits that R36 lists. -/
def Wait.number : Wait → Option Nat
  | Wait.sleep => some 0
  | .engine => some 1
  | .barrier => some 2
  | .join => some 3
  | .cap => some 4
  | .registers => some 5
  | _ => Option.none
def waitOf (n : Nat) : Wait :=
  match n with
  | 0 => .sleep
  | 1 => .engine
  | 2 => .barrier
  | 3 => .join
  | 4 => .cap
  | _ => .registers

/-- A slot in a wave header. -/
def slotBytes (p : Option Path) : List Byte :=
  match p with
  | none => natBytes 16 0
  | some p =>
    let flags := match p.wait.number with | some n => 3 + 16 * n | none => 1
    natBytes 4 p.pc.toNat ++ natBytes 4 p.mask.toNat ++ natBytes 4 p.mode.toNat ++ natBytes 4 flags

/-- Words of a table, 4 bytes each. -/
def wordsBytes (n : Nat) (f : Nat → Word) : List Byte := (List.range n).flatMap fun i => natBytes 4 (f i).toNat

/-- A cap record in a wave header: recorded as expired (R198). -/
def capBytes (r : CapRecord) : List Byte :=
  match r with
  | .empty => natBytes 16 0
  | .asked va _ | .held va _ | .expired va => natBytes 8 (va * 128) ++ natBytes 8 2

/-- The teams of a launch that a wave is a member of, with whether it has arrived in the current phase. -/
def State.memberships (s : State) (g : Group) (wi : Nat) : List (Nat × Bool) :=
  match g.launch with
  | none => []
  | some l =>
    match s.launches.find? l with
    | none => []
    | some x => (List.range x.teams.length).filterMap fun i =>
        match x.teams[i]? with
        | some t => if (g.linear, wi) ∈ t.members then some (i, t.arrived.contains (g.linear, wi)) else none
        | none => none

/-- The 1,024 bytes of a wave header. The wave's transaction has been aborted. -/
def State.waveHeader (s : State) (g : Group) (wi : Nat) (w : Wave) : List Byte :=
  let teams := ((s.memberships g wi).take 4).flatMap fun x => natBytes 4 (x.1 % 256 + 256 * x.2.toNat)
  natBytes 4 wi ++ natBytes 4 w.n ++ natBytes 4 w.live.toNat ++ natBytes 4 w.fmask.toNat ++
    slotBytes w.slotA ++ slotBytes w.slotB ++
    natBytes 4 (w.idemIn.toNat + 256 * w.idemId.toNat) ++ natBytes 4 w.idemPc.toNat ++ natBytes 72 0 ++
    ((List.range 32).map fun l => Tab.get 0#8 w.tcode l) ++ natBytes 96 0 ++
    ((List.range 32).flatMap fun l => natBytes 8 (Tab.get 0#64 w.taddr l).toNat) ++
    wordsBytes 32 (fun i => Tab.get 0#32 w.k i) ++
    wordsBytes 8 (fun i => if i = 0 then 0xFFFFFFFF#32 else Tab.get 0#32 w.q i) ++
    wordsBytes 32 w.generatorOf ++ capBytes w.cap0 ++ capBytes w.cap1 ++
    (teams ++ natBytes (16 - teams.length) 0) ++
    ((List.range 4).flatMap fun i => natBytes 1 (Tab.get 0 w.counts i)) ++ natBytes 4 w.srseed.toNat ++
    natBytes 4 w.pacecheck.toNat ++ natBytes 164 0

/-- The v registers of a wave: one that is dead in every lane is saved as 0 (R317). -/
def Wave.registerBytes (w : Wave) : List Byte :=
  (List.range w.n).flatMap fun n =>
    let gone := w.lanes &&& ~~~(Tab.get 0#32 w.dead n) = 0#32
    wordsBytes 32 fun l => if gone then 0#32 else Tab.get 0#32 w.v (vKey n l)

/-- The accumulator tiles of a wave. -/
def Wave.tileBytes (w : Wave) (tiles : Nat) : List Byte :=
  (List.range tiles).flatMap fun t => wordsBytes 512 fun j => Tab.get 0#32 (Tab.get {} w.tiles t).cells j

/-- The part of the image that a wave takes. -/
def State.waveImage (s : State) (g : Group) (wi : Nat) (w : Wave) : List Byte :=
  s.waveHeader g wi w ++ ((List.range 0x4000).map fun i => Tab.get 0#8 w.save i) ++ w.registerBytes ++ w.tileBytes g.accTiles

/-- A number made of fields of n bits each, the first lowest. -/
def packBits (n : Nat) : List Nat → Nat
  | [] => 0
  | x :: r => x + 2 ^ n * packBits n r

/-- How many scale words a column has. -/
def MacroSlot.perColumn (m : MacroSlot) : Nat := if m.thin then 4 else 2

/-- The 17,920 bytes of a macro: per column its elements, scales and codes, in the order of memory (R237). -/
def MacroSlot.bytes (m : MacroSlot) : List Byte :=
  let p := m.perColumn
  (List.range 64).flatMap (fun c => natBytes 248 (packBits 31 ((List.range 64).map fun e => Tab.get residueZero m.kept (e * 64 + c)))) ++
    ((List.range 64).flatMap fun c => (List.range p).flatMap fun b => natBytes 4 (Tab.get 0#32 m.scales (b * 64 + c)).toNat) ++
    natBytes (1024 - 256 * p) 0 ++
    (List.range 64).flatMap fun c => natBytes 16 (packBits 2 ((List.range 64).map fun e => Tab.get 0 m.codes (e * 64 + c)))

/-- A macro record of the image's header: K start ÷ 64, dim0, format, sparse flag; 0 for a macro that holds no tile. -/
def MacroSlot.record (m : MacroSlot) : List Byte :=
  natBytes 8 (if m.loaded then m.kStart / 64 % 2 ^ 26 + 2 ^ 26 * (m.dim0 % 2 ^ 32) + 2 ^ 58 * (m.format % 32) + 2 ^ 63 * m.sparse.toNat else 0)

/-- The bytes of scratch in an image: the declared size in whole units of 4 KiB. -/
def Group.imageScratch (g : Group) : Nat := roundUp g.scratchBytes 4096
/-- Where the waves' parts begin. -/
def Group.imageWaves (g : Group) : Nat := 256 + g.imageScratch + g.imageScratch / 512 + 17920 * g.macros.length
/-- The bytes of a wave's part. -/
def waveImageBytes (n tiles : Nat) : Nat := 1024 + 0x4000 + 128 * n + 2048 * tiles
/-- The length of the image. -/
def Group.imageBytes (g : Group) : Nat := g.waves.foldl (fun x w => x + waveImageBytes w.n g.accTiles) g.imageWaves

/-- The image's header. -/
def Group.imageHeader (gk : Nat) (g : Group) : List Byte :=
  let macros := g.macros.flatMap MacroSlot.record
  natBytes 8 g.linear ++ natBytes 4 g.gidX ++ natBytes 4 g.gidY ++ natBytes 4 g.gidZ ++ natBytes 1 g.j ++ natBytes 1 g.gangSize ++
    natBytes 2 g.lanes ++ natBytes 1 g.waves.length ++ natBytes 1 g.accTiles ++ natBytes 1 g.macros.length ++ natBytes 1 0 ++
    natBytes 4 g.scratchBytes ++ natBytes 1 (dieOfGroup gk) ++ natBytes 1 (coreOfGroup gk % Config.coresPerDie) ++ natBytes 1 g.tag ++
    natBytes 1 0 ++ natBytes 4 g.ctx ++ natBytes 8 g.imageBytes ++ natBytes 16 0 ++ (macros ++ natBytes (192 - macros.length) 0)

/-- The image of a flushed group. -/
def State.image (s : State) (gk : Nat) (g : Group) : List Byte :=
  g.imageHeader gk ++
    ((List.range g.imageScratch).map fun i => Tab.get 0#8 g.scratch i) ++
    ((List.range (g.imageScratch / 512)).map fun i =>
      BitVec.ofNat 8 (packBits 2 ((List.range 4).map fun j => Tab.get 0 g.granules (4 * i + j)))) ++
    g.macros.flatMap MacroSlot.bytes ++
    (List.range g.waves.length).flatMap fun i => match g.waves[i]? with | some w => s.waveImage g i w | none => []

/-- Flush the waves of a group. -/
def State.flushGroup (s : State) (gk : Nat) : State :=
  match s.groups.find? gk with
  | some g => { s with groups := s.groups.set gk { g with waves := g.waves.map Wave.flush } }
  | none => s

/-- Whether a group's image can be taken: its counted operations have completed and its accesses are performed (R375); results on their
way are written. -/
def State.groupQuiet (s : State) (gk : Nat) : Bool :=
  match s.groups.find? gk with
  | none => true
  | some g =>
    (List.range g.waves.length).all (fun i =>
      s.quiet gk i && !s.enginesBusy gk i s.serial &&
        (match g.waves[i]? with | some w => (List.range 4).all (fun k => Tab.get 0 w.counts k = 0) && w.matBatches = [] | none => true)) &&
      !s.agenda.any fun t => match t with | .event (.resultWriteback g' _ _) => g' == gk | _ => false

/-! ## A group from an image (R376) -/

/-- A field of an image. -/
def fieldAt (bs : List Byte) (off n : Nat) : Nat := bytesNat ((bs.drop off).take n)
def wordAt (bs : List Byte) (off : Nat) : Word := BitVec.ofNat 32 (fieldAt bs off 4)

/-- A table of words from an image. -/
def wordsTab (bs : List Byte) (off n : Nat) (key : Nat → Nat) : Tab Word :=
  (List.range n).foldl (fun (t : Tab Word) i => t.put 0#32 (key i) (wordAt bs (off + 4 * i))) []

/-- A slot from a wave header: the wait resumes. -/
def slotFrom (bs : List Byte) (off mark clk : Nat) : Option Path :=
  let flags := fieldAt bs (off + 12) 4
  if bitOf flags 0 then
    some { pc := wordAt bs off, mask := wordAt bs (off + 4), mode := BitVec.ofNat 24 (fieldAt bs (off + 8) 4), readyAt := clk,
           wait := if bitOf flags 1 then waitOf (bitsOf flags 4 4) else .none, waitMark := mark }
  else none

def capFrom (bs : List Byte) (off : Nat) : CapRecord :=
  if fieldAt bs (off + 8) 8 = 0 then .empty else .expired (fieldAt bs off 8 / 128)

/-- A wait that the image has no kind for stays with a path that the group still has. -/
def keepWait (old p : Option Path) : Option Path :=
  match old, p with
  | some o, some p => if p.wait = .none && o.pc = p.pc && o.mask = p.mask then some { p with wait := o.wait, waitMark := o.waitMark } else some p
  | _, p => p

/-- A wave from its part of an image; what the part has no place for stays as `old` has it. A wave that waits at a barrier waits in the
phase it arrived in, and goes on when that has ended. -/
def State.waveFrom (s : State) (g : Group) (old : Wave) (bs : List Byte) : Wave :=
  let n := fieldAt bs 4 4
  let a := keepWait old.slotA (slotFrom bs 0x10 s.serial s.clk)
  let b := keepWait old.slotB (slotFrom bs 0x20 s.serial s.clk)
  let idem := fieldAt bs 0x30 4
  let regs := 1024 + 0x4000
  let key (id : Nat) (slotB : Bool) (p : Option Path) (recorded : Bool) : List (Nat × Word) :=
    let k := id * 2 + slotB.toNat
    let waits : Bool := match p with | some p => p.wait == .barrier | none => false
    match waits, old.arrived.find? (fun x => x.1 == k), recorded, g.launch with
    | true, some x, _, _ => [x]
    | true, none, true, some l =>
      match s.team l id with
      | some t => [(k, if t.arrived.contains (g.linear, fieldAt bs 0 4) then t.phase else t.phase - 1)]
      | none => []
    | _, _, _, _ => []
  let arrived := (List.range 4).flatMap fun i =>
    let x := fieldAt bs (0x340 + 4 * i) 4
    key (x % 256) false a (bitOf x 8) ++ key (x % 256) true b (bitOf x 8)
  let w : Wave := { old with
    n := n, live := wordAt bs 8, fmask := wordAt bs 12, slotA := a, slotB := b,
    idemIn := bitOf idem 0, idemId := BitVec.ofNat 24 (idem / 256), idemPc := wordAt bs 0x34, tx := none,
    tcode := (List.range 32).foldl (fun (t : Tab Byte) l => t.put 0#8 l (bs.getD (0x80 + l) 0#8)) [],
    taddr := (List.range 32).foldl (fun (t : Tab DWord) l => t.put 0#64 l (BitVec.ofNat 64 (fieldAt bs (0x100 + 8 * l) 8))) [],
    k := wordsTab bs 0x200 32 id,
    q := wordsTab bs 0x284 7 (fun i => i + 1),
    generator := (List.range 32).foldl (fun (t : Tab Word) l => t.set l (wordAt bs (0x2A0 + 4 * l))) [],
    cap0 := capFrom bs 0x320, cap1 := capFrom bs 0x330, srseed := wordAt bs 0x354,
    pacecheck := bitOf (fieldAt bs 0x358 4) 0, acquired := s.writes, seen := [],
    save := (List.range 0x4000).foldl (fun (t : Tab Byte) i => t.put 0#8 i (bs.getD (1024 + i) 0#8)) [],
    v := wordsTab bs regs (32 * n) id,
    dead := [], cursors := [], arrived := arrived,
    tiles := (List.range g.accTiles).foldl (fun (t : Tab Tile) i =>
      t.put {} i ⟨(Tab.get {} old.tiles i).kind, wordsTab bs (regs + 128 * n + 2048 * i) 512 id⟩) [] }
  w.refill 8

/-- The waves from the rest of an image; none when it is malformed: a wave's index, its window (R24) or its lanes. -/
def State.wavesFrom (s : State) (g : Group) : Nat → List Wave → List Byte → Option (List Wave)
  | _, [], bs => if bs = [] then some [] else none
  | wi, old :: rest, bs =>
    let n := fieldAt bs 4 4
    let size := waveImageBytes n g.accTiles
    if fieldAt bs 0 4 ≠ wi || n % 8 ≠ 0 || n < 8 || 192 < n || bs.length < size || wordAt bs 8 &&& ~~~old.lanes ≠ 0#32 then none
    else
      match s.wavesFrom g (wi + 1) rest (bs.drop size) with
      | some ws => some (s.waveFrom g old (bs.take size) :: ws)
      | none => none

/-- A macro from its record and its 17,920 bytes. -/
def macroFrom (record : Nat) (bs : List Byte) : MacroSlot :=
  let format := bitsOf record 58 5
  let thin := bitOf record 63
  let p := if thin then 4 else 2
  if format = 0 then {}
  else
    { loaded := true, kStart := 64 * bitsOf record 0 26, dim0 := bitsOf record 26 32, format := format, sparse := thin, filled := true,
      scaled := formatScaled format, thin := thin,
      kept := (List.range 4096).foldl (fun (t : Tab Nat) j =>
        t.put residueZero (j % 64 * 64 + j / 64) (bitsOf (fieldAt bs (248 * (j / 64)) 248) (31 * (j % 64)) 31)) [],
      codes := if thin then (List.range 4096).foldl (fun (t : Tab Nat) j =>
        t.put 0 (j % 64 * 64 + j / 64) (bitsOf (fieldAt bs (16896 + 16 * (j / 64)) 16) (2 * (j % 64)) 2)) [] else [],
      scales := (List.range (64 * p)).foldl (fun (t : Tab Word) j => t.put 0#32 (j % p * 64 + j / p) (wordAt bs (15872 + 4 * j))) [] }

/-- Whether a header is that of a group: what its launch fixed, and a length that agrees. -/
def headerFits (g : Group) (bs : List Byte) : Bool :=
  let size := fieldAt bs 40 8
  fieldAt bs 0 8 == g.linear && fieldAt bs 8 4 == g.gidX && fieldAt bs 12 4 == g.gidY && fieldAt bs 16 4 == g.gidZ &&
    fieldAt bs 20 1 == g.j && fieldAt bs 21 1 == g.gangSize && fieldAt bs 22 2 == g.lanes && fieldAt bs 24 1 == g.waves.length &&
    fieldAt bs 25 1 == g.accTiles && fieldAt bs 26 1 == g.macros.length && fieldAt bs 28 4 == g.scratchBytes && fieldAt bs 34 1 == g.tag &&
    fieldAt bs 36 4 == g.ctx && size == bs.length && decide (g.imageWaves ≤ size)

/-- The group that an image holds, all its waves as they were saved; none when the image is malformed. -/
def State.groupFrom (s : State) (old : Group) (bs : List Byte) : Option Group :=
  if !headerFits old bs then none
  else
    let sc := old.imageScratch
    match s.wavesFrom old 0 old.waves (bs.drop old.imageWaves) with
    | none => none
    | some ws =>
      some { old with
        scratch := (List.range sc).foldl (fun (t : Tab Byte) i => t.put 0#8 i (bs.getD (256 + i) 0#8)) []
        granules := (List.range (sc / 128)).foldl (fun (t : Tab Nat) i =>
          t.put 0 i (bitsOf (bs.getD (256 + sc + i / 4) 0#8).toNat (2 * (i % 4)) 2)) []
        macros := (List.range old.macros.length).map fun i =>
          macroFrom (fieldAt bs (64 + 8 * i) 8) ((bs.drop (256 + sc + sc / 512 + 17920 * i)).take 17920)
        waves := ws }

/-- Whether a core takes a restored group (R376): an enabled user core with room under R17; for a group of a gang, a core of the group's
hive that no other group of the gang holds. -/
def State.takesGroup (s : State) (gk : Option Nat) (g : Group) (core : Nat) : Bool :=
  let s' := match gk with | some k => { s with groups := s.groups.erase k } | none => s
  let mates := s'.groups.keysWhere fun _ x => x.launch == g.launch && x.gang == g.gang
  s.enabled core && ((s'.coreUse core).plus g.holds).fits &&
    (g.gangSize = 1 ||
      (mates.all (fun k => coreOfGroup k ≠ core && hiveOfCore (coreOfGroup k) == hiveOfCore core) &&
        (match gk with | some k => hiveOfCore (coreOfGroup k) == hiveOfCore core | none => true)))

/-- What names a group by its key names it by another one. -/
def State.renameGroup (s : State) (a b : Nat) : State :=
  let who (w : Waiter) : Waiter := match w with | .path g w' sl => .path (if g = a then b else g) w' sl | .issuing g w' sl => .issuing (if g = a then b else g) w' sl | x => x
  let round (r : Reduction) : Reduction :=
    { r with takers := r.takers.map fun x => (if x.1 = a then b else x.1, x.2) }
  { s with
    faults := s.faults.map fun (f : FaultEntry) => { f with waiters := f.waiters.map who, addrs := f.addrs.map fun x => (who x.1, x.2) }
    faultResults := s.faultResults.map fun (r : FaultResult) => if r.g = a then { r with g := b } else r
    refused := s.refused.map fun (r : Refused) => { r with who := who r.who }
    launches := s.launches.mapVals fun _ (l : Launch) =>
      { l with teams := l.teams.map fun (t : Team) => { t with sums := t.sums.map round, mins := t.mins.map round, maxs := t.maxs.map round } } }

/-- Put a restored group on a core; its new key. A wave in handler mode goes on in the image of its new die's handler. -/
def State.settleOn (s : State) (core : Nat) (g : Group) : State × Nat :=
  let key := core * Config.groupSlots + s.freeSlot core
  let (base, len, _) := s.handlerImage (dieOfCore core)
  let ready := s.clk + s.bankWake core (g.waves.foldl (fun n (w : Wave) => max n w.n) 0)
  let late (p : Option Path) : Option Path := p.map fun p => { p with readyAt := max p.readyAt ready }
  let g := { g with waves := g.waves.map fun (w : Wave) =>
    { w with handler := w.handler.map fun h => { h with base := base, len := len }, slotA := late w.slotA, slotB := late w.slotB } }
  (({ s with groups := s.groups.set key g }.wakeBanks core (g.waves.foldl (fun n (w : Wave) => max n w.n) 0)).startSamples g.ctx core, key)

/-- Restore the image of a resident group, on another core or its own (R376). The group is halted; its old core's resources are free, and
what a group that was running had under way is gone. -/
def State.reload (s : State) (gk : Nat) (old g : Group) (core : Nat) : State × Nat :=
  let s := if old.halted then s else s.dropWork gk
  let t := { s with groups := s.groups.erase gk, grows := s.grows.filter fun r => r.1 ≠ gk }
  let t := t.gateLater (coreOfGroup gk) (s.banksFreed t (coreOfGroup gk))
  let (s, key) := t.settleOn core { g with halted := true, saving := false, retired := old.retired }
  (s.renameGroup gk key, key)

/-- Restore the image of a group that pre-emption has saved: the group is resident again, and halted. -/
def State.reloadSaved (s : State) (y : SavedGroup) (g : Group) (core : Nat) : State × Nat :=
  let (s, key) := s.settleOn core { g with halted := true }
  let s := s.renameGroup y.key key
  let c := s.context g.ctx
  let s := s.setContext g.ctx { c with saved := c.saved.filter fun z => z.key ≠ y.key }
  let mine (x : Gang) : Bool := g.launch == some x.launch && g.gang == x.index
  let ids := s.gangs.keysWhere fun _ x => mine x
  ({ s with gangs := s.gangs.mapVals fun _ (x : Gang) => if mine x then { x with placed := true } else x
            queues := s.queues.mapVals fun _ (q : Queue) => { q with gangs := q.gangs.filter fun i => !ids.contains i } }, key)

/-- Whether an image names a group: its context, tag and linear index. -/
def names (bs : List Byte) (g : Group) : Bool :=
  g.ctx == fieldAt bs 36 4 && g.tag == fieldAt bs 34 1 && g.linear == fieldAt bs 0 8 && g.launch.isSome

/-- The resident group that an image names, one that is halted first. -/
def State.imageGroup (s : State) (bs : List Byte) : Option (Nat × Group) :=
  match List.find? (fun (x : Nat × Group) => names bs x.2 && x.2.halted) s.groups with
  | some x => some x
  | none => List.find? (fun (x : Nat × Group) => names bs x.2) s.groups

/-- The load command and GLOAD (R376): a status and the handle of the restored group. An image names a group that is resident, or that
pre-emption has saved. -/
def State.loadImage (s : State) (bs : List Byte) (core : Nat) : State × Nat × Nat :=
  match s.imageGroup bs with
  | some (gk, old) =>
    match s.groupFrom old bs with
    | none => (s, 5, 0)
    | some g =>
      if !s.takesGroup (some gk) g core then (s, 4, 0)
      else
        let (s, key) := s.reload gk old g core
        (s, 0, key)
  | none =>
    match (s.context (fieldAt bs 36 4)).saved.find? fun y => names bs y.group with
    | none => (s, 5, 0)
    | some y =>
      match s.groupFrom y.group bs with
      | none => (s, 5, 0)
      | some g =>
        if !s.takesGroup none g core then (s, 4, 0)
        else
          let (s, key) := s.reloadSaved y g core
          (s, 0, key)

/-! ## Resuming (R377) -/

/-- A wave of a halted group goes on as its frame says. -/
def State.resumeWave (s : State) (gk wi : Nat) : State :=
  match s.groups.find? gk with
  | none => s
  | some g =>
    match g.waves[wi]? with
    | none => s
    | some w =>
      let slotB := w.frameBits 0 179 1 == 1
      if w.live = 0#32 then s
      else
        match s.ctxAt gk wi slotB with
        | none => s
        | some c =>
          let inHandler := w.frameBits 0 187 1 == 1
          match w.unplaced with
          | some e => if w.handler.isSome || inHandler then s else (c.enterUnplaced e).putPath
          | none =>
            if !inHandler && w.frameBits 0 160 8 ≠ causeDebugHalt then (c.startHandler c.p.mask).putPath
            else
              let e : Entry := ⟨BitVec.ofNat 32 (w.frameBits 0 0 32), c.p.mask, BitVec.ofNat 24 (w.frameBits 0 192 24)⟩
              let w := w.restoreLinks
              let w :=
                if inHandler then
                  let (base, len, _) := c.s.handlerImage c.die
                  { w.writeSave 0 ((List.range 64).map fun i => Tab.get 0#8 w.save (0x40 + i)) with
                    handler := some (w.handler.getD { slotB := slotB, base := base, len := len }) }
                else w
              let c := { c with w := w }
              let p := c.pathOf e
              let p := if e.pc = c.p.pc then { p with wait := c.p.wait, waitMark := c.p.waitMark, comb := c.p.comb,
                                                       raises := match c.p.raises with | some r => some r | none => p.raises } else p
              { c with p := { p with readyAt := s.clk } }.putPath

/-- Resume every wave of a halted group in one clk. -/
def State.resumeGroup (s : State) (gk : Nat) : State :=
  match s.groups.find? gk with
  | none => s
  | some g =>
    let s := (List.range g.waves.length).foldl (fun (s : State) wi => s.resumeWave gk wi) s
    match s.groups.find? gk with
    | some g => { s with groups := s.groups.set gk { g with halted := false } }
    | none => s

end Sys2Proof.Machine
end

