-- ==== Sys2Proof/Machine/Contexts.lean ====
section
/-!
DEFINITION. Sys2Proof/Machine/Contexts.lean: the commands of a context (R366 to R377), pre-emption and its deadlines (R151, R365, R369,
R384), saving and restoring by pre-emption (R370), the placement of a gang (R352, R353), hang watchdogs (R374), the samples of the marker
trace (R378), the creation of a context (R367).
-/

namespace Sys2Proof.Machine

open Sys2Proof

/-- A command that the control block has taken is performed (R366, R368); without one there is nothing to do. -/
def State.command (s : State) (ctx value : Nat) (body : Context → State) : State :=
  let c := s.context ctx
  if ctx ≠ 0 && c.cmdStatus = 1 && c.cmd = value then body c else s

/-- The firmware has performed a command. -/
def State.commandEnds (s : State) (ctx status : Nat) : State := s.setContext ctx { s.context ctx with cmdStatus := status, cmd := 0 }

/-! ## Saving by pre-emption (R370) -/

/-- The groups of a context that pre-emption saves: resident and not halted, of gangs that have not retired; those of them that have retired
go with the others, since their scratch is held until the gang retires (R18). -/
def State.toSave (s : State) (ctx : Nat) : List Nat :=
  let mates (a b : Group) : Bool := a.launch == b.launch && a.gang == b.gang
  s.groupKeys fun _ g => g.ctx == ctx && g.launch.isSome && !g.halted &&
    List.any s.groups fun (x : Nat × Group) => mates x.2 g && !x.2.retired && !x.2.halted

/-- A group stops for its image: its transactions abort with code 7, its GROWs are withdrawn. -/
def State.beginSave (s : State) (gk : Nat) : State :=
  match s.groups.find? gk with
  | none => s
  | some g =>
    if g.saving then s
    else
      let s := (List.range g.waves.length).foldl (fun (s : State) wi =>
        match (match g.waves[wi]? with | some w => s.ctxAt gk wi w.haltSlot | none => none) with
        | some c => c.abortAll.putWave
        | none => s) s
      { s with
        groups := s.groups.mapVals fun k (g : Group) => if k = gk then { g with saving := true } else g
        grows := s.grows.filter fun r => r.1 ≠ gk }

/-- Whether nothing of a group that is being saved is under way: its caps have ended and its operations have completed; when its waves have
all ended it has retired (R16). -/
def State.saveReady (s : State) (gk : Nat) : Bool :=
  let settled (r : CapRecord) : Bool := match r with | .empty | .expired _ => true | _ => false
  s.groupQuiet gk && (match s.groups.find? gk with | some g => (g.retired || !g.ended) && g.waves.all fun w => settled w.cap0 && settled w.cap1 | none => true)

/-- The address behind the images that stand in the save area. -/
def Context.saveEnd (c : Context) : Nat := c.saved.foldl (fun n x => max n (x.addr + roundUp x.group.imageBytes 256)) c.saveBase.toNat

/-- The first key that names a group which has been saved: above those of the group slots. -/
def savedKeys : Nat := 4096

/-- Write one group's image and take the group off its core. -/
def State.saveGroup (s : State) (ctx gk : Nat) : State :=
  let s := s.flushGroup gk
  match s.groups.find? gk with
  | none => s
  | some g =>
    let at_ := (s.context ctx).saveEnd
    let s := s.frontWrite ctx at_ (s.image gk g) 5 false 0
    let s := s.fresh
    let key := savedKeys + s.serial
    let s := (s.renameGroup gk key).dropGroup gk
    let c := s.context ctx
    let s := s.setContext ctx { c with saved := c.saved ++ [{ addr := at_, key := key, group := { g with saving := false } }] }
    -- a gang all of whose groups are saved waits again in its queue, ahead of those that have never been placed
    if s.groupKeys (fun _ x => x.launch == g.launch && x.gang == g.gang) ≠ [] then s
    else
      s.gangs.foldl (fun (s : State) (x : Nat × Gang) =>
        match s.launches.find? x.2.launch with
        | none => s
        | some l =>
          if g.launch ≠ some x.2.launch || x.2.index ≠ g.gang then s
          else
            let q := s.queue l.queue
            { s.setQueue l.queue { q with gangs := insertSorted x.1 q.gangs } with
              gangs := s.gangs.set x.1 { x.2 with placed := false, evicted := false, evictAge := 0 } }) s

/-- Insert a group key by (group index, launch) . -/
def State.insertByIndex (s : State) (k : Nat) : List Nat → List Nat
  | [] => [k]
  | x :: r =>
    let rank (k : Nat) : Nat × Nat := match s.groups.find? k with | some g => (g.linear, g.launch.getD 0) | none => (0, 0)
    let a := rank k
    let b := rank x
    if a.1 < b.1 || (a.1 == b.1 && decide (a.2 < b.2)) then k :: x :: r else x :: s.insertByIndex k r

/-- Pre-emption of a save-capable context moves on: its groups stop, and once all of them are quiet their images are written in ascending
group index. While any is left the step comes again. -/
def State.saveStep (s : State) (ctx : Nat) (again : Instr) : State :=
  let c := s.context ctx
  if !c.preempting || !c.saveCapable then s
  else
    let ks := s.toSave ctx
    let s := ks.foldl State.beginSave s
    let s := if ks.all s.saveReady then (ks.foldl (fun (l : List Nat) k => s.insertByIndex k l) []).foldl (fun (s : State) k => s.saveGroup ctx k) s else s
    let s := s.kick
    if (s.context ctx).preempting then s.repost again else s

/-! ## Pre-emption (R369) -/

/-- A context is pre-empted: its placement stops, and its deadlines run while it holds user cores. -/
def State.requestPreempt (s : State) (ctx : Nat) (rivals : List Nat) : State :=
  let c := s.context ctx
  let c := if c.preempting then c else { c with preempting := true, preemptAge := 0, d1Done := false }
  let s := s.setContext ctx { c with stopped := true, heldAge := 0, sliceFor := rivals }
  (((s.postOnce (.d1Deadline ctx)).postOnce (.d2Deadline ctx)).endPreemptions).wakeFront

/-- PREEMPT (R368, R369): command 1; for a save-capable context the step comes again until its groups are saved (R370). -/
def execPreemptCmd (ctx : Nat) (s : State) : Host.Outcome State Fault Refusal :=
  let s := s.command ctx 1 fun _ => (s.requestPreempt ctx []).commandEnds ctx 0
  .next (s.saveStep ctx (.preemptCmd ctx))

/-- SLICE_EXPIRY (R369): the context's gangs have held user cores for its slice while another context's gang waited. -/
def execSliceExpiry (ctx : Nat) (s : State) : Host.Outcome State Fault Refusal :=
  let c := s.context ctx
  let rivals := s.competitors ctx
  if c.slice = 0#32 || c.stopped || rivals = [] then .next s
  else if c.heldAge < c.slice.toNat * 1024 then .next (s.repost (.sliceExpiry ctx))
  else
    let s := s.requestPreempt ctx rivals
    .next (if c.saveCapable then s.post (.preemptCmd ctx) else s)

/-- Whether a wave has an arrival recorded in a phase that has not ended (R151). -/
def Team.waits (t : Team) (linear wave : Nat) : Bool := t.arrived.contains (linear, wave)

/-- Whether a gang may be discarded at D1 (R151). -/
def State.discardable (s : State) (x : Gang) : Bool :=
  let teams := match s.launches.find? x.launch with | some l => l.teams | none => []
  (s.groupKeys fun _ g => g.launch == some x.launch && g.gang == x.index).all fun k =>
    match s.groups.find? k with
    | none => true
    | some g =>
      g.retired || (List.range g.waves.length).all fun wi =>
        match g.waves[wi]? with
        | some w => w.idemIn && !(teams.any fun t => t.waits g.linear wi)
        | none => true

/-- Discard a gang (R151): its groups that have not retired are to restart at their waves' `idem_pc`, and the completion record counts
them. -/
def State.discardGang (s : State) (gid : Nat) : State :=
  match s.gangs.find? gid with
  | none => s
  | some x =>
    let groups := (s.groupKeys fun _ g => g.launch == some x.launch && g.gang == x.index && !g.retired).filterMap fun k => s.groups.find? k
    let restarts := groups.flatMap fun (g : Group) => (List.range g.waves.length).filterMap fun wi =>
      match g.waves[wi]? with
      | some w => some ⟨g.linear, wi, w.idemId, w.idemPc⟩
      | none => none
    let s := s.dropGroups fun _ g => g.launch == some x.launch && g.gang == x.index
    { s with
      gangs := s.gangs.set gid { x with placed := false, evicted := false, evictAge := 0, restarts := restarts }
      launches := s.launches.mapVals fun k (l : Launch) =>
        if k = x.launch then { l with tally := { l.tally with idemRestarts := l.tally.idemRestarts + groups.length } } else l }

/-- The gangs of a context that its deadlines concern at an age: all that are resident when the context is pre-empted, or those that are
pre-empted alone (R384). A save-capable context's gangs are saved instead (R370). -/
def State.gangsDue (s : State) (ctx age : Nat) (saved : Bool) : List Nat :=
  let c := s.context ctx
  s.gangs.keysWhere fun _ (x : Gang) =>
    (match s.launches.find? x.launch with | some l => l.ctx == ctx | none => false) && x.placed &&
      ((c.preempting && decide (age ≤ c.preemptAge) && !(c.saveCapable && !saved)) || (x.evicted && decide (age ≤ x.evictAge)))

/-- The gangs of a co-resident grid go together (R369). -/
def State.gridOf (s : State) (x : Gang) : List Nat :=
  match s.launches.find? x.launch with
  | some l => if l.record.coresident then s.gangs.keysWhere fun _ (y : Gang) => y.launch == x.launch && y.placed else []
  | none => []

/-- Discard those of the gangs given that may be discarded, and requeue them ahead of every gang that waits, in the order of their
launches and of their indices. -/
def State.discardGangs (s : State) (gids : List Nat) : State :=
  let all := gids.foldl (fun (l : List Nat) i =>
    match s.gangs.find? i with
    | some x => (i :: s.gridOf x).foldl (fun (l : List Nat) j => insertSorted j l) l
    | none => l) []
  let able (i : Nat) : Bool :=
    match s.gangs.find? i with
    | some x => (i :: s.gridOf x).all fun j => match s.gangs.find? j with | some y => s.discardable y | none => true
    | none => false
  let out := all.filter able
  let s := out.foldl State.discardGang s
  { s with queues := s.queues.mapVals fun q (x : Queue) =>
      let mine := out.filter fun i =>
        match s.gangs.find? i with
        | some y => (match s.launches.find? y.launch with | some l => l.queue == q | none => false)
        | none => false
      { x with gangs := mine ++ x.gangs } }

/-- Whether a deadline of the context is still to come for some gang. -/
def State.deadlineAhead (s : State) (ctx : Nat) : Bool :=
  (s.context ctx).preempting || List.any s.gangs fun (x : Nat × Gang) =>
    x.2.evicted && (match s.launches.find? x.2.launch with | some l => l.ctx == ctx | none => false)

/-- D1_DEADLINE (R151, R365, R369, R384): while no group of the context is halted. -/
def execD1Deadline (ctx : Nat) (s : State) : Host.Outcome State Fault Refusal :=
  let c := s.context ctx
  let age := c.d1.toNat * clkPerMicro
  if !s.deadlineAhead ctx then .next s
  else if s.contextHalted ctx then .next (s.repost (.d1Deadline ctx))
  else
    let due := (s.gangsDue ctx age false).filter fun i =>
      match s.gangs.find? i with | some x => !c.d1Done || x.evicted | none => false
    let s := s.discardGangs due
    let c := s.context ctx
    let s := s.setContext ctx { c with d1Done := c.d1Done || (c.preempting && decide (age ≤ c.preemptAge)) }
    let s := if due = [] then s else s.kick.wakeFront
    .next (if s.deadlineAhead ctx then s.repost (.d1Deadline ctx) else s)

/-- D2_DEADLINE (R365, R369, R384): the context is reset when a gang that was to leave is still resident. -/
def execD2Deadline (ctx : Nat) (s : State) : Host.Outcome State Fault Refusal :=
  let age := (s.context ctx).d2.toNat * clkPerMicro
  if !s.deadlineAhead ctx then .next s
  else if s.contextHalted ctx || s.gangsDue ctx age true = [] then .next (s.repost (.d2Deadline ctx))
  else .next ((s.resetContext ctx 1).kick.wakeFront)

/-- READMIT (R368, R369): command 2. -/
def execReadmitCmd (ctx : Nat) (s : State) : Host.Outcome State Fault Refusal :=
  .next (s.command ctx 2 fun c => (((s.setContext ctx { c with stopped := false, sliceFor := [] }).commandEnds ctx 0).kick).wakeFront)

/-- RESET (R368, R371): command 3. -/
def execResetCmd (ctx : Nat) (s : State) : Host.Outcome State Fault Refusal :=
  .next (s.command ctx 3 fun _ => (((s.resetContext ctx 2).commandEnds ctx 0).kick).wakeFront)

/-! ## Halting, saving, loading, debugging (R368, R372 to R377) -/

/-- The resident groups of a context that `arg0` names, in ascending group index. -/
def State.named (s : State) (ctx : Nat) : List Nat :=
  let a := (s.context ctx).arg0
  (s.groupKeys fun _ g => g.ctx == ctx && g.launch.isSome && !g.retired && (a == BitVec.allOnes 64 || g.linear == a.toNat)).foldl
    (fun (l : List Nat) k => s.insertByIndex k l) []

def State.isHalted (s : State) (gk : Nat) : Bool := match s.groups.find? gk with | some g => g.halted | none => false

/-- HALT (R368, R373): command 4. A group that is halted stays so. -/
def execHaltCmd (ctx : Nat) (s : State) : Host.Outcome State Fault Refusal :=
  .next (s.command ctx 4 fun _ =>
    let ks := s.named ctx
    let s := ks.foldl (fun (s : State) k => if s.isHalted k then s else s.haltGroup k 1 none) s
    (s.commandEnds ctx (if ks = [] then 2 else 0)).wakeFront)

/-- RESUME (R368, R377): command 5. -/
def execResumeCmd (ctx : Nat) (s : State) : Host.Outcome State Fault Refusal :=
  .next (s.command ctx 5 fun _ =>
    let ks := s.named ctx
    let hs := ks.filter s.isHalted
    let status := if ks = [] then 2 else if hs = [] then 3 else 0
    ((hs.foldl State.resumeGroup s).commandEnds ctx status).wakeFront)

/-- Write the images of halted groups, one behind the other. -/
def State.saveImages (s : State) (ctx : Nat) : Nat → List Nat → State
  | _, [] => s
  | at_, gk :: rest =>
    let s := s.flushGroup gk
    match s.groups.find? gk with
    | none => s.saveImages ctx at_ rest
    | some g => (s.frontWrite ctx at_ (s.image gk g) 5 false 0).saveImages ctx (at_ + roundUp g.imageBytes 256) rest

/-- SAVE (R368, R375): command 6; it waits until the group's operations have completed. -/
def execSaveCmd (ctx : Nat) (s : State) : Host.Outcome State Fault Refusal :=
  .next (s.command ctx 6 fun c =>
    let ks := s.named ctx
    if ks = [] then (s.commandEnds ctx 2).wakeFront
    else if !ks.all s.isHalted then (s.commandEnds ctx 3).wakeFront
    else if !ks.all s.groupQuiet then s.repost (.saveCmd ctx)
    else ((s.saveImages ctx c.arg1.toNat ks).commandEnds ctx 0).wakeFront)

/-- LOAD (R368, R376): command 7. -/
def execLoadCmd (ctx : Nat) (s : State) : Host.Outcome State Fault Refusal :=
  .next (s.command ctx 7 fun c =>
    let die := bitsOf c.arg2.toNat 8 8
    let core := bitsOf c.arg2.toNat 0 8
    let va := c.arg1.toNat
    let ends (s : State) (status : Nat) : State := (s.commandEnds ctx status).wakeFront
    match s.frontRead .record ctx va 256 with
    | .waits s' => s'.repost (.loadCmd ctx)
    | .fails _ _ => ends s 5
    | .ok header =>
      let size := fieldAt header 40 8
      if size < 256 || 2 ^ 23 < size || fieldAt header 36 4 ≠ ctx then ends s 5
      else
        match s.frontRead .record ctx va size with
        | .waits s' => s'.repost (.loadCmd ctx)
        | .fails _ _ => ends s 5
        | .ok bytes =>
          if 4 ≤ die || Config.coresPerDie ≤ core then ends s 4
          else
            let (s, code, _) := s.loadImage bytes (die * Config.coresPerDie + core)
            ends s code)

/-- ATTACH (R368): command 8. -/
def execAttachCmd (ctx : Nat) (s : State) : Host.Outcome State Fault Refusal :=
  .next (s.command ctx 8 fun c => ((s.setContext ctx { c with attached := true }).commandEnds ctx 0).wakeFront)

/-- DETACH (R368): command 9. -/
def execDetachCmd (ctx : Nat) (s : State) : Host.Outcome State Fault Refusal :=
  .next (s.command ctx 9 fun _ =>
    let s := (s.groupKeys fun _ g => g.ctx == ctx && g.halted).foldl State.resumeGroup s
    ((s.setContext ctx { s.context ctx with attached := false }).commandEnds ctx 0).wakeFront)

/-! ## The placement of a gang (R22, R352, R353, R354, R370) -/

/-- Give the saved groups of a gang cores of one hive, in turn. -/
def State.settleIn (s : State) (hive : Nat) : List (SavedGroup × Group) → Option State
  | [] => some s
  | (x, g) :: rest =>
    match ((List.range 4).map fun i => hive * 4 + i).find? (s.takesGroup none g) with
    | none => none
    | some core =>
      let (s, key) := s.settleOn core g
      (s.renameGroup x.key key).settleIn hive rest

/-- The groups that the images hold, with what came for them meanwhile; none when an image is malformed. -/
def State.readSaved (s : State) (ctx : Nat) : List SavedGroup → Got (Option (List (SavedGroup × Group)))
  | [] => .ok (some [])
  | x :: rest =>
    match s.frontRead .record ctx x.addr x.group.imageBytes with
    | .waits s' => .waits s'
    | .fails c a => .fails c a
    | .ok bytes =>
      match s.readSaved ctx rest, s.groupFrom x.group bytes with
      | .ok (some xs), some g =>
        let g := x.late.foldl (fun (g : Group) r =>
          match g.waves[r.1]? with
          | none => g
          | some w =>
            let w := w.writeV r.2.1 r.2.2.1 fun _ => r.2.2.2.1
            g.setWave r.1 { w with scoreboard := w.scoreboard.filter fun o => o.id ≠ r.2.2.2.2 }) g
        .ok (some ((x, { g with halted := false, saving := false }) :: xs))
      | .ok _, _ => .ok none
      | r, _ => r

/-- The paths of a restored group that fitted nowhere trap (R212). -/
def State.wakeGroup (s : State) (gk : Nat) : State :=
  match s.groups.find? gk with
  | none => s
  | some g =>
    (List.range g.waves.length).foldl (fun (s : State) wi =>
      match g.waves[wi]? with
      | none => s
      | some w =>
        match w.unplaced, w.handler, s.ctxAt gk wi false with
        | some e, none, some c => c.trapUnplaced e
        | _, _, _ => s) s

/-- Give the saved groups of several gangs cores, each gang all in one act, in the first hive that takes it (R376); none when one of them does
not fit (R22). -/
def State.settleGangs (s : State) : List (List (SavedGroup × Group)) → Option State
  | [] => some s
  | xs :: rest =>
    match (hiveOrder s.lastDie).findSome? fun h => s.settleIn h xs with
    | none => none
    | some s => s.settleGangs rest

/-- The saved groups of gangs, and with them what their images hold. -/
def State.savedOf (s : State) (ctx : Nat) (xs : List Gang) : List (List SavedGroup) :=
  xs.map fun x => (s.context ctx).saved.filter fun y => y.ofGang x
def State.readGangs (s : State) (ctx : Nat) : List (List SavedGroup) → Got (Option (List (List (SavedGroup × Group))))
  | [] => .ok (some [])
  | ys :: rest =>
    match s.readSaved ctx ys with
    | .ok (some xs) =>
      match s.readGangs ctx rest with
      | .ok (some r) => .ok (some (xs :: r))
      | r => r
    | .ok none => .ok none
    | .waits s' => .waits s'
    | .fails c a => .fails c a

/-- Restore the saved groups of gangs that go together (R22, R370); none while they do not fit. -/
def State.restoreGangs (s : State) (xs : List Gang) (ctx : Nat) : Got (Option State) :=
  let mine (y : SavedGroup) : Bool := xs.any fun x => y.ofGang x
  match s.readGangs ctx (s.savedOf ctx xs) with
  | .waits s' => .waits s'
  | .fails c a => .fails c a
  | .ok none => .ok none
  | .ok (some gs) =>
    match s.settleGangs gs with
    | none => .ok none
    | some s =>
      let s := s.setContext ctx { s.context ctx with saved := (s.context ctx).saved.filter fun y => !mine y }
      let is (l : Nat) (i : Nat) : Bool := xs.any fun x => x.launch == l && x.index == i
      let ids := s.gangs.keysWhere fun _ y => is y.launch y.index
      let s := { s with
        gangs := s.gangs.mapVals fun _ (y : Gang) => if is y.launch y.index then { y with placed := true } else y
        queues := s.queues.mapVals fun _ (q : Queue) => { q with gangs := q.gangs.filter fun i => !ids.contains i } }
      .ok (some ((s.groupKeys fun _ g => xs.any fun x => g.launch == some x.launch && g.gang == x.index).foldl State.wakeGroup s))

/-- What the front end would place of a queue now: its first gang, or the whole of a co-resident grid, with the cores and the die of the last
one; saved gangs find their cores by themselves. -/
inductive Fit where
  | fresh (xs : List (Nat × Gang)) (cores : List (List Nat)) (die : Nat)
  | saved (xs : List Gang) (ctx : Nat)
deriving DecidableEq, Repr

def State.fitting (s : State) (q : Nat) : Option Fit :=
  match s.waitingGang q with
  | none => none
  | some (g, x) =>
    match s.launches.find? x.launch with
    | none => none
    | some l =>
      let xs := s.placedWith g x
      if s.gangSaved x then
        (s.settleGangs ((s.savedOf l.ctx (xs.map (·.2))).map fun ys => ys.map fun y => (y, y.group))).map fun _ => .saved (xs.map (·.2)) l.ctx
      else (s.findAll false l.record (xs.map fun y => y.2.groups) [] s.lastDie).map fun p => .fresh xs p.1 p.2

/-- The queue that places next in a round robin over `qs`: the one whose placing visit comes first; with the number of that round. -/
def State.nextPlacing (s : State) (qs : List Nat) : Option (Nat × Nat) :=
  qs.foldl (fun (best : Option (Nat × Nat)) q =>
    if (s.fitting q).isNone then best
    else
      let n := (s.queue q).visitsNeeded
      match best with
      | some (_, m) => if n < m then some (q, n) else best
      | none => some (q, n)) none

/-- What every placement of `n` gangs changes beside the gangs: the next visit of the level, the queue's deficit when nothing waits there any
more (R352), slices that have waited for it (R369), and the clk of the next placement (R354). -/
def State.afterPlacing (s : State) (level q n ctx : Nat) : State :=
  let s := { s with visits := s.visits.put 0 level (q + 1), placeFrom := s.clk + 4 * n }
  let s := if (s.queue q).gangs = [] && decide ((0 : Int) < (s.queue q).deficit) then s.setQueue q { s.queue q with deficit := 0 } else s
  (s.endSlices ctx).kick

/-- A firmware path that may issue a GLOAD now (R394). -/
def State.loadReady (s : State) : Option (Nat × Nat × Bool) :=
  (s.ready.find? fun x =>
    coreOfGroup x.2.1 % Config.coresPerDie == 0 &&
      (match s.groups.find? x.2.1 with
       | some g =>
         match g.waves[x.2.2.1]? with
         | some w => match w.slot x.2.2.2 with | some p => (s.wordOf g w p).toNat / 2 ^ 24 == 0xD9 | none => false
         | none => false
       | none => false)).map fun x => x.2

/-- GANG_PLACEMENT (R352, R353, R354): the front end places the gang, or restores it when it is saved, when it is next in line and fits; at
most one gang per 4 clk. A GLOAD that may issue in this clk takes its resources first (R394). Groups that are saved while a halted one of their gang stays resident are restored beside it. -/
def execGangPlacement (gang : Nat) (s : State) : Host.Outcome State Fault Refusal :=
  let again (s : State) : Host.Outcome State Fault Refusal := .next (s.repost (.gangPlacement gang))
  match s.gangs.find? gang with
  | none => .next s
  | some x =>
    let ctx := match s.launches.find? x.launch with | some l => l.ctx | none => 0
    if x.placed && s.gangSaved x then
      match s.restoreGangs [x] ctx with
      | .waits s' => again s'
      | .ok (some s) => .next s.kick
      | _ => again s
    else if !s.gangWaits x then .next s
    else if s.clk < s.placeFrom then again s
    else
      match s.loadReady, s.placingLevel with
      | some (g, w, b), _ => .next { s with agenda := .issue g w b :: .event (.gangPlacement gang) :: s.agenda }
      | none, none => again s
      | none, some level =>
        let qs := s.visitOrder level
        match s.nextPlacing qs with
        | none => again (qs.foldl (fun (s : State) q => s.setQueue q ((s.queue q).visited (s.queue q).visitsNeeded)) s)
        | some (q, n) =>
          match s.fitting q, s.waitingGang q with
          | some (.fresh xs cores die), some (g, _) =>
            if g ≠ gang then again s
            else
              let s := s.visitUpTo qs q n
              let s := (xs.zip cores).foldl (fun (s : State) p => s.placeGang p.1.1 p.1.2 p.2) s
              .next ({ s with lastDie := die }.afterPlacing level q xs.length ctx)
          | some (.saved xs _), some (g, _) =>
            if g ≠ gang then again s
            else
              match s.restoreGangs xs ctx with
              | .waits s' => again s'
              | .ok (some s) => .next ((s.visitUpTo qs q n).afterPlacing level q xs.length ctx)
              | _ => again s
          | _, _ => again s

/-! ## The hang watchdog (R374) -/

/-- WATCHDOG_EXPIRY (R374): once in a phase. -/
def execWatchdogExpiry (launch team : Nat) (s : State) : Host.Outcome State Fault Refusal :=
  match s.launches.find? launch, s.team launch team with
  | some l, some t =>
    let limit := (s.context l.ctx).wdLimit.toNat * 1024
    if t.arrived = [] || t.logged then .next s
    else if limit = 0 || t.age < limit then .next (s.repost (.watchdogExpiry launch team))
    else
      let linear := match t.members with | [] => 0 | m :: rest => rest.foldl (fun n x => min n x.1) m.1
      .next ((s.setTeam launch team { t with logged := true }).logError l.queue linear 0 16 team 0)
  | _, _ => .next s

/-! ## Samples (R378, R379) -/

/-- The waves of a context with live lanes on a core. -/
def State.wavesOn (s : State) (ctx core : Nat) : List (Nat × Nat) :=
  (s.groupKeys fun k g => g.ctx == ctx && coreOfGroup k == core).flatMap fun k =>
    match s.groups.find? k with
    | some g => (List.range g.waves.length).filterMap fun wi =>
        match g.waves[wi]? with
        | some w => if w.live = 0#32 then none else some (k, wi)
        | none => none
    | none => []

/-- TRACE_SAMPLE (R378): every interval, while samples are on, a core with waves of the context writes a sample of one, in rotation. -/
def execTraceSample (ctx core : Nat) (s : State) : Host.Outcome State Fault Refusal :=
  let c := s.context ctx
  let cfg := c.traceCfg.toNat
  let waves := s.wavesOn ctx core
  let (last, n) := Tab.get (0, 0) c.sampled core
  if !bitOf cfg 9 || waves = [] then .next s
  else if s.clk < last + 256 * bitsOf cfg 16 16 then .next (s.repost (.traceSample ctx core))
  else
    match waves[n % waves.length]? with
    | none => .next s
    | some (gk, wi) =>
      match s.groups.find? gk with
      | none => .next s
      | some g =>
        match g.waves[wi]? with
        | none => .next s
        | some w =>
          let pc := match w.slot w.haltSlot with | some p => p.pc.toNat | none => 0
          let s := s.traceRecord ctx (waveRecord 2 wi (s.lowestTeam g wi) 0 pc g.gidX g.gidY g.gidZ s.clk)
          let c := s.context ctx
          .next ((s.setContext ctx { c with sampled := c.sampled.put (0, 0) core (s.clk, n + 1) }).repost (.traceSample ctx core))

/-! ## The creation of a context (R235, R367) -/

/-- CONTEXT_CREATION: the control block reads its values, no tensor record is loaded; the firmware may mark the context save-capable, up to
four contexts of the device (R370). -/
def execContextCreation (ctx : Nat) (saves : Bool) (s : State) : Host.Outcome State Fault Refusal :=
  let marked := s.contexts.keysWhere fun k (c : Context) => k ≠ ctx && c.saveCapable
  if ctx = 0 then .next s
  else .next (s.setContext ctx { saveCapable := saves && decide (marked.length < 4) })

end Sys2Proof.Machine
end

