-- ==== Sys2Proof/Machine/Home.lean ====
section
/-!
DEFINITION. Sys2Proof/Machine/Home.lean: the steps of the home slices and their controllers (R100 to R105, R196, R419 to R424): writes that
perform, caps, leases, guests, ownership, heat, replicas, invalidations by other cards and snoops of the host.
-/

namespace Sys2Proof.Machine

open Sys2Proof

/-! ## Writes (R420, R421) -/

/-- A step has let requests of a line go on: its next cap is looked at. -/
def State.serveLine (s : State) (line : Nat) : State :=
  if (s.line line).waiting.any fun r => match r with | .cap _ _ _ => true | _ => false then s.postOnce (.capHeld line) else s

/-- The posted write with a number. -/
def State.postedWrite (s : State) (id : Nat) : Option PostedWrite := s.posted.find? fun p => p.id == id

/-- A posted write is no longer on its way: it leaves the queue of its line, and of the trunk line behind a version. -/
def State.unpost (s : State) (p : PostedWrite) : State :=
  let leave (s : State) (line : Nat) : State :=
    if (s.line line).waiting = [] then s else (s.unqueue line (.write p.id)).serveLine line
  let s := leave { s with posted := s.posted.filter fun x => x.id ≠ p.id } p.line
  if 2 ^ 45 ≤ p.line then leave s (p.line % 2 ^ 45) else s

/-- A store that has written all 128 bytes of a line clears its poison (R440). -/
def State.healLine (s : State) (line : Nat) : State :=
  { s with health := { s.health with poisonedLines := s.health.poisonedLines.erase line } }

/-- Writes of a group, or what they wait for, have come to an end: its launch's teams may end a phase or a round (R23, R219). -/
def State.settleGroup (s : State) (gk : Nat) : State :=
  match s.groups.find? gk with
  | some g => match g.launch with | some l => s.settleTeams l | none => s
  | none => s

/-- What the end of a write does for its wave: the ends of its team's phases may wait for it (R219); a context's host interrupt that
waits for it is raised (R232), and so is the vector of an error record (R435). -/
def State.written (s : State) (p : PostedWrite) : State :=
  let s := s.unpost p
  let s := match p.irq with | some ctx => s.hostInterrupt ctx | none => s
  let s := match p.front with | some (0, 5, vector) => s.sendMsix vector | _ => s
  let s := match p.whole, p.bytes with | true, (place, _) :: _ => s.healLine (lineOf place) | _, _ => s
  s.settleGroup p.g

/-- Whether the writes that a posted write performs behind have performed: earlier ones of its party to the line; for a release, every
earlier one (R186, R421). -/
def State.inOrder (s : State) (p : PostedWrite) : Bool :=
  let earlier := (s.posted.takeWhile fun x => x.id ≠ p.id).filter fun x => x.g == p.g && x.w == p.w
  if p.ordered then earlier = [] && !(s.lags.any fun r => r.g == p.g && r.w == p.w && r.id < p.id)
  else !(earlier.any fun x => x.line == p.line)

/-- A write to a peer card that is down is lost, and the wave's next fence reports the card (R189, R290). -/
def State.dropLost (s : State) (p : PostedWrite) (card : Nat) : State :=
  let s := s.unpost p
  match s.groups.find? p.g with
  | none => s
  | some g =>
    match g.waves[p.w]? with
    | none => s
    | some w => { s with groups := s.groups.set p.g (g.setWave p.w { w with lostPeers := insertNew card w.lostPeers }) }.settleGroup p.g

/-- The same for a write that comes when the peer is down already: it is counted (R433, R437). -/
def State.loseWrite (s : State) (p : PostedWrite) (card : Nat) : State :=
  (s.dropLost p card).errorRecord { kind := 4, value0 := 1, source := 8 }

/-- A write to a register of the device (R411, R434). -/
def State.writeDevice (s : State) (p : PostedWrite) (place : Nat) : State :=
  let v := bytesNat (p.bytes.map (·.2))
  let s := s.written p
  let off := place - (2 ^ 61 + 2 ^ 40)
  if p.g = hostParty && p.bytes.length = 64 then { s with agenda := .launch (off / 4096) (BitVec.ofNat 512 v) :: s.agenda }
  else if place < 2 ^ 61 + 2 ^ 40 then s.windowWrite (place - 2 ^ 61) p.bytes.length v
  else s.bar0Write (place - (2 ^ 61 + 2 ^ 40)) p.bytes.length v

/-- A wave has written places itself: its loads return nothing older (R185, R277). -/
def State.noteOwn (s : State) (g w : Nat) (bytes : List (Nat × Byte)) : State :=
  match s.groups.find? g with
  | none => s
  | some x =>
    match x.waves[w]? with
    | none => s
    | some y => { s with groups := s.groups.set g (x.setWave w { y with seen := bytes.foldl (fun t b => t.set b.1 s.writes) y.seen }) }

/-- The write performs at its home, once it is its turn and it is served there. While it is not, it stands in the line's queue, and what
blocks it is asked to go; a cap of its own wave lets it pass the queue (R104). The host's write invalidates every copy of the device. -/
def State.writeHome (s : State) (p : PostedWrite) (line : Nat) : State :=
  let mine := capMine (s.line line) p.g p.w
  if (mine || s.firstAt line (.write p.id)) && (s.writeServed line p.g p.w || (s.passing p.id).writeServed line p.g p.w) then
    let s := if p.g = hostParty then s.purgeLine line else s
    let s := ((s.performWrite p.id p.g p.w p.page p.bytes).refreshGuest (partyDie p.g) p.bytes).noteOwn p.g p.w p.bytes
    let s := if p.g = hostParty then { s with unwritten := s.unwritten.keep fun k _ => !(p.bytes.any fun b => b.1 == k) } else s
    s.written p
  else
    let s := if mine then s else s.enqueue line (.write p.id)
    (s.requestExclusive line).repost (.homeWrite p.id)

/-- The bytes of a line that a die has written under software management and not written back (R281, R425). -/
def State.dirtyBytes (s : State) (die line : Nat) : List (Nat × Byte) :=
  (List.range 128).filterMap fun i =>
    let k := guestKey die (line * 128 + i)
    if s.guestDirty.contains k then (s.guestCopies.find? k).map fun b => (line * 128 + i, BitVec.ofNat 8 b) else none

/-- WBL and DROPL at the line's home (R199): what the die has written of it under software management is written there, what the home's
cache holds of it goes to memory, and DROPL drops the die's copy. -/
def State.writeBack (s : State) (p : PostedWrite) (line : Nat) (drop : Bool) : State :=
  let die := partyDie p.g
  let bytes := s.dirtyBytes die line
  if bytes = [] || (s.firstAt line (.write p.id) && s.writeServed line p.g p.w) then
    let mine (k : Nat) : Bool := k / 128 == guestKey die (line * 128) / 128
    let s := if bytes = [] then s else (s.performWrite p.id p.g p.w .back bytes).noteOwn p.g p.w bytes
    { s with
      guestDirty := s.guestDirty.filter fun k => !mine k
      guestCopies := if drop then s.guestCopies.keep fun k _ => !mine k else s.guestCopies
      unwritten := s.unwritten.keep fun k _ => lineOf k ≠ line }.written p
  else ((s.enqueue line (.write p.id)).requestExclusive line).repost (.homeWrite p.id)

/-- HOME_WRITE (R110, R111, R420, R421, R425). -/
def execHomeWrite (id : Nat) (s : State) : Host.Outcome State Fault Refusal :=
  match s.postedWrite id with
  | none => .next s
  | some p =>
    match p.bytes.map (·.1) ++ (match p.back with | some (line, _) => [line * 128] | none => []) with
    | [] => .next (s.unpost p)
    | place :: _ =>
      let line := lineOf place
      let tag := placeTag place
      let trunk := line % 2 ^ 45
      let away : Option Nat := match s.reach (placePa place) with | .gddr card _ => if card = s.ownCard then none else some card | _ => none
      if !s.inOrder p then .next (s.repost (.homeWrite id))
      else if isDevice place then .next (s.writeDevice p place)
      else if isScratch place then .next ((s.setBytes p.bytes).written p)
      else
        match away, (match away with | some card => s.peer card | none => .up) with
        | some card, .down => .next (s.loseWrite p card)
        | some _, .retraining => .next (s.repost (.homeWrite id))
        | _, _ =>
          match p.back with
          | some (_, drop) => .next (s.writeBack p line drop)
          | none =>
            if tag = 0 then
              (if p.page = .plain && s.softLine line && partyDie p.g < 4 && homeDie line ≠ partyDie p.g then
                .next ((s.writeGuest (partyDie p.g) p.bytes).written p)
               else .next (s.writeHome p line))
            else if s.ownVersion tag line then .next (s.writeHome p line)
            else if !s.versionFits trunk then .next ((s.unpost p).squash tag 4)
            else if s.firstAt trunk (.write id) && s.versionReady tag trunk then
              .next (((s.createVersion tag line).unqueue trunk (.write id)).writeHome p line)
            else .next (((s.enqueue trunk (.write id)).requestExclusive trunk).repost (.homeWrite id))

/-! ## Caps (R104, R196) -/

/-- Change the record with which a wave names a line that it has asked for or holds. -/
def State.onCap (s : State) (g w line : Nat) (f : Nat → CapRecord) : State :=
  let change (r : CapRecord) : CapRecord :=
    match r with
    | .asked va n => if n = line then f va else r
    | .held va n => if n = line then f va else r
    | r => r
  match s.groups.find? g with
  | none => s
  | some x =>
    match x.waves[w]? with
    | none => s
    | some y => { s with groups := s.groups.set g (x.setWave w { y with cap0 := change y.cap0, cap1 := change y.cap1 }) }

/-- A line's next request is a cap whose wave acquires the line now. -/
def State.holdCap (s : State) (line g w duration : Nat) (rest : List Request) : State :=
  let s := s.setLine line { s.line line with cap := some ⟨g, w, s.clk + duration⟩, guests := [], waiting := rest }
  (s.onCap g w line fun va => .held va line).post (.capExpiry line)

/-- CAP_HELD: the cap at the head of a line's queue acquires the line as a write does; its duration starts. On a future's version it makes
the version first (R105, R110). -/
def execCapHeld (line : Nat) (s : State) : Host.Outcome State Fault Refusal :=
  let l := s.line line
  let tag := line / 2 ^ 45
  let trunk := line % 2 ^ 45
  let again (s : State) : State := s.repost (.capHeld line)
  match s.queueOf line with
  | .cap g w duration :: rest =>
    if tag ≠ 0 && !s.ownVersion tag line && !s.versionFits trunk then .next (s.squash tag 4)
    else if tag ≠ 0 && !s.versionReady tag trunk then .next (again (s.requestExclusive trunk))
    else if l.cap.isSome || !s.writeServed line g w then .next (again (s.requestExclusive line))
    else
      let s := if tag = 0 then s else s.createVersion tag line
      .next ((s.holdCap line g w duration rest).serveLine line)
  | _ :: rest => .next (if rest.any fun r => match r with | .cap _ _ _ => true | _ => false then again s else s)
  | [] => .next s

/-- CAP_EXPIRY (R196): at the end of its duration a cap expires and the line is released. -/
def execCapExpiry (line : Nat) (s : State) : Host.Outcome State Fault Refusal :=
  match (s.line line).cap with
  | none => .next s
  | some h =>
    if s.clk < h.ends then .next (s.repost (.capExpiry line))
    else
      let s := s.setLine line { s.line line with cap := none }
      .next ((s.onCap h.g h.w line fun va => .expired va).serveLine line)

/-! ## Leases, guests, ownership, heat (R100, R102, R103, R420) -/

/-- The class of the page that holds a line, as the translations in use have it. -/
def State.lineClass (s : State) (line : Nat) : PageClass :=
  let page := placePa (line * 128) / 4096
  match List.find? (fun (x : Nat × Translation) => x.2.pa (x.1 % 2 ^ 45 * 4096) / 4096 == page) s.tlb with
  | some x => x.2.page
  | none => .plain

/-- LEASE_EXPIRY (R100): an expired L1 copy is dropped. -/
def execLeaseExpiry (core line : Nat) (s : State) : Host.Outcome State Fault Refusal :=
  if s.leased line core then .next s else .next { s with leases := s.leases.erase (leaseKey line core) }

/-- LEASE_READ_REQUEST (R420): the home grants a lease, or asks the owner to give the line back. -/
def execLeaseReadRequest (core line : Nat) (s : State) : Host.Outcome State Fault Refusal :=
  let page := s.lineClass line
  if s.leased line core then .next s
  else if s.readServed line core frontParty 0 page (s.queueOf line = []) then .next (s.grantLease line core page)
  else if (s.line line).owner = none || (s.line line).owner = some core then .next s
  else .next (s.postOnce (.ownershipRecall line))

/-- GUEST_READ_REQUEST (R420): the home lets another die's L2 hold a guest copy. Trunk lines with versions and lines of REPL pages have
no guests (R422, R427). -/
def execGuestReadRequest (die line : Nat) (s : State) : Host.Outcome State Fault Refusal :=
  let core := die * Config.coresPerDie
  if homeDie line = die || s.bypassed line || s.lineClass line = .repl || s.hasVersions line ||
      !s.readServed line core frontParty 0 .plain (s.queueOf line = []) then .next s
  else .next (s.setLine line { s.line line with guests := insertNew die (s.line line).guests })

/-- NEAR_ATOMIC_GRANT (R103): a core comes to own a line once a write of it would perform. -/
def execNearAtomicGrant (core line : Nat) (s : State) : Host.Outcome State Fault Refusal :=
  if (s.line line).heat < 2 && !s.bypassed line && s.queueOf line = [] && s.writeServed line frontParty 0 then
    .next ((s.returnLine line).setLine line { s.line line with owner := some core, guests := [] })
  else .next (s.requestExclusive line)

/-- OWNERSHIP_RECALL (R420): the owner returns the line. -/
def execOwnershipRecall (line : Nat) (s : State) : Host.Outcome State Fault Refusal :=
  .next (s.returnLine line)

/-- GUEST_INVALIDATE (R420): a guest waits until its own latest lease has run out, drops its copy and acknowledges. -/
def execGuestInvalidate (die line : Nat) (s : State) : Host.Outcome State Fault Refusal :=
  if !(s.line line).guests.contains die then .next s
  else if s.clk < s.guestExpiry line die then .next (s.repost (.guestInvalidate die line))
  else .next (s.setLine line { s.line line with guests := (s.line line).guests.erase die })

/-- HEAT_DECAY (R102): heat falls by one each time 4,096 clk pass since its last change. -/
def execHeatDecay (line : Nat) (s : State) : Host.Outcome State Fault Refusal :=
  let l := s.line line
  if l.heat = 0 then .next s
  else if s.clk < l.heatAt + 4096 then .next (s.repost (.heatDecay line))
  else
    let s := s.setLine line { l with heat := l.heat - 1, heatAt := l.heatAt + 4096 }
    .next (if l.heat = 1 then s else s.post (.heatDecay line))

/-! ## Replicas (R422) -/

/-- Whether a lag of a die stands behind an older one of the same byte: a replica takes the writes of a byte in their order (R277). -/
def State.lagBehind (s : State) (id die : Nat) : Bool :=
  (s.lags.takeWhile fun x => x.id ≠ id).any fun x => x.die == die && s.lags.any fun y => y.id == id && y.die == die && y.place == x.place

/-- REPLICA_UPDATE: a write's replicas are updated one at a time, each once its die's leases have run out and older writes of its bytes have
reached it. -/
def execReplicaUpdate (id die : Nat) (s : State) : Host.Outcome State Fault Refusal :=
  match s.lags.find? fun r => r.id == id with
  | none => .next s
  | some r =>
    let mine := s.lags.any fun x => x.id == id && x.die == die
    if !mine then .next s
    else if r.die ≠ die || s.clk < s.guestExpiry (lineOf r.place) die || s.lagBehind id die then .next (s.repost (.replicaUpdate id die))
    else .next ({ s with lags := s.lags.filter fun x => !(x.id == id && x.die == die) }.settleGroup r.g)

/-! ## Other cards and the host (R423, R424) -/

/-- The line is given up as for a write: owner, guests and leases have gone (R423). -/
def State.quietLine (s : State) (line : Nat) : Bool :=
  let l := s.line line
  l.cap = none && l.owner = none && l.guests = [] && l.exp ≤ s.clk

/-- What another agent writes to a line that has been given up to it is an input: its bytes are free values. -/
def State.freeLine (s : State) (line : Nat) : State :=
  let s := s.setBytes ((List.range 128).map fun i => (line * 128 + i, Config.freeByte s.free (line * 128 + i)))
  { s with free := s.free + 1, leases := s.leases.keep fun k _ => k / 128 ≠ line }

/-- EXCLUSIVE_REQUEST: the controller has the other holders invalidate the line and grants E; a request of another card takes the line
from this one. -/
def execExclusiveRequest (card line : Nat) (s : State) : Host.Outcome State Fault Refusal :=
  let l := s.line line
  let again (s : State) : State := s.repost (.exclusiveRequest card line)
  if card = s.ownCard then
    (if l.cards.any fun c => c ≠ card && s.peer c == .retraining then .next (again s)
     else .next (s.setLine line { l with shared := false, cards := [], host := false }))
  else if !s.quietLine line then .next (again (s.requestExclusive line))
  else .next ((s.setLine line { l with shared := true, cards := [card] }).freeLine line)

/-- A request of another agent for a line: it is given up once it is quiet; until then what holds it is asked to go, and the agent asks
again. -/
def State.giveUp (s : State) (line : Nat) (l : Line) : State :=
  if !s.quietLine line then s.requestExclusive line else (s.setLine line l).freeLine line

/-- CARD_INVALIDATE (R423): a card's copy of a line is dropped at another card's request. -/
def execCardInvalidate (card line : Nat) (s : State) : Host.Outcome State Fault Refusal :=
  .next (s.giveUp line { s.line line with cards := (s.line line).cards.erase card })

/-- SNPINV (R424): a host snoop acts as a card invalidation; a snoop on one 64-byte half acts on the line. -/
def execSnpinv (line : Nat) (s : State) : Host.Outcome State Fault Refusal :=
  .next (s.giveUp line { s.line line with shared := false, host := false })

/-- SNPDATA (R424): the line is downgraded to S, once no cap holds it (R104) and its leases have run out; the host gets its data. -/
def execSnpdata (line : Nat) (s : State) : Host.Outcome State Fault Refusal :=
  let l := s.line line
  if s.clk < l.exp || l.owner ≠ none || l.cap.isSome then .next ((s.requestExclusive line).later (.snoop false line))
  else .next { s.setLine line { l with shared := true, host := true } with
    hostReply := (s.lineBytes line line).map (·.2), unwritten := s.unwritten.keep fun k _ => lineOf k ≠ line }

/-- SNPCUR (R424): the current data, once no cap holds the line (R104). -/
def execSnpcur (line : Nat) (s : State) : Host.Outcome State Fault Refusal :=
  if (s.line line).cap.isSome then .next (s.later (.snoop true line))
  else .next { s with hostReply := (s.lineBytes line line).map (·.2) }

end Sys2Proof.Machine
end

