-- ==== Sys2Proof/Machine/Faults.lean ====
section
/-!
DEFINITION. Sys2Proof/Machine/Faults.lean: fills, walks and redirects (R413, R414), the end of a fault's service (R363, R415 to R418), the
switch of a coherence region (R425), and the ends of results and sleeps (R136, R148).
-/

namespace Sys2Proof.Machine

open Sys2Proof

/-! ## Fills (R413, R414) -/

/-- PAGE_WALK (R407, R413): a controller keeps what its walk gives, never a walk that ended in a fault. -/
def execPageWalk (asid va : Nat) (s : State) : Host.Outcome State Fault Refusal :=
  if canonical va && !bitOf va 56 then .next (s.keepTranslation asid va) else .next s

/-- FILL_REQUEST (R413, R414): the page is walked, and the remap filter takes the first name under which it is filled. A full filter first
purges its least recently filled page, which changes time only. -/
def execFillRequest (_die asid va : Nat) (s : State) : Host.Outcome State Fault Refusal :=
  if !canonical va || bitOf va 56 then .next s
  else
    match s.translate asid va with
    | .fault _ _ _ => .next s
    | .ok t =>
      let page := t.pa va / 4096
      let s := s.keepTranslation asid va
      .next (if (s.remap.find? page).isSome then s else { s with remap := s.remap.set page ⟨asid, va / 4096⟩ })

/-- FILL_REDIRECT (R414): the fill is reissued under the page's first name; the access keeps its own name's permissions. -/
def execFillRedirect (_die asid va : Nat) (s : State) : Host.Outcome State Fault Refusal :=
  match s.translate asid va with
  | .fault _ _ _ => .next s
  | .ok t =>
    match s.remap.find? (t.pa va / 4096) with
    | some n => .next (s.keepTranslation n.asid (n.vpn * 4096))
    | none => .next s

/-! ## Fault service (R363, R418) -/

/-- An entry has been served. -/
def State.dropFault (s : State) (id : Nat) : State := { s with faults := s.faults.filter fun e => e.id ≠ id }

/-- FAULT_RESOLVED (R418): the waiting requests are made again: the paths' and the engines' by themselves, the front end's writes and
nodes here, in the order in which they came. -/
def execFaultResolved (id : Nat) (s : State) : Host.Outcome State Fault Refusal :=
  match s.faults.find? fun e => e.id == id with
  | none => .next s
  | some _ => .next ((s.dropFault id).retryFrontWrites fun _ _ => false).retryNodes

/-- A request whose service has failed: a path traps at its instruction, with its own address (R363); the front end's writes to the page are
dropped (R343); every other party learns it when it asks again. -/
def State.failWaiter (s : State) (e : FaultEntry) (result : Nat) (w : Waiter) : State :=
  match w with
  | .path g wi b =>
    let addr := ((e.addrs.find? fun x => x.1 == w).map (·.2)).getD e.va
    { s with faultResults := s.faultResults ++ [⟨g, wi, b, result, addr⟩] }
  | .record => s.retryFrontWrites e.holds
  | w => { s with refused := s.refused ++ [⟨w, e.asid, e.va / 2 ^ e.bits, e.bits, result⟩] }

/-- FAULT_FAILED (R418): results 1 to 3. -/
def execFaultFailed (id result : Nat) (s : State) : Host.Outcome State Fault Refusal :=
  match s.faults.find? fun e => e.id == id with
  | none => .next s
  | some e => .next (e.waiters.foldl (fun (s : State) w => s.failWaiter e result w) (s.dropFault id)).retryNodes

/-! ### The firmware's service of an entry (R416, R417) -/

/-- The PA of the backing entry of a fault, when its leaf's index lies in the context's backing table (R410, R416). -/
def State.backing (s : State) (e : FaultEntry) : Option Nat :=
  let context := s.window.asidBase + 32 * e.asid
  let index := pteFrame (s.physNat e.leaf 8)
  if index < s.physNat (context + 16) 4 then some (s.physNat (context + 8) 8 + 32 * index) else none

/-- A frame of 2^bits bytes of the own card that is in no use. Which one is free, but it is none of those that are given; no retired frame is
handed out again (R441). -/
def State.spareFrame (s : State) (bits pick : Nat) (taken : List Nat) : Nat :=
  let count := Config.cardBytes / 2 ^ bits
  let frame (i : Nat) : Nat := s.ownPa ((pick + i) % count * 2 ^ bits)
  let no (pa : Nat) : Bool := taken.any fun f => f * 4096 / 2 ^ bits == pa / 2 ^ bits
  frame (((List.range (taken.length + 1)).find? fun i => !no (frame i)).getD 0)

/-- The leaf of a fault becomes resident with a frame: all 16 entries of a 64 KiB page (R406, R407, R416). -/
def State.residentLeaf (s : State) (e : FaultEntry) (frame : Nat) : State :=
  let leaves := if e.bits = 16 then (List.range 16).map fun i => e.leaf / 128 * 128 + 8 * i else [e.leaf]
  leaves.foldl (fun (s : State) pa =>
    let x := s.physNat pa 8
    let x := x - pteFrame x * 4096 + frame / 4096 * 4096
    s.setBytes (placed (memPlace 0 pa) (natBytes 8 (if bitOf x 5 then x else x + 2 ^ 5)))) s

/-- A frame takes the bytes of a page. -/
def State.copyFrame (s : State) (bits src dst : Nat) : State :=
  let moved := s.mem.filter fun x => src ≤ x.1 && x.1 < src + 2 ^ bits
  { s with mem := s.mem.keep fun k _ => !(decide (dst ≤ k) && decide (k < dst + 2 ^ bits)) }.setBytes (moved.map fun (x : Nat × Byte) => (x.1 - src + dst, x.2))

/-- A field of the registers of an NVMe queue (R411). -/
def State.nvmeField (s : State) (q off n : Nat) : Nat := bytesNat ((List.range n).map fun j => Tab.get 0#8 s.window.nvme (32 * q + off + j))

/-- An entry of the submission queue: Read (R417). -/
def nvmeRead (id nsid prp1 prp2 lba blocks : Nat) : List Byte :=
  natBytes 4 (2 + 2 ^ 16 * (id % 2 ^ 16)) ++ natBytes 4 nsid ++ natBytes 16 0 ++ natBytes 8 prp1 ++ natBytes 8 prp2 ++ natBytes 8 lba ++
    natBytes 4 (blocks - 1) ++ natBytes 12 0

/-- The device writes bytes at a physical address. -/
def State.devicePost (s : State) (pa : Nat) (bytes : List Byte) (ordered : Bool) : State :=
  (splitLines (memPlace 0 pa) bytes).foldl (fun (s : State) b =>
    s.postWrite { id := 0, g := frontParty, w := 0, core := frontCore, tag := 0, bytes := b, ordered := ordered }) s

/-- The next command of a page's read (R417): at most 128 KiB, in ascending order of LBAs; its entry is written and the doorbell rung. -/
def State.nvmeCommand (s : State) (e : FaultEntry) (backing frame done : Nat) : State :=
  let q := s.physNat (backing + 1) 1 % 8
  let shift := s.physNat (backing + 1) 1 / 16
  let n := min 131072 (2 ^ e.bits - done)
  let page (i : Nat) : Nat := Config.bar2Base + (frame + done + 4096 * i) % 2 ^ 41
  let pages := n / 4096
  let list := s.ownPa (Config.freeNat s.free e.leaf % (Config.cardBytes / 4096) * 4096)
  let tail := Tab.get 0 s.window.nvmeTails q
  let next := (tail + 1) % (s.nvmeField q 24 2 + 1)
  let s := { s with free := s.free + 1, window := { s.window with nvmeTails := s.window.nvmeTails.put 0 q next } }
  let s := if pages = 1 then s else s.devicePost list ((List.range (pages - 1)).flatMap fun i => natBytes 8 (page (i + 1))) false
  let s := s.devicePost (s.nvmeField q 0 8 + 64 * tail)
    (nvmeRead e.id (s.physNat (backing + 16) 4) (page 0) (if pages = 1 then 0 else Config.bar2Base + list % 2 ^ 41)
      (s.physNat (backing + 8) 8 + done / 2 ^ shift) (n / 2 ^ shift)) false
  let s := s.devicePost (s.nvmeField q 16 8) (natBytes 4 next) true
  let s := { s with faults := replaceFirst (fun x => x.id == e.id) { e with service := .nvme frame done (some (s.clk + 1400000000)) } s.faults }
  s.after 1400000000 (.timeout e.id)

/-- Whether the page of a fault is in the retired list (R441). -/
def State.pageRetired (s : State) (e : FaultEntry) : Bool :=
  s.health.retiredPages.any fun x => x.1 == e.asid && x.2 * 4096 / 2 ^ e.bits == e.va / 2 ^ e.bits

/-- The firmware's next step with a fault entry (R416 to R418), while its die's firmware runs. A page that has become resident is resolved;
one without a translation or a backing fails with result 1, a retired one with result 3; another is filled, and its leaf written. -/
def State.serveFault (s : State) (id : Nat) : State :=
  match s.faults.find? fun e => e.id == id with
  | none => s
  | some e =>
    let die := s.die e.die
    let fill (frame : Nat) (s : State) : State := (s.residentLeaf e frame).post (.faultResolved id)
    if !die.ready || die.failed || 2 ≤ die.link then s.later (.service id)
    else
      match e.service with
      | .queued =>
        let s := if die.faultHead = die.faultTail then s else s.setDie e.die { die with faultHead := die.faultHead + 1#32 }
        let kind (backing : Nat) : Nat := s.physNat backing 1 % 4
        match s.walk e.asid e.va with
        | .ok _ => s.post (.faultResolved id)
        | .fault _ _ _ =>
          if e.type = 2 && s.pageRetired e then s.post (.faultFailed id 3)
          else
            match (s.backing e).filter fun b => e.type = 2 && (kind b = 1 || kind b = 2) with
            | none => s.post (.faultFailed id 1)
            | some b =>
              let frame := s.spareFrame e.bits (Config.freeNat s.free e.va) s.health.retiredFrames
              let s := { s with free := s.free + 1 }
              if kind b = 2 then s.nvmeCommand e b frame 0
              else { s with faults := replaceFirst (fun x => x.id == id) { e with service := .host frame } s.faults }.later (.service id)
      | .host frame =>
        match s.backing e with
        | some b => fill frame (s.copyFrame e.bits (memPlace 0 (2 ^ 51 + s.physNat (b + 8) 8)) (memPlace 0 frame))
        | none => s.post (.faultFailed id 1)
      | .nvme frame done none =>
        match (s.backing e).filter fun _ => done < 2 ^ e.bits with
        | some b => s.nvmeCommand e b frame done
        | none => fill frame s
      | .nvme _ _ (some _) => s

/-- NVME_COMPLETION (R417): a command that ends with a non-zero status fails its fault with result 2; otherwise its bytes have come, and the
firmware goes on. -/
def execNvmeCompletion (id status : Nat) (s : State) : Host.Outcome State Fault Refusal :=
  match s.faults.find? fun e => e.id == id with
  | none => .next s
  | some e =>
    match e.service with
    | .nvme frame done (some _) =>
      if status ≠ 0 then .next (s.post (.faultFailed id 2))
      else
        let e := { e with service := .nvme frame (done + min 131072 (2 ^ e.bits - done)) none }
        let s := { s with faults := replaceFirst (fun x => x.id == id) e s.faults }
        .next ((s.setDie e.die { s.die e.die with event := true }).later (.service id))
    | _ => .next s

/-- A command has taken 1 s without completing (R417). -/
def State.timeOut (s : State) (id : Nat) : State :=
  match s.faults.find? fun e => e.id == id with
  | none => s
  | some e =>
    match e.service with
    | .nvme _ _ (some t) => if t ≤ s.clk then s.post (.faultFailed id 2) else s
    | _ => s

/-- NVME_TIMEOUT (R417). -/
def execNvmeTimeout (id : Nat) (s : State) : Host.Outcome State Fault Refusal := .next (s.timeOut id)

/-! ## Coherence regions (R425) -/

/-- REGION_CMD: a switch starts: requests from other dies to the region are queued. -/
def execRegionCmd (value : BitVec 64) (s : State) : Host.Outcome State Fault Refusal :=
  let x := value.toNat
  if s.window.region.isSome || !bitOf x 0 then .next s
  else .next ({ s with window := { s.window with region := some (bitsOf x 21 20, bitOf x 1) } }.post .regionSwitchPoint)

/-- Whether a line lies in a region of the own card. -/
def inRegion (region line : Nat) : Bool := placeTag (line * 128) == 0 && placePa (line * 128) / 2 ^ 21 == region

/-- The switch point: dirty bytes are written back in ascending die order; what other cards have written under software management in the lines
that they hold is not known here, so the bytes of those lines are free values; the copies and the directory entries of the region go, and
the mode changes. -/
def State.switchRegion (s : State) (region : Nat) (soft : Bool) : State :=
  let hit (line : Nat) : Bool := inRegion region line
  let dirty := (List.range 4).flatMap fun d => s.guestDirty.filter fun k => k / 2 ^ 56 == d && hit (k % 2 ^ 56 / 128)
  let bytes := dirty.map fun k => (k % 2 ^ 56, BitVec.ofNat 8 (Tab.get 0 s.guestCopies k))
  let away := if s.softRegions.contains region then s.lines.keysWhere fun n (l : Line) => hit n && l.cards ≠ [] else []
  let s := (s.noteUnwritten bytes).setBytes bytes
  let s := s.setBytes (away.flatMap fun n => (List.range 128).map fun i => (n * 128 + i, Config.freeByte s.free (n * 128 + i)))
  { s with
    free := if away = [] then s.free else s.free + 1
    guestDirty := s.guestDirty.filter fun k => !hit (k % 2 ^ 56 / 128)
    guestCopies := s.guestCopies.keep fun k _ => !hit (k % 2 ^ 56 / 128)
    lines := (s.lines.mapVals fun n (l : Line) => if hit n then { l with guests := [], cards := [], shared := l.host } else l).keep fun _ (l : Line) => !decide (l = ({} : Line))
    softRegions := if soft then insertSorted region s.softRegions else s.softRegions.filter fun r => r ≠ region
    window := { s.window with region := none } }

/-- REGION_SWITCH_POINT (R425): once the leases that other dies' copies of the region's lines have granted have run out. -/
def execRegionSwitchPoint (s : State) : Host.Outcome State Fault Refusal :=
  match s.window.region with
  | none => .next s
  | some (r, soft) =>
    let region := s.ownCard * 2 ^ 20 + r
    let leased := List.any s.leases fun (x : Nat × Nat) =>
      s.clk < x.2 && inRegion region (x.1 / 128) && dieOfCore (x.1 % 128) != homeDie (x.1 / 128)
    if leased then .next (s.repost .regionSwitchPoint) else .next (s.switchRegion region soft)

/-! ## Results and sleeps -/

/-- RESULT_WRITEBACK (R26, R136): a variable-latency result is written, and its registers leave the scoreboard. -/
def execResultWriteback (g w id : Nat) (s : State) : Host.Outcome State Fault Refusal :=
  match s.groups.find? g with
  | none => .next s
  | some x =>
    match x.waves[w]? with
    | none => .next s
    | some y =>
      .next { s with groups := s.groups.set g (x.setWave w { y with scoreboard := y.scoreboard.filter fun o => o.id ≠ id }) }

/-- SLEEP_END (R148): a path that sleeps looks at the counter again. -/
def execSleepEnd (g w : Nat) (slotB : Bool) (s : State) : Host.Outcome State Fault Refusal :=
  let sleeps : Bool :=
    match s.groups.find? g with
    | none => false
    | some x =>
      match x.waves[w]? with
      | none => false
      | some y => match y.slot slotB with | some p => p.wait == .sleep | none => false
  .next (if sleeps then { s with agenda := .issue g w slotB :: s.agenda } else s)

end Sys2Proof.Machine
end

