-- ==== Sys2Proof/Machine/System.lean ====
section
/-!
DEFINITION. Sys2Proof/Machine/System.lean: the system instructions, row 0xD (R380 to R403): special registers, the return from a
handler, translation invalidation, host interrupts, halting and moving groups, die maintenance, parking.
-/

namespace Sys2Proof.Machine

open Sys2Proof

/-- The frame of the row (R385, R403): in a transaction, and for a handler of a future's wave, only what `open_` allows runs; a full
fence at sys scope waits until the wave's earlier accesses are performed. An instruction that has begun to act, and waits for its own
end, does not look at them again. -/
def Ctx.system (c : Ctx) (open_ fence : Bool) (body : Ctx → Res) : Res :=
  if !open_ && c.txLanes ≠ 0#32 then .unsupported c
  else if !open_ && c.tag ≠ 0 && !c.firmware then .trap c ⟨causeFutEffect, 0, 0, c.act⟩
  else if fence && c.txLanes = 0#32 && !c.settled && c.p.wait ≠ .engine && c.p.wait ≠ .front then .wait c .fence
  else body (if fence && c.txLanes = 0#32 then c.acquire else c)

/-! ## Time and special registers -/

/-- RDTIME (0xD0, R386): the chip cycle counter as the instruction leaves its collector. -/
def execRdtime (d : Reg) (s : State) : Host.Outcome State Fault Refusal :=
  issue (.rdtime d) anyType s fun c => c.system true false fun c => .done (c.putOnce64 d (BitVec.ofNat 64 c.s.clk))

/-- `linkstat` (R382): the states of the dies, their home bypasses, whose firmware is ready. -/
def State.linkstat (s : State) : Nat :=
  (List.range 4).foldl (fun x d =>
    x + 4 ^ d * (s.die d).link + 2 ^ (8 + d) * (s.die d).bypass.toNat + 2 ^ (12 + d) * (s.die d).ready.toNat) 0

/-- What a special register holds (R382). -/
def Ctx.special (c : Ctx) (sel : Nat) : DWord :=
  let own := c.s.die c.die
  match sel with
  | 0x01 => c.w.fmask.setWidth 64
  | 0x02 => c.w.srseed.setWidth 64
  | 0x03 => match c.w.tx with | some t => BitVec.ofNat 64 t.depth | none => 0#64
  | 0x04 => BitVec.ofNat 64 c.slotB.toNat
  | 0x05 => BitVec.ofNat 64 c.g.gidX
  | 0x06 => BitVec.ofNat 64 c.g.gidY
  | 0x07 => BitVec.ofNat 64 c.g.gidZ
  | 0x08 => BitVec.ofNat 64 c.g.gridX
  | 0x09 => BitVec.ofNat 64 c.g.gridY
  | 0x0A => BitVec.ofNat 64 c.g.gridZ
  | 0x0B => BitVec.ofNat 64 c.die
  | 0x0C => BitVec.ofNat 64 (coreId c.core)
  | 0x0D => BitVec.ofNat 64 c.g.ctx
  | 0x40 => own.schedmask.setWidth 64
  | 0x41 => own.trapbase
  | 0x42 => BitVec.ofNat 64 c.w.pacecheck.toNat
  | 0x43 => own.faultHead.setWidth 64
  | 0x44 => own.faultTail.setWidth 64
  | 0x45 | 0x46 | 0x47 | 0x48 => (c.s.die (sel - 0x45)).schedmask.setWidth 64
  | 0x49 => own.faultBase
  | 0x4A => BitVec.ofNat 64 c.s.linkstat
  | _ => 0#64

/-- RDSR (0xD1, R387). -/
def execRdsr (d : Reg) (b : Selector) (s : State) : Host.Outcome State Fault Refusal :=
  issue (.rdsr d b) anyType s fun c =>
    c.system true false fun c =>
      .done (if sr64 b then c.putOnce64 d (c.special b.toNat) else c.putOnce d ((c.special b.toNat).setWidth 32))

/-- Pre-emption of every gang with a group on a core, on its context's deadlines (R384). -/
def State.evictCore (s : State) (core : Nat) : State :=
  let hit (x : Gang) : Bool :=
    x.placed && List.any s.groups fun (y : Nat × Group) => coreOfGroup y.1 == core && y.2.launch == some x.launch && y.2.gang == x.index
  let ctxs := s.gangs.foldl (fun (cs : List Nat) (x : Nat × Gang) =>
    if hit x.2 then (match s.launches.find? x.2.launch with | some l => insertSorted l.ctx cs | none => cs) else cs) []
  let s := { s with gangs := s.gangs.mapVals fun _ (x : Gang) => if hit x && !x.evicted then { x with evicted := true, evictAge := 0 } else x }
  ctxs.foldl (fun (s : State) i => (s.postOnce (.d1Deadline i)).postOnce (.d2Deadline i)) s

/-- A write of a die's `schedmask` (R384): bits 1 to 23; a core whose bit is cleared is emptied, one whose bit is set takes groups at
once. -/
def State.writeSchedmask (s : State) (d : Nat) (x : Word) : State :=
  let x := x &&& 0x00FFFFFE#32
  let old := (s.die d).schedmask
  let cleared := (List.range Config.coresPerDie).filter fun i => old.getLsbD i && !x.getLsbD i
  let s := s.setDie d { s.die d with schedmask := x }
  (cleared.foldl (fun (s : State) i => s.evictCore (d * Config.coresPerDie + i)) s).kick

/-- An event for the firmware core of a die (R402). -/
def State.wakeDie (s : State) (d : Nat) : State := s.setDie d { s.die d with event := true }

/-- A write of a special register (R72, R382 to R384, R402): the bits that are not assigned are ignored. -/
def Ctx.writeSpecial (c : Ctx) (sel : Nat) (x : DWord) : Ctx :=
  let w32 : Word := x.setWidth 32
  let d := c.die
  let own := c.s.die d
  match sel with
  | 0x02 =>
    { c with w := { c.w with srseed := w32,
                             generator := (List.range 32).foldl (fun (t : Tab Word) l => t.set l (seedLane w32 l)) c.w.generator } }
  | 0x40 => { c with s := c.s.writeSchedmask d w32 }
  | 0x41 => { c with s := c.s.setDie d { own with trapbase := x } }
  | 0x42 => { c with w := { c.w with pacecheck := w32.getLsbD 0 } }
  | 0x43 => if (w32 - own.faultHead).toNat ≤ (own.faultTail - own.faultHead).toNat then { c with s := c.s.setDie d { own with faultHead := w32 } } else c
  | 0x45 | 0x46 | 0x47 | 0x48 => { c with s := c.s.writeSchedmask (sel - 0x45) w32 }
  | 0x49 => { c with s := c.s.setDie d { own with faultBase := x } }
  | 0x4B => { c with s := (List.range 4).foldl (fun (s : State) i => if w32.getLsbD i then s.wakeDie i else s) c.s }
  | _ => c

/-- WRSR (0xD2, R385, R387): a full fence. A write of `srseed` in a transaction reseeds, and no abort restores the generator (R73). -/
def execWrsr (a : Reg) (b : Selector) (s : State) : Host.Outcome State Fault Refusal :=
  issue (.wrsr a b) anyType s fun c =>
    c.system (b == 0x02#8) true fun c =>
      .done (c.writeSpecial b.toNat (if sr64 b then c.val64 a 0 else (c.val a 0).setWidth 64))

/-! ## Returning from a handler -/

/-- TRET (0xD3, R359, R388). Outside handler mode it does nothing except issue. -/
def execTret (s : State) : Host.Outcome State Fault Refusal :=
  issue .tret anyType s fun c =>
    if c.w.handler.isSome then .gone (Ctx.retire .tret c c).leaveHandler
    else c.system false false fun c => .done c

/-! ## Translation invalidation -/

/-- Whether a page of the TLB's table lies in the aligned 2^size bytes around an address, in an ASID or any (R389). -/
def tlbHit (asid va size key : Nat) : Bool :=
  (asid == 0xFFFF || key / 2 ^ 45 == asid) && key % 2 ^ 45 * 4096 / 2 ^ size == va / 2 ^ size

/-- The lines of the physical pages that the matching translations name. -/
def State.linesIn (s : State) (asid va size : Nat) : List Nat :=
  s.tlb.foldl (fun (ls : List Nat) (x : Nat × Translation) =>
    if tlbHit asid va size x.1 then
      let first := memPlace 0 (x.2.pa (x.1 % 2 ^ 45 * 4096)) / 128
      (List.range 32).foldl (fun ls i => insertNew (first + i) ls) ls
    else ls) []

/-- TLBINV (0xD4, R389, R390). -/
def execTlbinv (a b : Reg) (s : State) : Host.Outcome State Fault Refusal :=
  issue (.tlbinv a b) anyType s fun c =>
    c.system false true fun c =>
      let va := (c.val64 a 0).toNat
      let x := (c.val b 0).toNat
      let size := bitsOf x 0 6
      let asid := x / 2 ^ 16
      if bitsOf x 6 10 ≠ 0 || size < 12 || 57 < size then .trap c ⟨causeIllegalOperand, 3, 0, c.act⟩
      else if !canonical va then .trap c ⟨causeProtection, 1, va, c.act⟩
      else
        let s := (c.s.linesIn asid va size).foldl State.purgeLine c.s
        let pages := (c.s.linesIn asid va size).map fun l => l / 32
        .done { c with s := { s with tlb := s.tlb.keep fun k _ => !tlbHit asid va size k, remap := s.remap.keep fun k _ => !pages.contains k } }

/-! ## Host interrupts -/

/-- IRQ (0xD5, R391). -/
def execIrq (b : Selector) (s : State) : Host.Outcome State Fault Refusal :=
  issue (.irq b) anyType s fun c => c.system false true fun c => .done { c with s := c.s.sendMsix b.toNat }

/-! ## Halting and moving groups -/

/-- The core and the group key that a handle names; none for a reserved bit or a core of 0 or above 23 (R392). -/
def handleCore (h : Word) : Option Nat :=
  let x := h.toNat
  let core := bitsOf x 7 5
  if x / 2 ^ 14 ≠ 0 || bitsOf x 4 3 ≠ 0 || core = 0 || 23 < core then none else some (bitsOf x 12 2 * Config.coresPerDie + core)
def handleGroup (h : Word) : Option Nat := (handleCore h).map fun core => core * Config.groupSlots + bitsOf h.toNat 0 4
/-- The handle of a group. -/
def handleOf (gk : Nat) : Nat := dieOfGroup gk * 2 ^ 12 + coreOfGroup gk % Config.coresPerDie * 2 ^ 7 + gk % Config.groupSlots

/-- The status word of the row's group operations (R392). -/
def statusWord (code handle : Nat) : Word := BitVec.ofNat 32 (code * 2 ^ 24 + handle)

/-- What acts on the group that kA names. -/
def Ctx.onHandle (c : Ctx) (a : Reg) (body : Ctx → Nat → Res) : Res :=
  c.system false true fun c =>
    match handleGroup (c.val a 0) with
    | none => .trap c ⟨causeIllegalOperand, 2, 0, c.act⟩
    | some gk => body c gk

/-- The group that holds a handle; one that has retired holds none (R393). -/
def State.onSlot (s : State) (gk : Nat) : Option Group := (s.groups.find? gk).filter fun g => !g.retired

/-- HALTG (0xD6, R393): the status is written once every wave's frame is. -/
def execHaltg (d a : Reg) (s : State) : Host.Outcome State Fault Refusal :=
  issue (.haltg d a) anyType s fun c =>
    c.onHandle a fun c gk =>
      match c.s.onSlot gk with
      | none => .done (c.putOnce d (statusWord 2 0))
      | some g =>
        if g.halted then .done (c.putOnce d (statusWord 0 0))
        else .acts (c.putOnce d (statusWord 0 0)) fun s => s.haltGroup gk 1 none

/-- RESUMEG (0xD7, R393). -/
def execResumeg (d a : Reg) (s : State) : Host.Outcome State Fault Refusal :=
  issue (.resumeg d a) anyType s fun c =>
    c.onHandle a fun c gk =>
      match c.s.onSlot gk with
      | none => .done (c.putOnce d (statusWord 2 0))
      | some g =>
        if !g.halted then .done (c.putOnce d (statusWord 3 0))
        else .acts (c.putOnce d (statusWord 0 0)) fun s => s.resumeGroup gk

/-- The pages of an image: each is checked as an access of the wave (R394); what an access meets, or the address and the physical
address of each part. -/
inductive ImagePlan where
  | stop (r : Res)
  | go (c : Ctx) (parts : List (Nat × Nat × Translation))

def Ctx.imagePlan (c : Ctx) (k : AccessKind) : List (Nat × Nat) → ImagePlan
  | [] => .go c []
  | (va, _) :: rest =>
    match c.plan k 4 (laneBit (lowestLane c.act)) fun _ => va with
    | .stop (.trap c t) => .stop (.trap c { t with lanes := c.act })
    | .stop r => .stop r
    | .go c accs =>
      match accs with
      | [⟨_, _, .memory t pa, _⟩] =>
        match c.imagePlan k rest with
        | .go c ps => .go c ((va, pa, t) :: ps)
        | r => r
      | _ => .stop (.trap c ⟨causeProtection, 6, va, c.act⟩)

/-- GSAVE (0xD8, R394): the image is written as stores of the wave, and the status once they are performed. -/
def execGsave (d a b : Reg) (s : State) : Host.Outcome State Fault Refusal :=
  issue (.gsave d a b) anyType s fun c =>
    c.onHandle a fun c gk =>
      let va := (c.val64 b 0).toNat
      match c.s.onSlot gk with
      | none => .done (c.putOnce d (statusWord 2 0))
      | some g =>
        if !g.halted then .done (c.putOnce d (statusWord 3 0))
        else if va % 256 ≠ 0 then .trap c ⟨causeAlign, 256, va, c.act⟩
        else if c.p.wait = .front then (if c.s.quiet c.gk c.wi then .done (c.putOnce d (statusWord 0 0)) else .wait c .front)
        else if !c.s.groupQuiet gk then .wait c .engine
        else
          let parts := blockParts 4096 va g.imageBytes
          match c.imagePlan .signal parts with
          | .stop r => r
          | .go c ps =>
            let s := c.s.flushGroup gk
            let bytes := match s.groups.find? gk with | some g => s.image gk g | none => []
            let s := (ps.zip parts).foldl (fun (s : State) x =>
              (splitLines (s.physPlace x.1.2.1) ((bytes.drop (x.2.1 - va)).take x.2.2)).foldl (fun (s : State) bs =>
                s.postWrite { id := 0, g := c.gk, w := c.wi, core := c.core, tag := 0, bytes := bs, page := x.1.2.2.page }) s) s
            .wait { c with s := s } .front

/-- GLOAD (0xD9, R376, R394). -/
def execGload (d a b : Reg) (s : State) : Host.Outcome State Fault Refusal :=
  issue (.gload d a b) anyType s fun c =>
    c.system false true fun c =>
      let va := (c.val64 b 0).toNat
      let capped (c : Ctx) (va size : Nat) (ps : List (Nat × Nat × Translation)) : Bool :=
        (ps.zip (blockParts 4096 va size)).any fun x =>
          (List.range (ceilDiv (x.1.2.1 % 128 + x.2.2) 128)).any fun i => capBlocks (c.s.line (lineOf (memPlace 0 x.1.2.1) + i)) c.gk c.wi
      let read (c : Ctx) (ps : List ((Nat × Nat × Translation) × (Nat × Nat))) : List Byte :=
        ps.flatMap fun x => (List.range x.2.2).map fun i => c.memByte (memPlace 0 (x.1.2.1 + i))
      match handleCore (c.val a 0) with
      | none => .trap c ⟨causeIllegalOperand, 2, 0, c.act⟩
      | some core =>
        if va % 256 ≠ 0 then .trap c ⟨causeAlign, 256, va, c.act⟩
        else
          match c.imagePlan .ldf (blockParts 4096 va 256) with
          | .stop r => r
          | .go c ps =>
            if capped c va 256 ps then .wait c .memory
            else
            let size := fieldAt (read c (ps.zip (blockParts 4096 va 256))) 40 8
            if size < 256 || 2 ^ 23 < size then .done (c.putOnce d (statusWord 5 0))
            else
              match c.imagePlan .ldf (blockParts 4096 va size) with
              | .stop r => r
              | .go c ps =>
                if capped c va size ps then .wait c .memory
                else
                let (s, code, key) := c.s.loadImage (read c (ps.zip (blockParts 4096 va size))) core
                .done ({ c with s := s }.putOnce d (statusWord code (if code = 0 then handleOf key else 0)))

/-! ## Die maintenance (R395 to R401) -/

/-- What acts on a die; `own` says that the issuing wave's own die is refused (R395). -/
def Ctx.onDie (c : Ctx) (own : Bool) (reg : Reg) (d : Nat) (body : Ctx → Res) : Res :=
  c.system false true fun c => if own && d = c.die then .done (c.putOnce reg 2#32) else body c

/-- Lines homed on a die that are dirty there, by line; each byte with what GDDR holds. -/
def State.dirtyLines (s : State) (d : Nat) : List Nat :=
  s.unwritten.foldl (fun (ls : List Nat) (x : Nat × Byte) => if homeDie (lineOf x.1) = d then insertNew (lineOf x.1) ls else ls) []

/-- A die's error record of lost writes and lines (R397, R437); none when nothing is lost. -/
def State.lossRecord (s : State) (d writes lines : Nat) : State :=
  if lines = 0 && writes = 0 then s else s.errorRecord { kind := 4, value0 := writes, value1 := lines, die := d, source := 11 }

/-- The dirty lines of a die are lost (R399): those of its slices read as GDDR holds them, unless they had been written back; they, the lines
that were dirty in its L1s and its L2, and the writes lost with them are counted in the die's error record. -/
def State.loseLines (s : State) (d writes : Nat) (others : List Nat) : State :=
  let lost := (s.dirtyLines d).filter fun l => Config.freeChoice s.free l
  let back := s.unwritten.filter fun x => lost.contains (lineOf x.1)
  let s := { s.setBytes back with unwritten := s.unwritten.keep fun k _ => homeDie (lineOf k) ≠ d, free := s.free + 1 }
  s.lossRecord d writes (others.foldl (fun (ls : List Nat) l => insertNew l ls) lost).length

/-- What a die's L1s and L2 hold of other dies' lines is gone, and its place in every directory entry (R396). With `slices`, its own slices
are emptied too: their lines are cold when they come again (R102). -/
def State.forgetDie (s : State) (d : Nat) (slices : Bool) : State :=
  let line (n : Nat) (l : Line) : Line :=
    let l := if slices && homeDie n = d then { l with heat := 0, heatAt := 0 } else l
    { l with guests := l.guests.filter fun x => x ≠ d, owner := match l.owner with | some o => if dieOfCore o = d then none else some o | none => none }
  { s with
    lines := (s.lines.mapVals line).keep fun _ l => !decide (l = {})
    leases := s.leases.keep fun k _ => dieOfCore (k % 128) ≠ d
    nearOld := let gone := s.nearLines fun _ o => dieOfCore o == d
               s.nearOld.keep fun k _ => !gone.contains (lineOf k)
    guestCopies := s.guestCopies.keep fun k _ => k / 2 ^ 56 ≠ d
    guestDirty := s.guestDirty.filter fun k => k / 2 ^ 56 ≠ d }

/-- FLUSHD (0xDE, R396): the die's dirty lines go to memory or to their homes. -/
def State.flushDie (s : State) (d : Nat) : State :=
  let mine := s.guestDirty.filter fun k => k / 2 ^ 56 == d
  let bytes := mine.map fun k => (k % 2 ^ 56, BitVec.ofNat 8 (Tab.get 0 s.guestCopies k))
  let s := ((s.noteUnwritten bytes).setBytes bytes).forgetDie d false
  { s with unwritten := s.unwritten.keep fun k _ => homeDie (lineOf k) ≠ d }

def execFlushd (d : Reg) (b : Selector) (s : State) : Host.Outcome State Fault Refusal :=
  issue (.flushd d b) anyType s fun c =>
    c.onDie true d b.toNat fun c =>
      if (c.s.die b.toNat).link ≠ 0 || c.s.userOn b.toNat then .done (c.putOnce d 1#32)
      else .done ({ c with s := c.s.flushDie b.toNat }.putOnce d 0#32)

/-- Whether a write that was posted before a number crosses the link of a die and has not performed. -/
def State.onLink (s : State) (d mark : Nat) : Bool :=
  s.posted.any fun p => p.id ≤ mark && p.line < 2 ^ 53 && (homeDie p.line == d) != (partyDie p.g == d) && !s.bypassed p.line

/-- LINKQ (0xDA, R398): requests that need the link are held from here on; the ones that it carries already have their replies, or 2,000 clk
are over, before the die is quiesced. -/
def execLinkq (d : Reg) (b : Selector) (s : State) : Host.Outcome State Fault Refusal :=
  issue (.linkq d b) anyType s fun c =>
    c.onDie true d b.toNat fun c =>
      let x := c.s.die b.toNat
      if x.link ≠ 0 then .done (c.putOnce d 1#32)
      else
        let (mark, limit) := x.closing.getD (c.s.serial, c.s.clk + 2000)
        if c.s.onLink b.toNat mark && c.s.clk < limit then
          .wait { c with s := c.s.setDie b.toNat { x with closing := some (mark, limit) } } .engine
        else .done ({ c with s := c.s.setDie b.toNat { x with link := 1, closing := none } }.putOnce d 0#32)

/-- The key of an SRAM array and that of a row of it (R442). -/
def arrayKey (source die unit : Nat) : Nat := (die * 8 + source) * 256 + unit
def rowKey (source die unit row : Nat) : Nat := row * 2 ^ 13 + arrayKey source die unit

/-- The rows of a die that are to be spared are, at its reset (R442). -/
def Health.spareRows (h : Health) (die : Nat) : Health :=
  let mine := h.toSpare.filter fun k => k % 2 ^ 13 / 2048 = die
  { h with toSpare := h.toSpare.filter fun k => k % 2 ^ 13 / 2048 ≠ die
           sparesUsed := mine.foldl (fun (t : Tab Nat) k => t.put 0 (k % 2 ^ 13) (Tab.get 0 t (k % 2 ^ 13) + 1)) h.sparesUsed }

/-- The reset of a die (R399): the contexts with a group on it are reset, its waves end, its caches and its registers are cleared. -/
def State.resetDie (s : State) (d : Nat) : State :=
  let ctxs := s.groups.foldl (fun (cs : List Nat) (x : Nat × Group) =>
    if dieOfGroup x.1 = d && coreOfGroup x.1 % Config.coresPerDie ≠ 0 then insertSorted x.2.ctx cs else cs) []
  let writes := (s.posted.filter fun p => dieOfGroup p.g == d && p.g ≠ frontParty).length
  let s := ctxs.foldl (fun (s : State) i => s.resetContext i 5) s
  let s := s.dropGroups fun k _ => dieOfGroup k == d
  let near := s.nearLines fun _ o => dieOfCore o == d
  let soft := (s.guestDirty.filter fun k => k / 2 ^ 56 == d).map fun k => k % 2 ^ 56 / 128
  let s := ((s.undoNear near).forgetDie d true).loseLines d writes (near ++ soft)
  let first := d * Config.coresPerDie
  { s.setDie d { link := 2, bypass := (s.die d).bypass } with
    trust := { s.trust with measures := s.trust.measures.erase (1 + d), resets := s.trust.resets.put 0 d (Tab.get 0 s.trust.resets d + 1) }
    health := s.health.spareRows d
    awakeBanks := s.awakeBanks.filter fun b => b / 16 < first || first + Config.coresPerDie ≤ b / 16 }.applyOffsets

/-- DIERST (0xDC, R399): it accepts a quiesced die. -/
def execDierst (d : Reg) (b : Selector) (s : State) : Host.Outcome State Fault Refusal :=
  issue (.dierst d b) anyType s fun c =>
    c.onDie true d b.toNat fun c =>
      if (c.s.die b.toNat).link ≠ 1 then .done (c.putOnce d 1#32)
      else .acts (c.putOnce d 0#32) fun s => s.resetDie b.toNat

/-- LINKUP (0xDB, R400): a quiesced die returns at once; one in reset trains, which succeeds or fails, and its boot ROM then starts its
firmware. -/
def execLinkup (d : Reg) (b : Selector) (s : State) : Host.Outcome State Fault Refusal :=
  issue (.linkup d b) anyType s fun c =>
    c.onDie true d b.toNat fun c =>
      let x := c.s.die b.toNat
      if x.link = 1 then .done ({ c with s := c.s.setDie b.toNat { x with link := 0 } }.putOnce d 0#32)
      else if x.link = 2 then .wait { c with s := c.s.setDie b.toNat { x with link := 3 } } .engine
      else if x.link = 3 && c.p.wait = .engine then
        (if Config.freeChoice c.s.free b.toNat then
          .done ({ c with s := (c.s.setDie b.toNat { x with link := 0 }).post (.firmwareBoot b.toNat) }.putOnce d 0#32)
         else .done ({ c with s := c.s.setDie b.toNat { x with link := 2 } }.putOnce d 3#32))
      else .done (c.putOnce d 1#32)

/-- HOMEBYP on, steps 1 to 3 (R454): what other dies own of a die's lines is given back, and leases run out. -/
def State.recallHome (s : State) (d : Nat) : State :=
  let held := s.lines.keysWhere fun n (l : Line) => homeDie n == d && (match l.owner with | some o => dieOfCore o ≠ d | none => false)
  held.foldl State.returnLine s

/-- Whether a lease of a line homed on a die has not run out. -/
def State.homeLeased (s : State) (d : Nat) : Bool :=
  (List.any s.leases fun (x : Nat × Nat) => homeDie (x.1 / 128) == d && s.clk < x.2) ||
    List.any s.lines fun (x : Nat × Line) => homeDie x.1 == d && s.clk < x.2.exp

/-- HOMEBYP on, step 4 (R397, R454): the slices' dirty lines stand in memory, what other dies hold dirty under software management too, no copy
is left, and what the die's own L1s own is lost. -/
def State.switchHome (s : State) (d : Nat) : State :=
  let homed (line : Nat) : Bool := homeDie line == d
  let lost := s.nearLines fun n _ => homed n
  let s := s.undoNear lost
  let s := s.setBytes ((s.guestDirty.filter fun k => homed (k % 2 ^ 56 / 128)).map fun k => (k % 2 ^ 56, BitVec.ofNat 8 (Tab.get 0 s.guestCopies k)))
  { s.setDie d { s.die d with bypass := true, switching := false } with
    unwritten := s.unwritten.keep fun k _ => !homed (lineOf k)
    leases := s.leases.keep fun k _ => !homed (k / 128)
    lines := (s.lines.mapVals fun n (l : Line) =>
      if homed n then { l with exp := 0, guests := [], owner := none, heat := 0, heatAt := 0 } else l).keep fun _ (l : Line) => !decide (l = ({} : Line))
    guestCopies := s.guestCopies.keep fun k _ => !homed (k % 2 ^ 56 / 128)
    guestDirty := s.guestDirty.filter fun k => !homed (k % 2 ^ 56 / 128) }.lossRecord d 0 lost.length

/-- HOMEBYP (0xDD, R397, R454): the homes of a die's lines go to the controllers, once other dies' copies are gone; or they return to it,
empty. -/
def execHomebyp (d : Reg) (a b : Selector) (s : State) : Host.Outcome State Fault Refusal :=
  issue (.homebyp d a b) anyType s fun c =>
    c.onDie false d a.toNat fun c =>
      let x := c.s.die a.toNat
      if b = 0#8 then
        (if x.link ≠ 0 || !x.ready then .done (c.putOnce d 1#32)
         else .done ({ c with s := c.s.setDie a.toNat { x with bypass := false } }.putOnce d 0#32))
      else if x.bypass then .done (c.putOnce d 0#32)
      else
        let s := c.s.recallHome a.toNat
        if s.homeLeased a.toNat then .wait { c with s := s.setDie a.toNat { x with switching := true } } .engine
        else .done ({ c with s := s.switchHome a.toNat }.putOnce d 0#32)

/-! ## Parking -/

/-- PARK (0xDF, R402): the slot waits until its die's firmware core has an event; a latched one ends it at once. -/
def execPark (s : State) : Host.Outcome State Fault Refusal :=
  issue .park anyType s fun c =>
    c.system false false fun c =>
      let x := c.s.die c.die
      if x.event then .done { c with s := c.s.setDie c.die { x with event := false } } else .wait c .park

end Sys2Proof.Machine
end

