-- ==== Sys2Proof/Machine/Card.lean ====
section
/-!
DEFINITION. Sys2Proof/Machine/Card.lean: what the card does beside its programs: the display (R350), the host port (R430, R431, R434),
the ports to other cards (R432, R433), errors and retired memory (R439 to R442), ageing, power and temperature (R318, R443, R446, R447),
boot, measurement and attestation (R448 to R451), device reset (R331).
-/

namespace Sys2Proof.Machine

open Sys2Proof

/-! ## The display (R306, R350) -/

/-- Height, format, pitch and address of a surface, and the 128-byte lines of a row of it (R349). -/
def surfaceHeight (x : BitVec 256) : Nat := bitsOf x.toNat 112 16
def rowLines (x : BitVec 256) : Nat := ceilDiv (bitsOf x.toNat 96 16 * (if bitsOf x.toNat 128 8 = 0x13 then 8 else 4)) 128
def surfaceLine (x : BitVec 256) (row line : Nat) : Nat :=
  (bitsOf x.toNat 0 64 + bitsOf x.toNat 64 32 * row + 128 * line) % 2 ^ 64

/-- The rows whose scanout a latch point begins: all of them in vblank mode; in slice mode none at vertical blanking, which begins a frame,
then 32 at each point (R350). -/
def Head.rows (h : Head) (x : BitVec 256) : Nat × Nat :=
  if h.latchMode = 0 then (0, surfaceHeight x)
  else if h.slice = 0 then (0, 0)
  else (32 * (h.slice - 1), min (32 * h.slice) (surfaceHeight x))

/-- A latch point begins the scanout of the latched surface. -/
def State.beginScan (s : State) (head : Nat) : State :=
  let h := s.head head
  match h.surface with
  | none => s.setHead head { h with slice := 0 }
  | some (ctx, x) =>
    let (lo, hi) := h.rows x
    let slice := if h.latchMode = 0 || surfaceHeight x ≤ 32 * h.slice then 0 else h.slice + 1
    let frame := if h.latchMode = 0 || h.slice = 0 then [] else h.frame
    let s := s.setHead head { h with
      slice := slice
      frame := frame
      scan := if hi ≤ lo then none else some { ctx := ctx, surface := x, mark := s.writes, row := lo, line := 0, stop := hi } }
    if hi ≤ lo then s else { s with agenda := s.agenda ++ [.scanout head] }

/-- A line of the surface as the scanout returns it (R306): the memory at some moment since the latch point, one moment for the whole line.
Writes that came before the latch point are in it, and each later one as a whole or not at all. A line that no translation or
permission lets the head read is a free value. -/
def State.scanLine (s : State) (t : Option Nat) (mark va : Nat) : Nat :=
  let time := s.writes - Config.freeNat s.free va % (s.writes - mark + 1)
  bytesNat ((List.range 128).map fun i =>
    match t with
    | some pa => byteAsOf time (memPlace 0 (pa + i)) (s.byteAt (memPlace 0 (pa + i))) s.past
    | none => Config.freeByte s.free (va + i))

/-- The scanout returns its next line. -/
def State.scanout (s : State) (head : Nat) : State :=
  let h := s.head head
  match h.scan with
  | none => s
  | some x =>
    let va := surfaceLine x.surface x.row x.line
    let again (s : State) : State := s.later (.scanout head)
    let took (s : State) (t : Option Nat) : State :=
      let last := rowLines x.surface ≤ x.line + 1
      let x' : Scan := if last then { x with row := x.row + 1, line := 0 } else { x with line := x.line + 1 }
      let done := x.stop ≤ x'.row
      let s := { s with free := s.free + 1 }.setHead head
        { h with frame := h.frame.set (va / 128) (s.scanLine t x.mark va), scan := if done then none else some x' }
      if done then s else again s
    match s.frontAccess (.flip head) x.ctx va 1 true false with
    | .waits s' => again s'
    | .ok _ pa => took s (some pa)
    | .fails _ => took (s.forgive (.flip head)) none

/-- LATCH_POINT (R231, R306, R350): the last of the requests performed at least 128 clk ago latches and is scanned out; the others of them
are dropped and counted. The point is one of the mode that the driver has set. A point that a join's deadline has been measured by comes
at its own clk, and none comes shortly before it (R348). -/
def execLatchPoint (head mode : Nat) (s : State) : Host.Outcome State Fault Refusal :=
  if (s.head head).latches.any fun x => x.1 ≤ s.clk && s.clk < x.2 then
    .next (s.later (.latch head mode))
  else
    let h := s.head head
    let ready := h.requests.filter fun r => r.at? + 128 ≤ s.clk
    let h := { h with latchMode := mode % 2, latches := h.latches.filter fun x => s.clk < x.2 }
    match ready.getLast? with
    | none => .next ((s.setHead head h).beginScan head)
    | some r =>
      .next ((s.setHead head { h with surface := some (r.ctx, r.surface), requests := h.requests.filter fun r => s.clk < r.at? + 128,
                                      flipsDropped := h.flipsDropped + (ready.length - 1) }).beginScan head).wakeFront

/-! ## The host port (R430, R431) -/

/-- The lines that n bytes lie in. -/
def hostLines (pa n : Nat) : List Nat := (List.range ((pa % 128 + n + 127) / 128)).map fun i => pa / 128 + i

/-- A host access of card memory: at most 64 bytes, within the memory. -/
def hostFits (off n : Nat) : Bool := n ≤ 64 && off + n ≤ Config.cardBytes

/-- The host reads card memory: device copies are recalled as for a guest read. A line that is held back, or whose turn others have, is read
when the host asks again; so is a read behind posted writes of the host that have not performed (R282). -/
def State.hostRead (s : State) (off n : Nat) : State :=
  let pa := s.ownPa off
  if !hostFits off n || s.hostWaits || (hostLines pa n).any fun l => s.lineHeld l || s.queueOf l ≠ [] then s
  else
    let s := (hostLines pa n).foldl (fun (s : State) l => if (s.line l).owner = none then s else s.returnLine l) s
    { s with hostReply := (List.range n).map fun i => s.byteAt (memPlace 0 (pa + i)) }

/-- Whether the lines of a write of the host can be written now. -/
def State.hostServed (s : State) (lines : List Nat) : Bool := lines.all fun l => s.queueOf l = [] && s.writeServed l frontParty 0

/-- The host's bytes perform at the data controller; no copy of the device is left. -/
def State.hostPerform (s : State) (lines : List Nat) (bytes : List (Nat × Byte)) : State :=
  let s := lines.foldl (fun (s : State) l => (s.purgeLine l).setLine l { (s.purgeLine l).line l with guests := [] }) s
  { (s.notePast bytes).setBytes bytes with unwritten := s.unwritten.keep fun k _ => !(bytes.any fun b => b.1 == k) }

/-- The host writes card memory at the data controller: once every device copy has been invalidated; until then the write waits, and the
host's later ones behind it (R282). -/
def State.hostWrite (s : State) (off n : Nat) (value : Nat) : State :=
  let pa := s.ownPa off
  let bytes := placed (memPlace 0 pa) (natBytes n value)
  if !hostFits off n then s
  else if !s.hostWaits && s.hostServed (hostLines pa n) then s.hostPerform (hostLines pa n) bytes
  else (splitLines (memPlace 0 pa) (natBytes n value)).foldl State.postHost s

/-- HOST_BAR2_READ (R430). -/
def execHostBar2Read (addr bytes : Nat) (s : State) : Host.Outcome State Fault Refusal := .next (s.hostRead addr bytes)

/-- HOST_BAR2_WRITE (R430). -/
def execHostBar2Write (addr bytes : Nat) (value : BitVec 512) (s : State) : Host.Outcome State Fault Refusal :=
  .next (s.hostWrite addr bytes value.toNat)

/-- CXL_MEM_ACCESS (R423, R431): the controller serves the host, which then holds the lines; a line that is held back is asked for, and the
host asks again. -/
def execCxlMemAccess (write : Bool) (addr bytes : Nat) (value : BitVec 512) (s : State) : Host.Outcome State Fault Refusal :=
  let lines := hostLines (s.ownPa addr) bytes
  let free := hostFits addr bytes && !s.hostWaits && if write then s.hostServed lines else !(lines.any fun l => s.lineHeld l || s.queueOf l ≠ [])
  if free then
    let s := if write then s.hostWrite addr bytes value.toNat else s.hostRead addr bytes
    .next (lines.foldl (fun (s : State) l => s.setLine l { s.line l with shared := true, host := true }) s)
  else .next (if hostFits addr bytes && write then lines.foldl State.requestExclusive s else s)

/-- REGISTER_WRITE (R330, R331, R366, R367, R391, R434): a write of the host to BAR0, behind its earlier writes (R282). -/
def execRegisterWrite (addr bytes : Nat) (value : BitVec 64) (s : State) : Host.Outcome State Fault Refusal :=
  .next (if s.hostWaits then s.postHost (placed (bar0Place addr) (natBytes bytes value.toNat)) else s.bar0Write addr bytes value.toNat)

/-! ## The ports to other cards (R432, R433) -/

/-- A port retrains: a record of kind 5 says after how many replays. -/
def State.retrain (s : State) (port : Nat) : State :=
  let p := s.port port
  if p.state ≠ 1 then s
  else (((s.setPort port { state := 2, replays := 0, since := s.clk }).after (s.window.linkWindow * clkPerMicro) (.peer port)).errorRecord { kind := 5, value0 := p.replays, unit := port, source := 8 }).wakeFront

/-- LINK_RETRAIN (R433): a port loses lane lock. -/
def execLinkRetrain (port : Nat) (s : State) : Host.Outcome State Fault Refusal := .next (s.retrain port)

/-- FLIT_REPLAY (R432, R433): a flit is replayed; at the eighth replay the port retrains. -/
def execFlitReplay (port : Nat) (s : State) : Host.Outcome State Fault Refusal :=
  let p := s.port port
  if p.state ≠ 1 then .next s
  else
    let s := s.setPort port { p with replays := p.replays + 1 }
    .next (if 8 ≤ p.replays + 1 then s.retrain port else s)

/-- LINK_UP (R433): a port that retrains comes up. -/
def execLinkUp (port : Nat) (s : State) : Host.Outcome State Fault Refusal :=
  if (s.port port).state = 2 then .next (s.setPort port { state := 1 }) else .next s

/-- The card that a port leads to. -/
def State.cardOfPort (s : State) (port : Nat) : Nat := bitsOf s.window.fabricCfg.toNat (8 + 2 * port) 2

/-- The card on which a place of memory is homed, when it is another one. -/
def State.awayCard (s : State) (place : Nat) : Option Nat :=
  if isScratch place || isDevice place then none
  else match s.reach (placePa place) with
    | .gddr card _ => if card = s.ownCard then none else some card
    | _ => none

/-- What a peer that is down takes with it (R433): held writes are lost, copies of its lines are dropped with what they held unsaved, so that
they hold what they held before (R290); its copies of local lines are gone. -/
def State.losePeer (s : State) (port card : Nat) : State :=
  let homed (line : Nat) : Bool := line < 2 ^ 45 && s.awayCard (line * 128) == some card
  let lost := s.posted.filter fun p => match p.bytes with | b :: _ => s.awayCard b.1 == some card | [] => false
  let owned := s.nearLines fun n _ => homed n
  let soft := s.guestDirty.foldl (fun (ls : List Nat) k => if homed (k % 2 ^ 56 / 128) then insertNew (k % 2 ^ 56 / 128) ls else ls) []
  let dirty := (owned ++ soft).foldl (fun (ls : List Nat) l => insertNew l ls) []
  let s := lost.foldl (fun (s : State) p => s.dropLost p card) s
  let s := s.undoNear owned
  let line (n : Nat) (l : Line) : Line :=
    if homed n then { l with owner := none, guests := [], exp := 0 }
    else
      let cards := l.cards.filter fun c => c ≠ card
      { l with cards := cards, shared := l.shared && (cards ≠ [] || l.host) }
  let s := { s with
    lines := (s.lines.mapVals line).keep fun _ (l : Line) => !decide (l = ({} : Line))
    leases := s.leases.keep fun k _ => !homed (k / 128)
    guestCopies := s.guestCopies.keep fun k _ => !homed (k % 2 ^ 56 / 128)
    guestDirty := s.guestDirty.filter fun k => !homed (k % 2 ^ 56 / 128)
    unwritten := s.unwritten.keep fun k _ => !homed (lineOf k) }
  (if lost = [] && dirty = [] then s
   else s.errorRecord { kind := 4, value0 := lost.length, value1 := dirty.length, unit := port, source := 8 }).wakeFront

/-- A peer is down when every port to it has retrained for `link_window`. -/
def State.peerLost (s : State) (port : Nat) : State :=
  let card := s.cardOfPort port
  let ports := s.portsTo card
  if !ports.contains port || !(ports.all fun p => (s.port p).state = 2 && decide ((s.port p).since + s.window.linkWindow * clkPerMicro ≤ s.clk)) then s
  else (ports.foldl (fun (s : State) p => s.setPort p { s.port p with state := 3 }) s).losePeer port card

/-- PEER_DOWN (R411, R433). -/
def execPeerDown (port : Nat) (s : State) : Host.Outcome State Fault Refusal := .next (s.peerLost port)

/-- A port that retrains is looked at when `link_window` is over, and again while it retrains for less than that. -/
def State.peerTurn (s : State) (port : Nat) : State :=
  let due := (s.port port).since + s.window.linkWindow * clkPerMicro
  if (s.port port).state ≠ 2 then s
  else if s.clk < due then s.after (due - s.clk) (.peer port)
  else s.peerLost port

/-! ## Errors (R437 to R442) -/

/-- A leaf that maps a frame: the ASID, the VA of the frame's 4 KiB page, the PA of the leaf, the page's first PA and its size. -/
structure Mapping where
  asid : Nat
  va : Nat
  leaf : Nat
  base : Nat
  bits : Nat
deriving DecidableEq, Repr

/-- The leaves below a table. -/
def State.leavesOf (s : State) (asid table va : Nat) : List Nat → List Mapping
  | [] => []
  | level :: rest =>
    (List.range 512).flatMap fun i =>
      let pa := table + 8 * i
      let e := s.physNat pa 8
      let va := va + i * 2 ^ (12 + 9 * level)
      if !pteValid e then []
      else if pteLeaf e then
        (if 3 ≤ level || !bitOf e 5 then []
         else
           let bits := leafBits level e
           [⟨asid, va / 2 ^ bits * 2 ^ bits, pa, pteFrame e * 4096 / 2 ^ bits * 2 ^ bits, bits⟩])
      else if level = 0 then []
      else s.leavesOf asid (pteFrame e * 4096) va rest

/-- The mappings of a frame in the tables of every context that is live (R439). -/
def State.mappings (s : State) (frame : Nat) : List Mapping :=
  (List.range 4095).flatMap fun i =>
    let root := s.asidRoot (i + 1)
    if root = 0 then []
    else
      (((s.leavesOf (i + 1) root 0 [4, 3, 2, 1, 0]).filter fun m => m.base ≤ frame * 4096 && frame * 4096 < m.base + 2 ^ m.bits).map
        fun m => { m with va := m.va + (frame * 4096 - m.base) }).foldl (fun (l : List Mapping) m => if l.any fun x => x.leaf == m.leaf then l else l ++ [m]) []

/-- One record for each (ASID, page) that maps a frame, or one without a context (R439). -/
def State.frameRecords (s : State) (frame : Nat) (e : ErrorInfo) : State :=
  let e := { e with pa := frame * 4096 + e.pa % 4096 }
  match (s.mappings frame).foldl (fun (l : List (Nat × Nat)) m => if l.contains (m.asid, m.va) then l else l ++ [(m.asid, m.va)]) [] with
  | [] => s.errorRecord e
  | ms => ms.foldl (fun (s : State) m => s.errorRecord { e with ctx := m.1, va := m.2 }) s

/-- Whether a write to a page stands before its home. -/
def State.pageWritten (s : State) (frame bits : Nat) : Bool :=
  s.posted.any fun p => p.bytes.any fun b => !isScratch b.1 && !isDevice b.1 && placePa b.1 / 2 ^ bits == frame * 4096 / 2 ^ bits

/-- A leaf's word is written. -/
def State.writeLeaf (s : State) (leaf e : Nat) : State := s.setBytes (placed (memPlace 0 leaf) (natBytes 8 e))

/-- The translations of mappings leave every TLB, and the lines of the frame every cache, without being written back. -/
def State.forgetFrame (s : State) (ms : List Mapping) (frame : Nat) : State :=
  let hit (k : Nat) : Bool := ms.any fun m => k / 2 ^ 45 == m.asid && k % 2 ^ 45 * 4096 / 2 ^ m.bits == m.va / 2 ^ m.bits
  let mine (line : Nat) : Bool := line % 2 ^ 45 / 32 == frame
  { s with
    tlb := s.tlb.keep fun k _ => !hit k
    leases := s.leases.keep fun k _ => !mine (k / 128)
    guestCopies := s.guestCopies.keep fun k _ => !mine (k % 2 ^ 56 / 128)
    guestDirty := s.guestDirty.filter fun k => !mine (k % 2 ^ 56 / 128) }

/-- A frame is retired for good: flash holds 4,096 of them. -/
def State.keepRetired (s : State) (frame : Nat) : State :=
  let h := s.health
  if h.retiredFrames.contains frame then s
  else if 4096 ≤ h.retiredFrames.length then
    { s with health := { h with degraded := true }, management := if h.degraded then s.management else s.management ++ [(2, 4)] }
  else { s with health := { h with retiredFrames := h.retiredFrames ++ [frame] } }

/-- An uncorrected error in GDDR retires its frame (R441): `res` is cleared in every leaf that maps it, dirty lines are dropped, and faults
on its pages fail with result 3. -/
def State.retireFrame (s : State) (place : Nat) : State :=
  let pa := placePa place
  let frame := pa / 4096
  let ms := s.mappings frame
  let s := s.frameRecords frame { kind := 3, pa := pa, unit := pa / 128 % 32, source := 5, action := 2 }
  let s := ms.foldl (fun (s : State) m => s.writeLeaf m.leaf (s.physNat m.leaf 8 - 2 ^ 5)) s
  let back := s.unwritten.filter fun x => x.1 % 2 ^ 52 / 4096 = frame
  let s := { s.setBytes back with unwritten := s.unwritten.keep fun k _ => k % 2 ^ 52 / 4096 ≠ frame }
  let s := (s.forgetFrame ms frame).keepRetired frame
  { s with health := { s.health with
      retiredPages := ms.foldl (fun (l : List (Nat × Nat)) m => if l.contains (m.asid, m.va / 4096) then l else l ++ [(m.asid, m.va / 4096)]) s.health.retiredPages } }

/-- The size of the page that mappings give a frame, as a power of two. -/
def pageBits (ms : List Mapping) : Nat := ms.foldl (fun n m => max n m.bits) 12

/-- The frame's page is copied to another frame, which the leaves then name (R441); what a die holds of it dirty is written back before.
Which frame is free. -/
def State.migrateFrame (s : State) (frame : Nat) : State :=
  let ms := s.mappings frame
  let bits := pageBits ms
  let old := frame * 4096 / 2 ^ bits * 2 ^ bits
  let new := s.spareFrame bits (Config.freeNat s.free frame) (frame :: s.health.retiredFrames)
  let within (place : Nat) : Bool := old ≤ place && place < old + 2 ^ bits
  let dirty := (s.guestDirty.filter fun k => within (k % 2 ^ 56)).map fun k => (k % 2 ^ 56, BitVec.ofNat 8 (Tab.get 0 s.guestCopies k))
  let s := ({ s.setBytes dirty with free := s.free + 1 }).copyFrame bits old new
  let s := { s with
    guestDirty := s.guestDirty.filter fun k => !within (k % 2 ^ 56)
    guestCopies := s.guestCopies.keep fun k _ => !within (k % 2 ^ 56)
    unwritten := s.unwritten.keep fun k _ => !within k }
  let s := ms.foldl (fun (s : State) m =>
    let e := s.physNat m.leaf 8
    let frame := (m.base - old + new) / 4096
    s.writeLeaf m.leaf (e - pteFrame e * 4096 + frame * 4096)) s
  (s.forgetFrame ms frame).keepRetired frame

/-- A migration waits until the writes on their way to the page have performed (R441). -/
def State.migrateSoon (s : State) (frame : Nat) : State :=
  if s.pageWritten frame (pageBits (s.mappings frame)) then s.later (.migrate frame) else s.migrateFrame frame

/-- clk in an hour. -/
def clkPerHour : Nat := 3600 * 1000000 * clkPerMicro
/-- Powered hours of the card. -/
def State.poweredHours (s : State) : Nat := s.health.hours + s.clk / clkPerHour

/-- The user core of a die that the firmware takes out (R442, R443). -/
def State.clearCore (s : State) (die core : Nat) : State :=
  s.writeSchedmask die ((s.die die).schedmask &&& ~~~(BitVec.ofNat 32 (2 ^ core)))

/-- A die is reported failed. -/
def State.reportFailed (s : State) (die : Nat) : State := { s with management := s.management ++ [(1, die)] }

/-- What follows the third corrected error of an SRAM row (R442): it is spared at its die's next reset; without a spare row left the array's
core leaves `schedmask`, and an L2 slice or version cache takes its die with it. The action, and the state. -/
def State.spareRow (s : State) (source die unit row : Nat) : State × Nat :=
  let k := arrayKey source die unit
  let used := Tab.get 0 s.health.sparesUsed k + (s.health.toSpare.filter fun x => x % 2 ^ 13 = k).length
  if used < 32 then ({ s with health := { s.health with toSpare := insertNew (rowKey source die unit row) s.health.toSpare } }, 3)
  else if source = 3 || source = 4 then (s.reportFailed die, 5)
  else (s.clearCore die unit, 4)

/-- ECC_CORRECTED (R437, R441, R442): a record with the count of the hour; the third one in a frame migrates it, the third one in a row has
the row spared. -/
def execEccCorrected (source die unit addr : Nat) (s : State) : Host.Outcome State Fault Refusal :=
  let frame := placePa addr / 4096
  let key := if source = 5 then 2 ^ 60 + frame else rowKey source die unit addr
  let (hour, old) := Tab.get (0, 0) s.health.corrected key
  let now := s.poweredHours
  let n := if hour = now then old + 1 else 1
  let s := { s with health := { s.health with corrected := s.health.corrected.put (0, 0) key (now, n) } }
  let e : ErrorInfo := { kind := 1, value0 := n, die := die, unit := unit, source := source }
  if source = 5 then
    let s := s.frameRecords frame { e with die := 4, pa := placePa addr, action := if n = 3 then 1 else 0 }
    .next (if n = 3 then s.migrateSoon frame else s).wakeFront
  else
    let (s, action) := if n = 3 then s.spareRow source die unit addr else (s, 0)
    .next (s.errorRecord { e with action := action }).wakeFront

/-- A line holds an uncorrectable error of a unit. -/
def State.poisonLine (s : State) (place unit : Nat) : State :=
  { s with health := { s.health with poisonedLines := s.health.poisonedLines.put 0 (lineOf place) unit } }

/-- A register of a wave holds an uncorrectable error (R362): `addr` is ((group × 64 + wave) × 32 + lane) × 256 + register. -/
def State.poisonRegister (s : State) (addr : Nat) : State :=
  let reg := addr % 256
  let wi := addr / 2 ^ 13 % 64
  { s with groups := s.groups.mapVals fun k (g : Group) =>
      if k ≠ addr / 2 ^ 19 then g
      else
        match g.waves[wi]? with
        | some w => g.setWave wi { w with poison := w.poison ++ [⟨.v reg, laneBit (addr / 256 % 32), 1, reg⟩] }
        | none => g }

/-- An accumulator tile or a macro of a wave's group: `addr` is (group × 64 + wave) × 256 + tile, or + 128 + macro. -/
def State.poisonTile (s : State) (addr : Nat) : State :=
  let x := addr % 128
  let wi := addr / 256 % 64
  { s with groups := s.groups.mapVals fun k (g : Group) =>
      if k ≠ addr / 2 ^ 14 then g
      else if addr % 256 ≥ 128 then { g with badMacros := insertNew x g.badMacros }
      else
        match g.waves[wi]? with
        | some w => g.setWave wi { w with badTiles := insertNew x w.badTiles }
        | none => g }

/-- A future whose version lies in the spill area, if any (R111, R441). Which one an address belongs to is free. -/
def State.spilledTag (s : State) : Option Nat :=
  let tags := (List.range 16).filter fun t => t ≠ 0 && s.versions.any fun v => v / 2 ^ 45 == t
  tags[Config.freeNat s.free 441 % tags.length]?

/-- ECC_UNCORRECTED (R362, R440, R441). In the spill area the version's future is squashed. In GDDR the line delivers errors, and its frame
is retired at once or when the report comes again or the patrol finds it. In an SRAM the line, the register, the tile or the macro holds
the error. -/
def execEccUncorrected (source die unit addr : Nat) (s : State) : Host.Outcome State Fault Refusal :=
  let w := s.window
  let off := placePa addr
  let latent : ErrorInfo := { kind := 3, die := die, unit := unit, source := source }
  if source = 5 && w.spillSize ≠ 0 && w.spillBase ≤ off && off < w.spillBase + w.spillSize then
    match s.spilledTag with
    | some t => .next ({ s with free := s.free + 1 }.squash t 4).wakeFront
    | none => .next s
  else if source = 5 then
    let known := s.health.poisonedLines.find? (lineOf addr) == some 5
    let s' := s.poisonLine addr 5
    .next (if known || Config.freeChoice s.free addr then { s' with free := s.free + 1 }.retireFrame addr else { s' with free := s.free + 1 }).wakeFront
  else if source = 6 then .next (s.poisonTile addr).wakeFront
  else if source = 1 && !isScratch addr then .next (s.poisonRegister addr).wakeFront
  else .next ((s.poisonLine addr source).errorRecord { latent with pa := if isScratch addr then 0 else off }).wakeFront

/-- PATROL_SCRUB (R439, R441): a patrol read of a GDDR line; an uncorrectable error that it finds retires the frame. -/
def execPatrolScrub (line : Nat) (s : State) : Host.Outcome State Fault Refusal :=
  if s.health.poisonedLines.find? line == some 5 && !(s.health.retiredFrames.contains (placePa (line * 128) / 4096)) then
    .next (s.retireFrame (line * 128)).wakeFront
  else .next s

/-! ## Ageing, power, temperature (R318, R443, R446, R447) -/

def State.powerOf (s : State) (d : Nat) : Power := Tab.get {} s.power d
def State.setPower (s : State) (d : Nat) (p : Power) : State := { s with power := s.power.put {} d p }

/-- The worst of the cores of a die that are in use; which monitor is the worst is free. None when none is left. -/
def State.worstCore (s : State) (d : Nat) : Option Nat :=
  let cores := (List.range Config.coresPerDie).filter fun i => (s.die d).schedmask.getLsbD i
  cores[Config.freeNat s.free (d + 8) % cores.length]?

/-- Re-plans of a die's offset (R443): the least one that keeps the slack, in steps of 5 mV up to 60 mV; what a monitor measures is free. A
die that needs more loses its worst core and is planned again, as often as it has cores. -/
def State.replanFrom (s : State) (d : Nat) : Nat → State
  | 0 => s
  | n + 1 =>
    let steps := Config.freeNat s.free d
    let slack := Config.freeNat s.free (d + 4)
    let worst := if 12 < steps then s.worstCore d else none
    let s := { s with free := s.free + 1 }
    let offset := min 12 steps
    let s := match worst with | some core => s.clearCore d core | none => s
    let s := s.setPower d { s.powerOf d with nextOffset := some offset, planned := s.poweredHours }
    let s := s.errorRecord { kind := 6, value0 := 5 * offset, value1 := slack, die := d, source := 9, action := if worst.isSome then 4 else 0 }
    if worst.isSome then s.replanFrom d n else s

def State.replan (s : State) (d : Nat) : State := (s.replanFrom d Config.coresPerDie).applyOffsets

/-- A re-plan when 1,000 powered hours have passed since the last. -/
def State.replanDue (s : State) (die : Nat) : State :=
  if Config.dies ≤ die || s.poweredHours < (s.powerOf die).planned + 1000 then s else (s.replan die).wakeFront

/-- REPLAN (R443): every 1,000 powered hours. -/
def execReplan (die : Nat) (s : State) : Host.Outcome State Fault Refusal := .next (s.replanDue die)

/-- The firmware looks for a due re-plan every powered hour. -/
def State.replanTurn (s : State) (die : Nat) : State := (s.replanDue die).after clkPerHour (.replan die)

/-- LOW_SLACK (R443): a monitor below 5 ps raises the offset by one step at once; beyond +60 mV the worst core goes and the die is
re-planned. -/
def execLowSlack (die : Nat) (s : State) : Host.Outcome State Fault Refusal :=
  let p := s.powerOf die
  if Config.dies ≤ die then .next s
  else if 12 ≤ p.offset then
    .next ((match s.worstCore die with | some core => s.clearCore die core | none => s).replan die).wakeFront
  else
    .next ((s.setPower die { p with offset := p.offset + 1 }).errorRecord
      { kind := 6, value0 := 5 * (p.offset + 1), value1 := Config.freeNat s.free die % 5, die := die, source := 9 }).wakeFront

/-- THERMAL_LIMIT (R446): at 105 °C. -/
def execThermalLimit (die : Nat) (s : State) : Host.Outcome State Fault Refusal :=
  .next (s.setPower die { s.powerOf die with thermal := true, vectorCap := 25, matrixCap := 50 })

/-- TEMPERATURE_DROP (R446): below 100 °C the thermal caps are lifted; the vector cap is that of the next window. -/
def execTemperatureDrop (die : Nat) (s : State) : Host.Outcome State Fault Refusal :=
  let p := s.powerOf die
  .next (if p.thermal then s.setPower die { p with thermal := false, vectorCap := 100, matrixCap := 100 } else s)

/-- The vector issue cap of a window by the die's matrix activity in percent of peak (R446). -/
def vectorCapOf (activity : Nat) : Nat :=
  if activity ≤ 25 then 100 else if activity ≤ 50 then 90 else if activity ≤ 75 then 75 else 60

/-- A window of the governor ends (R446): what it measures is free. -/
def State.govern (s : State) (die : Nat) : State :=
  let p := s.powerOf die
  let s' := { s with free := s.free + 1 }
  if p.thermal then s' else s'.setPower die { p with vectorCap := vectorCapOf (Config.freeNat s.free die % 101) }

/-- GOVERNOR_WINDOW (R446). -/
def execGovernorWindow (die : Nat) (s : State) : Host.Outcome State Fault Refusal := .next (s.govern die)

/-- The governor's windows follow each other every 1 µs. -/
def State.governTurn (s : State) (die : Nat) : State := (s.govern die).after clkPerMicro (.governor die)

/-- BANK_GATE (R318): a bank without a register of a resident wave is gated 10 µs after the last was freed. -/
def execBankGate (core bank : Nat) (s : State) : Host.Outcome State Fault Refusal :=
  let k := core * 16 + bank
  let due := Tab.get 0 s.bankFreed k + 14000
  if s.bankHeld core bank || !s.awakeBanks.contains k then .next s
  else if s.clk < due then .next (s.after (due - s.clk) (.gate core bank))
  else .next { s with awakeBanks := s.awakeBanks.filter fun b => b ≠ k, bankFreed := s.bankFreed.erase k }

/-- POWER_GATING (R447): the vector pipes of an idle core (units 0 to 95) or the UCIe modules of a die (96 to 99) without traffic are
gated. -/
def execPowerGating (unit : Nat) (s : State) : Host.Outcome State Fault Refusal :=
  let idle :=
    if unit < 96 then s.coreIdle unit
    else !(s.posted.any fun p => partyDie p.g == unit - 96)
  .next (if unit < 100 && idle then { s with gatedUnits := insertNew unit s.gatedUnits } else s)

/-- The vector pipes of a core that has been idle for 10 µs are gated (R447): it did not fall idle again since. -/
def State.gatePipes (s : State) (core : Nat) : State :=
  if s.coreIdle core && !(s.timers.any fun x => x.2 == .pipes core) then { s with gatedUnits := insertNew core s.gatedUnits } else s

/-! ## Boot, measurement, attestation (R448 to R451) -/

/-- PLDM_REQUEST (R448): subjects 0 to 4 stage an image, named by a number, for the base die or a compute die; others are sensors, whose
readings the reply holds: GDDR and SRAM error counts, retired frames, the dies' states, and what is measured. -/
def execPldmRequest (subject image : Nat) (s : State) : Host.Outcome State Fault Refusal :=
  if subject < 5 then .next { s with trust := { s.trust with staged := s.trust.staged.set subject image } }
  else
    let reading :=
      match subject with
      | 5 => s.health.corrected.foldl (fun n (x : Nat × (Nat × Nat)) => n + x.2.2) 0
      | 6 => s.health.retiredFrames.length
      | 7 => s.linkstat
      | n => Config.freeNat s.free n
    .next { s with free := s.free + 1, hostReply := natBytes 8 reading }

/-- A measurement register takes a started image (R450). -/
def Trust.extend (t : Trust) (i image : Nat) : Trust :=
  let m := Tab.get 0#512 t.measures i
  { t with measures := t.measures.put 0#512 i (Config.sha3 (natBytes 64 m.toNat ++ natBytes 64 (Config.imageDigest image).toNat))
           versions := t.versions.put 0 i (Config.imageVersion image) }

/-- The firmware group of a started image on core 0 of its die (R1, R380). -/
def firmwareGroup (image clk wake writes : Nat) : Group :=
  let f (i : Nat) : Nat := Config.imageStart image i
  { ctx := 0, code := ⟨32 * f 0, 32 * f 1⟩, born := clk,
    waves := List.replicate (1 + f 4 % 16)
      { lanes := 0xFFFFFFFF#32, live := 0xFFFFFFFF#32, n := 8 * (1 + f 3 % 24), acquired := writes,
        slotA := some { pc := BitVec.ofNat 32 (f 2), mask := 0xFFFFFFFF#32, mode := modeStart, readyAt := clk + wake } } }

/-- Boot of the base die, index 0 of the images, or of compute die d, index 1 + d. -/
def State.boot (s : State) (die : Nat) : State :=
  let i := if die = 4 then 0 else 1 + die
  let t := s.trust
  let image := (t.staged.find? i).getD (Tab.get 0 t.images i)
  let s := { s with trust := { t with images := t.images.put 0 i image, staged := t.staged.erase i } }
  if !Config.imageVerifies image || Config.imageVersion image < Config.fusedVersion then
    (if die = 4 then { s with management := s.management ++ [(3, 4)] }
     else
       (s.setDie die { s.die die with failed := true }).errorRecord { kind := 7, value0 := i, die := die, source := 10, action := 5 })
  else
    let s := { s with trust := s.trust.extend i image }
    if die = 4 then
      (List.range Config.dies).foldl (fun (s : State) d => ((s.post (.firmwareBoot d)).after clkPerMicro (.governor d)).after clkPerHour (.replan d))
        { s with bar0 := some Config.bar0Base }
    else
      let core := die * Config.coresPerDie
      let n := 8 * (1 + Config.imageStart image 3 % 24)
      { s.setDie die { s.die die with ready := true, failed := false } with
        groups := s.groups.set (core * Config.groupSlots) (firmwareGroup image s.clk (s.bankWake core n) s.writes) }.wakeBanks core n

/-- FIRMWARE_BOOT (R400, R449, R450): of a die whose link is up and whose firmware is not ready; of the base die before it is on the bus. -/
def execFirmwareBoot (die : Nat) (s : State) : Host.Outcome State Fault Refusal :=
  if die = 4 then .next (if s.bar0.isSome then s else s.boot 4)
  else if Config.dies ≤ die || (s.die die).link ≠ 0 || (s.die die).ready || s.bar0 = none then .next s
  else .next (s.boot die)

/-- The report before its signature (R451): a die in reset reports its register as 0. -/
def State.report (s : State) : List Byte :=
  let m (i : Nat) : Nat :=
    if 1 ≤ i && i ≤ 4 && (s.die (i - 1)).link == 2 then 0 else (Tab.get 0#512 s.trust.measures i).toNat
  natBytes 32 s.device.attNonce.toNat ++ ((List.range 8).flatMap fun i => natBytes 64 (m i)) ++
    ((List.range Config.dies).flatMap fun d => natBytes 4 (Tab.get 0 s.trust.resets d)) ++
    ((List.range (Config.dies + 1)).flatMap fun i => natBytes 4 (Tab.get 0 s.trust.versions i)) ++ natBytes 2592 Config.identityKey

/-- The party as which the report is written. -/
def reportWave : Nat := 1024

/-- ATT_CMD (R434, R451): the report is written; the status reads busy until it is. -/
def execAttCmd (value : BitVec 32) (s : State) : Host.Outcome State Fault Refusal :=
  let d := s.device
  if value ≠ 1#32 then .next s
  else if d.attStatus = 1 then
    .next (if s.quiet frontParty reportWave then { s with device := { d with attStatus := 0 } } else s.repost (.attCmd 1#32))
  else
    let body := s.report
    let bytes := body ++ natBytes 4627 (Config.identitySignature (Config.sha3 body))
    let dest := d.attDest.toNat
    let reached (p : Nat × Nat) : Bool :=
      match s.reach p.1 with | .host _ => true | .gddr card _ => card = s.ownCard || s.peer card ≠ .down | _ => false
    if !(blockParts 4096 dest bytes.length).all reached then .next { s with device := { d with attStatus := 2 } }
    else
      let s := (splitLines (memPlace 0 dest) bytes).foldl (fun (s : State) b =>
        s.postWrite { id := 0, g := frontParty, w := reportWave, core := frontCore, tag := 0, bytes := b }) s
      .next ({ s with device := { d with attStatus := 1 } }.post (.attCmd 1#32))

/-! ## Device reset (R331) -/

/-- Whether a turn of the agenda comes from outside the device: it outlives a reset. -/
def Turn.outside : Turn → Bool
  | .event (.registerWrite _ _ _) | .event (.launchRegister _ _) | .event (.hostBar2Read _ _) | .event (.hostBar2Write _ _ _)
  | .event (.cxlMemAccess _ _ _ _) | .event (.contextCreation _ _) | .event (.pldmRequest _ _) | .event (.nvmeCompletion _ _)
  | .event (.linkRetrain _) | .event (.flitReplay _) | .event (.linkUp _) | .event (.peerDown _) | .event (.eccCorrected _ _ _ _)
  | .event (.eccUncorrected _ _ _ _) | .event (.patrolScrub _) | .event (.thermalLimit _) | .event (.temperatureDrop _)
  | .event (.latchPoint _ _) | .event (.lowSlack _) | .event (.powerGating _) | .event .deviceReset | .idle _ | .pick => true
  | _ => false

/-- DEVICE_RESET (R1, R331, R449): every register returns to its reset value, memory holds what it holds by chance, what flash keeps stays,
and the base die boots. -/
def execDeviceReset (s : State) : Host.Outcome State Fault Refusal :=
  let h := s.health
  .next { State.reset with
    agenda := State.reset.agenda ++ s.agenda.filter Turn.outside
    timers := s.timers.filter fun x => x.2.outside
    free := s.free + 1
    serial := s.serial
    mem := s.mem.foldl (fun (t : Tab Byte) x => if x.1 < 2 ^ 52 then t.put 0#8 x.1 (Config.freeByte s.free x.1) else t) []
    health := { retiredFrames := h.retiredFrames, hours := s.poweredHours, sparesUsed := h.sparesUsed, degraded := h.degraded }
    power := s.power.mapVals fun _ (p : Power) => { offset := p.nextOffset.getD p.offset, planned := p.planned }
    trust := { images := s.trust.images, staged := s.trust.staged }
    management := s.management }

end Sys2Proof.Machine
end

