-- ==== Sys2Proof/Machine/Compare.lean ====
section
/-!
DEFINITION. Sys2Proof/Machine/Compare.lean: compares and predicates, opcode row 0x3 (R159, R160).
-/

namespace Sys2Proof.Machine

open Sys2Proof

/-- An integer compare: a bit per lane of S (R159). -/
def compareOp (i : Instr) (cmp : IntCompare) (d : PredField) (a b : Reg) (s : State) : Host.Outcome State Fault Refusal :=
  issue i anyType s fun c => .done (c.putQ d c.S fun l => cmp.holds (c.val a l) (c.val b l))

/-- The typed compares (R160). -/
inductive TypedCompare where
  | eq | ne | lt | le | un
deriving DecidableEq, Repr

/-- A typed compare of two operands of a type. -/
def TypedCompare.holds (cmp : TypedCompare) (code : Nat) (ftz : Bool) (a b : Nat) : Bool :=
  match elemOf code with
  | .float f =>
    let x := f.value ftz (a % 2 ^ f.bits)
    let y := f.value ftz (b % 2 ^ f.bits)
    let un := x == .nan || y == .nan
    match cmp with
    | .eq => x.same y
    | .ne => !x.same y
    | .lt => x.less y
    | .le => x.less y || x.same y
    | .un => un
  | .int signed w =>
    let x := intValue signed w a
    let y := intValue signed w b
    match cmp with
    | .eq => x == y
    | .ne => x != y
    | .lt => x < y
    | .le => x ≤ y
    | .un => false

/-- The types for which the typed compares are defined: every one that is not packed (R160). -/
def scalarType (m : ModeImage) : Bool := elementCount (modeType m) == 1

/-- A typed compare in the mode's type and `ftz` (R160). -/
def typedCompare (i : Instr) (cmp : TypedCompare) (d : PredField) (a b : Reg) (s : State) : Host.Outcome State Fault Refusal :=
  issue i scalarType s fun c =>
    .done (c.putQ d c.S fun l =>
      cmp.holds (modeType c.mode) (modeFtz c.mode) (c.valT (modeType c.mode) a l) (c.valT (modeType c.mode) b l))

/-- A predicate operation: a bit per lane of S from two predicates (R159). -/
def predOp (i : Instr) (d a b : PredField) (f : Bool → Bool → Bool) (s : State) : Host.Outcome State Fault Refusal :=
  issue i anyType s fun c =>
    .done (c.putQ d c.S fun l => f ((c.readQ a.toNat).getLsbD l) ((c.readQ b.toNat).getLsbD l))

/-- ICMPEQ (0x30): a = b (R159). -/
def execIcmpeq (d : PredField) (a b : Reg) (s : State) : Host.Outcome State Fault Refusal :=
  compareOp (.icmpeq d a b) .eq d a b s

/-- ICMPNE (0x31): a ≠ b (R159). -/
def execIcmpne (d : PredField) (a b : Reg) (s : State) : Host.Outcome State Fault Refusal :=
  compareOp (.icmpne d a b) .ne d a b s

/-- ICMPLT (0x32): signed a < b (R159). -/
def execIcmplt (d : PredField) (a b : Reg) (s : State) : Host.Outcome State Fault Refusal :=
  compareOp (.icmplt d a b) .slt d a b s

/-- ICMPLE (0x33): signed a ≤ b (R159). -/
def execIcmple (d : PredField) (a b : Reg) (s : State) : Host.Outcome State Fault Refusal :=
  compareOp (.icmple d a b) .sle d a b s

/-- NCMPLT (0x34): unsigned a < b (R159). -/
def execNcmplt (d : PredField) (a b : Reg) (s : State) : Host.Outcome State Fault Refusal :=
  compareOp (.ncmplt d a b) .ult d a b s

/-- NCMPLE (0x35): unsigned a ≤ b (R159). -/
def execNcmple (d : PredField) (a b : Reg) (s : State) : Host.Outcome State Fault Refusal :=
  compareOp (.ncmple d a b) .ule d a b s

/-- CMPEQ (0x36, R160). -/
def execCmpeq (d : PredField) (a b : Reg) (s : State) : Host.Outcome State Fault Refusal :=
  typedCompare (.cmpeq d a b) .eq d a b s

/-- CMPNE (0x37, R160). -/
def execCmpne (d : PredField) (a b : Reg) (s : State) : Host.Outcome State Fault Refusal :=
  typedCompare (.cmpne d a b) .ne d a b s

/-- CMPLT (0x38, R160). -/
def execCmplt (d : PredField) (a b : Reg) (s : State) : Host.Outcome State Fault Refusal :=
  typedCompare (.cmplt d a b) .lt d a b s

/-- CMPLE (0x39, R160). -/
def execCmple (d : PredField) (a b : Reg) (s : State) : Host.Outcome State Fault Refusal :=
  typedCompare (.cmple d a b) .le d a b s

/-- CMPUN (0x3A, R160). -/
def execCmpun (d : PredField) (a b : Reg) (s : State) : Host.Outcome State Fault Refusal :=
  typedCompare (.cmpun d a b) .un d a b s

/-- QAND (0x3B, R159). -/
def execQand (d a b : PredField) (s : State) : Host.Outcome State Fault Refusal :=
  predOp (.qand d a b) d a b (fun x y => x && y) s

/-- QOR (0x3C, R159). -/
def execQor (d a b : PredField) (s : State) : Host.Outcome State Fault Refusal :=
  predOp (.qor d a b) d a b (fun x y => x || y) s

/-- QXOR (0x3D, R159). -/
def execQxor (d a b : PredField) (s : State) : Host.Outcome State Fault Refusal :=
  predOp (.qxor d a b) d a b (fun x y => x != y) s

/-- QTOV (0x3E): a predicate as 0 or 1 (R159). -/
def execQtov (d : Reg) (a : PredField) (s : State) : Host.Outcome State Fault Refusal :=
  issue (.qtov d a) anyType s fun c => .done (c.put d c.S fun l => if (c.readQ a.toNat).getLsbD l then 1#32 else 0#32)

/-- VTOQ (0x3F): a ≠ 0 (R159). -/
def execVtoq (d : PredField) (a : Reg) (s : State) : Host.Outcome State Fault Refusal :=
  issue (.vtoq d a) anyType s fun c => .done (c.putQ d c.S fun l => c.val a l != 0#32)

end Sys2Proof.Machine
end

