-- ==== Sys2Proof/Machine/Control.lean ====
section
/-!
DEFINITION. Sys2Proof/Machine/Control.lean: opcode row 0x0: mode and literals, branches and calls, reconvergence and ending, sleeping,
markers and idempotent regions, software traps (R141 to R152).
-/

namespace Sys2Proof.Machine

open Sys2Proof

/-- Whether the instruction is issued by member lanes of an open transaction. -/
def Ctx.inTx (c : Ctx) : Bool := c.memberLanes != 0#32

/-! ## Branches (R31, R140, R142) -/

/-- A branch to a code offset with some lanes taken. BAD_TARGET comes before any lane moves; no split happens when all lanes or
none are taken; else the taken lanes go to the other slot, into a matching entry, or onto the stack. -/
def Ctx.branch (i : Instr) (c : Ctx) (target : Int) (taken : LaneMask) : Res :=
  let addr := wrapBits 64 (c.code.base + target)
  if target < 0 || !c.s.targetLegal c.codeAsid c.code target.toNat then .trap c ⟨causeBadTarget, 0, addr, c.act⟩
  else
    let pc := BitVec.ofNat 32 target.toNat
    if taken = 0#32 then .done c
    else if taken = c.act then .jump { c with p := { c.p with pc := pc } }
    else
      let stay := { c with p := { c.p with mask := c.act &&& ~~~taken } }
      let e : Entry := ⟨pc, taken, c.mode⟩
      match c.w.slot (!c.slotB) with
      | none =>
        -- writes of the other slot to k registers and predicates are interlocked (R137)
        let flight := (flightAfter i c).filter fun e => match e.reg with | .v _ => true | _ => false
        let p : Path := { pc := pc, mask := taken, mode := c.mode, inflight := flight, readyAt := c.s.clk + 1 }
        .done { stay with w := c.w.setSlot (!c.slotB) (some p) }
      | some _ =>
        match c.w.stow e with
        | some w => .done { stay with w := w }
        | none => .trap c ⟨causeStackOverflow, 0, addr, c.act⟩

/-- The target of a J-format branch: its own address plus 4 × displacement (R127). -/
def Ctx.jumpTarget (c : Ctx) (disp : BitVec 24) : Int := (c.p.pc.toNat : Int) + 4 * disp.toInt

/-- NOP (0x00, R141). -/
def execNop (s : State) : Host.Outcome State Fault Refusal := issue .nop anyType s fun c => .done c

/-- MODE (0x01): the image takes effect at the next instruction of the slot (R133, R141). -/
def execMode (image : BitVec 24) (s : State) : Host.Outcome State Fault Refusal :=
  issue (.mode image) anyType s fun c => .done { c with p := { c.p with mode := image } }

/-- LDLIT (0x02): the word of the following slot (R141). -/
def execLdlit (d : Reg) (s : State) : Host.Outcome State Fault Refusal :=
  issue (.ldlit d) anyType s fun c => .done (c.put d c.S fun _ => c.cur.literal)

/-- BRA (0x03, R31, R142). -/
def execBra (disp : BitVec 24) (s : State) : Host.Outcome State Fault Refusal :=
  issue (.bra disp) anyType s fun c => c.branch (.bra disp) (c.jumpTarget disp) c.S

/-- BRX (0x04): to the code offset in a k register (R142). -/
def execBrx (a : Reg) (s : State) : Host.Outcome State Fault Refusal :=
  issue (.brx a) anyType s fun c => c.branch (.brx a) (c.val a 0).toNat c.S

/-- CALL (0x05): k31 receives the return point when at least one lane is taken (R143). -/
def execCall (disp : BitVec 24) (s : State) : Host.Outcome State Fault Refusal :=
  issue (.call disp) anyType s fun c =>
    let link (c : Ctx) : Ctx := c.putOnce (.k 31) c.cur.next
    match c.branch (.call disp) (c.jumpTarget disp) c.S with
    | .done c' => .done (if c.S = 0#32 then c' else link c')
    | .jump c' => .jump (link c')
    | r => r

/-- RET (0x06): to the code offset in k31 (R142, R144). -/
def execRet (s : State) : Host.Outcome State Fault Refusal :=
  issue .ret anyType s fun c => c.branch .ret (c.readK 31).toNat c.S

/-! ## Reconvergence (R33, R34, R145) -/

/-- The lanes that other paths and entries hold. -/
def Wave.otherLanes (w : Wave) (slotB : Bool) (es : List Entry) : LaneMask :=
  es.foldl (fun m e => m ||| e.mask) (match w.slot (!slotB) with | some p => p.mask | none => 0#32)

/-- Step 1: the lanes of every entry at the JOIN's own PC are merged into the slot. -/
def Ctx.mergeEntries (c : Ctx) : Nat → Ctx
  | 0 => c
  | n + 1 =>
    match c.w.takeLowest fun e => e.pc != c.p.pc with
    | none => c
    | some (e, w) =>
      let lanes := e.mask &&& w.live &&& ~~~(w.otherLanes c.slotB w.entries)
      { c with w := w.refill 8, p := { c.p with mask := c.p.mask ||| lanes, inflight := [] } }.mergeEntries n

/-- Step 2: both slots stand at the JOIN: they merge into slot A with slot A's mode, and slot B takes an entry. -/
def Ctx.mergeSlots (c : Ctx) : Ctx :=
  match c.w.slot (!c.slotB) with
  | none => c
  | some o =>
    if o.pc != c.p.pc || o.raises.isSome then c
    else
      let a := if c.slotB then o else c.p
      let p := { a with mask := o.mask ||| c.p.mask, inflight := [] }
      let w := { c.w with slotA := some p, slotB := none }
      { c with slotB := false, p := p, w := w }.fillSlot true

/-- Whether the other slot or an entry holds lanes at a lower PC that do not wait at an outermost TCOMMIT (R33, R209). -/
def Ctx.lowerLanes (c : Ctx) : Bool :=
  let low (e : Entry) : Bool := e.pc.toNat < c.p.pc.toNat && !c.atCommit e
  (match c.w.slot (!c.slotB) with | some o => low ⟨o.pc, o.mask, o.mode⟩ | none => false) || c.w.entries.any low

/-- A slot that begins to wait at a JOIN while the stack is not empty is swapped out (R34). -/
def Ctx.swapOut (c : Ctx) : Res :=
  if c.p.wait = .join then .wait c .join
  else
    match (c.w.setSlot c.slotB (some c.p)).pop 65 c.atCommit with
    | (none, w) => .wait { c with w := w } .join
    | (some e, w) =>
      let w := (w.push ⟨c.p.pc, c.p.mask, c.p.mode⟩)
      .placed { c with w := w.setSlot c.slotB (some (c.pathOf e)) }

/-- JOIN (0x07). -/
def execJoin (s : State) : Host.Outcome State Fault Refusal :=
  issue .join anyType s fun c =>
    let c' := (c.mergeEntries 64).mergeSlots
    if c'.lowerLanes then c'.swapOut
    else if c' = c then .done c
    else .pass c'

/-- EXIT (0x08): the lanes of S end (R35, R145, R146). -/
def execExit (s : State) : Host.Outcome State Fault Refusal :=
  issue .exit anyType s fun c => if c.S = 0#32 then .done c else .leave c c.S 0#32 0 fun _ => 0

/-! ## Yielding and sleeping (R147, R148) -/

/-- YIELD (0x09): time only. -/
def execYield (s : State) : Host.Outcome State Fault Refusal := issue .yield anyType s fun c => .done c

/-- The least promise of the wave's copy operations that were issued before the sleep, have promised completion by time t, and are
not complete (R148). -/
def Ctx.missed (c : Ctx) (t mark : Nat) : Option Nat :=
  (c.s.copies.filter fun o => o.g == c.gk && o.w == c.wi && o.id ≤ mark && o.promise % 2 ^ 64 ≤ t).foldl
    (fun m o => some (match m with | some x => min x (o.promise % 2 ^ 64) | none => o.promise % 2 ^ 64)) none

/-- SLEEPUNTIL (0x0A): the chip cycle counter is 64 bits wide (R2). -/
def execSleepuntil (a : Reg) (s : State) : Host.Outcome State Fault Refusal :=
  issue (.sleepuntil a) anyType s fun c =>
    if c.inTx then .unsupported c
    else
      let t := c.address1 a 0
      if c.s.clk % 2 ^ 64 < t then .wait c .sleep
      else
        match c.missed t (if c.p.wait = .sleep then c.p.waitMark else c.s.serial) with
        | some promise => .trap c ⟨causeDeadlineMiss, 0, promise, c.act⟩
        | none => .done c.acquire

/-! ## Markers and idempotent regions (R149, R150) -/

/-- MARK (0x0B): a marker record while the context's trace has markers on (R149, R378). -/
def execMark (id : BitVec 24) (s : State) : Host.Outcome State Fault Refusal :=
  issue (.mark id) anyType s fun c =>
    if (c.s.context c.g.ctx).traceCfg.getLsbD 8 then
      .done { c with s := c.s.traceRecord c.g.ctx (markerBytes c.g.linear id.toNat) }
    else .done c

/-- IDEM (0x0C): a region begins (R150). -/
def execIdem (id : BitVec 24) (s : State) : Host.Outcome State Fault Refusal :=
  issue (.idem id) anyType s fun c => .done { c with w := { c.w with idemIn := true, idemId := id, idemPc := c.p.pc } }

/-- IDEMEND (0x0D): the region ends (R150). -/
def execIdemend (s : State) : Host.Outcome State Fault Refusal :=
  issue .idemend anyType s fun c => .done { c with w := { c.w with idemIn := false } }

/-! ## Software traps (R152) -/

/-- TRAP (0x0E): takes SW_TRAP with its code when S is not empty. -/
def execTrap (b : Selector) (s : State) : Host.Outcome State Fault Refusal :=
  issue (.trap b) anyType s fun c => if c.S = 0#32 then .done c else .trap c ⟨causeSwTrap, b.toNat, 0, c.S⟩

/-- BKPT (0x0F): takes BKPT. -/
def execBkpt (s : State) : Host.Outcome State Fault Refusal :=
  issue .bkpt anyType s fun c => .trap c ⟨causeBkpt, 0, 0, c.act⟩

end Sys2Proof.Machine
end

