-- ==== Sys2Proof/Machine/Effects.lean ====
section
/-!
DEFINITION. Sys2Proof/Machine/Effects.lean: the deferred effects of a committed future (R116, R456).
-/

namespace Sys2Proof.Machine

open Sys2Proof

/-- The atomic that an opcode names. -/
def atomicOf (code : Nat) : AtomicOp :=
  match code with
  | 0x71 => .add
  | 0x72 => .min
  | 0x73 => .max
  | 0x74 => .and
  | 0x75 => .or
  | 0x76 => .xor
  | 0x77 => .xchg
  | 0x78 => .cas
  | _ => .inc

/-- A deferred store or signal: its write is posted as the front end's. -/
def State.effectStore (s : State) (who : Waiter) (ctx va : Nat) (bytes : List Byte) (irq : Bool) : Got State :=
  match s.frontAccess who ctx va 2 false true with
  | .waits s' => .waits s'
  | .fails c => .fails c va
  | .ok t pa =>
    .ok (s.postWrite { id := 0, g := frontParty, w := 0, core := frontCore, tag := 0, bytes := placed (s.physPlace pa) bytes, ordered := true,
                       page := t.page, irq := if irq then some ctx else none })

/-- A deferred atomic, once the line's home serves it. A register of the device takes none. -/
def State.effectAtomic (s : State) (who : Waiter) (ctx : Nat) (op : AtomicOp) (type : Nat) (ftz : Bool) (round va : Nat) (b d : DWord) :
    Got State :=
  match s.frontAccess who ctx va 3 true true with
  | .waits s' => .waits s'
  | .fails c => .fails c va
  | .ok t pa =>
    let place := s.physPlace pa
    let w := if type64 type then 8 else 4
    if isDevice place then .ok s
    else if s.writeServed (lineOf place) frontParty 0 then
      let old := bytesNat ((List.range w).map fun i => s.byteAt (place + i))
      let new := op.new type round ftz old (b.toNat % 2 ^ (8 * w)) (d.toNat % 2 ^ (8 * w))
      .ok (s.fresh.performWrite (s.serial + 1) frontParty 0 t.page (placed place (natBytes w new)))
    else .waits (s.requestExclusive (lineOf place))

/-- A deferred addition: all of its elements or, when one of them cannot be reached, none. -/
def State.effectAdds (s : State) (who : Waiter) (ctx format : Nat) (kind : AddKind) (mode : ModeImage) (values : List (Nat × Word)) : Got State :=
  let n := elementBits format / 8
  match s.frontProbe who ctx true true (values.flatMap fun v => blockParts 128 v.1 n) with
  | some (.waits s', _) => .waits s'
  | some (.fails c, va) => .fails c va
  | _ =>
    match s.addAll { id := s.serial + 1, g := frontParty, w := 0, ctx := ctx, tag := 0, who := who } format kind mode values with
    | .waits s' => .waits s'
    | .squashed s' => .ok s'
    | .ok s' _ _ _ => .ok s'.fresh

/-- Perform one effect of a tag's queue. -/
def State.performEffect (s : State) (ctx tag : Nat) (e : Effect) : Got State :=
  let who := Waiter.effect tag
  match e with
  | .store va bytes => s.effectStore who ctx va bytes false
  | .signal va value irq => s.effectStore who ctx va (natBytes 4 value.toNat) irq
  | .atomic op type ftz round va b d => s.effectAtomic who ctx (atomicOf op) type ftz round va b d
  | .adds _ format kind mode values => s.effectAdds who ctx format kind mode values
  | .flip va head => s.performFlip ctx va head
  | .glaunch node params => .ok (s.glaunch ctx node.toNat params (some ((s.tag tag).queue, 3)))

/-- DEFERRED_EFFECT (R116, R456): the effects of a committed future's queue in order, each once the one before it has been performed. -/
def execDeferredEffect (ctx tag : Nat) (s : State) : Host.Outcome State Fault Refusal :=
  let t := s.tag tag
  let again : Instr := .deferredEffect ctx tag
  if t.state ≠ .committed || t.committing || t.ctx ≠ ctx then .next s
  else
    match t.effects with
    | [] => .next s
    | e :: rest =>
      if !s.quiet frontParty 0 then .next (s.repost again)
      else
        let gone (s : State) : State :=
          let s := (s.forgive (.effect tag)).setTag tag { s.tag tag with effects := rest }
          if rest = [] then s else s.post again
        match s.performEffect ctx tag e with
        | .waits s' => .next (s'.repost again)
        | .ok s' => .next (gone s')
        | .fails cause va => .next (gone (s.logError t.queue tag 0 20 cause va))

end Sys2Proof.Machine
end

