-- ==== Sys2Proof/Machine/Fences.lean ====
section
/-!
DEFINITION. Sys2Proof/Machine/Fences.lean: FENCE (R187 to R189), the caps (R194 to R198) and the line operations (R199) of row
0x7.
-/

namespace Sys2Proof.Machine

open Sys2Proof

/-! ## FENCE -/

/-- Whether the wave's engine operations of the classes in a mask have all completed (R188): bit 0 copy to bit 3 tex. -/
def Wave.classesDone (w : Wave) (mask : Nat) : Bool := (List.range 4).all fun i => !bitOf mask i || Tab.get 0 w.counts i = 0

/-- FENCE (0x70). Under rel and full the path waits until the wave's accesses and the masked engine operations are performed; a fab
or sys fence reports a peer that was lost (R189). Under acq and full later loads return nothing older (R274). In a transaction the fence
has no effect (R200). -/
def execFence (d a b : Selector) (s : State) : Host.Outcome State Fault Refusal :=
  issue (.fence d a b) anyType s fun c =>
    if c.txLanes ≠ 0#32 then (if a = 6#8 || b ≠ 0#8 then .unsupported c else .done c)
    else if d = 1#8 then .done c.acquire
    else if !c.settled || !c.w.classesDone b.toNat then .wait c .fence
    else
      let c := if d = 3#8 then c.acquire else c
      match c.w.lostPeers with
      | peer :: rest =>
        if 5 ≤ a.toNat then .after { c with w := { c.w with lostPeers := rest } } ⟨causeFencePeerLost, peer, 0, c.act⟩ else .done c
      | [] => .done c

/-! ## Caps -/

/-- The two cap records. -/
def Wave.capRecord (w : Wave) (i : Nat) : CapRecord := if i = 0 then w.cap0 else w.cap1
def Wave.setCap (w : Wave) (i : Nat) (r : CapRecord) : Wave := if i = 0 then { w with cap0 := r } else { w with cap1 := r }

/-- The virtual line that a record names. -/
def CapRecord.va? : CapRecord → Option Nat
  | .empty => none
  | .asked va _ => some va
  | .held va _ => some va
  | .expired va => some va
/-- Whether a record is held, or will be. -/
def CapRecord.counts : CapRecord → Bool
  | .asked _ _ | .held _ _ => true
  | _ => false

/-- The record that names a line. -/
def Wave.capOf (w : Wave) (va : Nat) : Option Nat :=
  if w.cap0.va? = some va then some 0 else if w.cap1.va? = some va then some 1 else none

/-- How many caps the waves of a core hold or have asked for (R195; DESIGN CHOICE, log entry 116). -/
def State.coreCaps (s : State) (core : Nat) : Nat :=
  s.groups.foldl (fun n (x : Nat × Group) =>
    if coreOfGroup x.1 = core then x.2.waves.foldl (fun n w => n + w.cap0.counts.toNat + w.cap1.counts.toNat) n else n) 0

/-- The request of a cap: it joins the line's queue (R420); the line is asked for as a write asks. -/
def Ctx.askCap (c : Ctx) (i va line duration : Nat) : Res :=
  let s := c.s.setLine line { c.s.line line with waiting := (c.s.line line).waiting ++ [.cap c.gk c.wi duration] }
  let s := (s.requestExclusive line).postOnce (.capHeld line)
  .wait { c with s := s, w := c.w.setCap i (.asked va line) } .memory

/-- The record that a new cap takes, or CAP_ORDER (R195). -/
def Wave.capSlot (w : Wave) (va : Nat) : Option Nat :=
  let higher (r : CapRecord) : Bool := r.counts && (match r.va? with | some x => va < x | none => false)
  match w.capOf va with
  | some i => some i
  | none =>
    if w.cap0 ≠ .empty && w.cap1 ≠ .empty then none
    else if higher w.cap0 || higher w.cap1 then none
    else if w.cap0 = .empty then some 0
    else some 1

/-- CAP (0x7A), an acquire. A path that comes back from its wait finds its record held, or expired in the meantime: status 0. A CAP of the
other slot for a line that the wave has asked for finds the record held once it is. A trap's frame holds the active lanes (DESIGN CHOICE,
log entry 116). -/
def execCap (d a : Reg) (b : Selector) (s : State) : Host.Outcome State Fault Refusal :=
  issue (.cap d a b) anyType s fun c =>
    let ea := c.address1 a 0
    let va := ea / 128
    let record := (c.w.capOf va).map fun i => (i, c.w.capRecord i)
    if c.txLanes ≠ 0#32 then .unsupported c
    else
      match record, c.p.wait with
      | some (_, .asked _ _), .memory => .wait c .memory
      | some (_, .held _ _), .memory => .done (c.acquire.putOnce d 0#32)
      | some (_, .expired _), .memory => .done (c.acquire.putOnce d 0#32)
      | some (_, .asked _ _), _ => .wait c .cap
      | some (_, .held _ _), _ => .done (c.acquire.putOnce d 1#32)
      | _, _ =>
        match c.w.capSlot va with
        | none => .trap c ⟨causeCapOrder, 0, va * 128, c.act⟩
        | some i =>
          match c.plan .cap 1 (laneBit (lowestLane c.act)) fun _ => ea with
          | .stop (.trap c t) => .trap c { t with lanes := c.act }
          | .stop r => r
          | .go c accs =>
            if 8 ≤ c.s.coreCaps c.core then .wait c .cap
            else
              match accs with
              | [⟨_, _, .memory t pa, _⟩] => c.askCap i va (lineOf (c.placeFor t pa)) (32 * 2 ^ b.toNat)
              | _ => .trap c ⟨causeProtection, 6, ea, c.act⟩

/-- UNCAP (0x7B). A held cap ends only when the wave's earlier accesses are performed (R197). -/
def execUncap (d a : Reg) (s : State) : Host.Outcome State Fault Refusal :=
  issue (.uncap d a) anyType s fun c =>
    let va := c.address1 a 0 / 128
    if c.txLanes ≠ 0#32 then .unsupported c
    else
      match c.w.capOf va with
      | none => .done (c.putOnce d 2#32)
      | some i =>
        match c.w.capRecord i with
        | .held _ line =>
          if !c.settled then .wait c .fence
          else
            let s := c.s.setLine line { c.s.line line with cap := none }
            .done ({ c with s := if s.queueOf line = [] then s else s.postOnce (.capHeld line), w := c.w.setCap i .empty }.putOnce d 0#32)
        | .asked _ _ => .wait c .cap
        | _ => .done ({ c with w := c.w.setCap i .empty }.putOnce d 1#32)

/-! ## Line operations -/

/-- The lines that the lanes of S name: those of readable, resident pages of memory (R199), each once, with the page's class. -/
def Ctx.namedLines (c : Ctx) (a : Reg) : List (Nat × PageClass) :=
  (lanesOf c.S).foldl (fun ls l =>
    let ea := c.address1 a l
    match regionOf ea with
    | .memory =>
      match c.s.translate c.g.ctx ea with
      | .ok t =>
        if !t.read then ls
        else
          match c.s.reach (t.pa ea), c.s.bar0Offset (t.pa ea) with
          | .window _, _ => ls
          | _, some _ => ls
          | _, none => insertNew (c.s.viewLine (c.placeFor t (t.pa ea)), t.page) ls
      | .fault _ _ _ => ls
    | _ => ls) []

/-- Write a line back to its home: a posted write without bytes of its own (R199). -/
def Ctx.writeBack (c : Ctx) (line : Nat) (drop : Bool) : Ctx :=
  let s := c.s.fresh
  let p : PostedWrite :=
    { id := s.serial, g := c.gk, w := c.wi, core := c.core, tag := c.tag, bytes := [], page := .back, back := some (line, drop) }
  { c with s := { s with posted := s.posted ++ [p] }.post (.homeWrite s.serial) }

/-- Drop a line from the core; its die's copy goes once it is written back (R199). -/
def Ctx.dropLine (c : Ctx) (line : Nat) : Ctx :=
  let l := c.s.line line
  let s := c.s.setLine line (if l.owner = some c.core then { l with owner := none } else l)
  { c with s := { s with leases := s.leases.erase (leaseKey line c.core) } }

/-- Whether a posted write of the wave to one of the lines is not performed. -/
def Ctx.linesBusy (c : Ctx) (ls : List (Nat × PageClass)) : Bool :=
  c.s.posted.any fun p => p.g == c.gk && p.w == c.wi && p.id ≤ c.issueMark && p.bytes.any fun b => ls.any fun n => n.1 == lineOf b.1

/-- PREF (0x7C): the line comes into L1 under a lease, where the home grants one now (R199). -/
def execPref (a : Reg) (s : State) : Host.Outcome State Fault Refusal :=
  issue (.pref a) anyType s fun c =>
    let s := (c.namedLines a).foldl (fun (s : State) n =>
      if !s.leased n.1 c.core && s.readServed n.1 c.core c.gk c.wi n.2 (s.queueOf n.1 = []) then s.takeLease n.1 c.core c.gk c.wi n.2
      else s) c.s
    .done { c with s := s }

/-- WBL (0x7D). -/
def execWbl (a : Reg) (s : State) : Host.Outcome State Fault Refusal :=
  issue (.wbl a) anyType s fun c =>
    let ls := c.namedLines a
    if c.linesBusy ls then .wait c .memory else .done (ls.foldl (fun (c : Ctx) n => c.writeBack n.1 false) c)

/-- DROPL (0x7E). -/
def execDropl (a : Reg) (s : State) : Host.Outcome State Fault Refusal :=
  issue (.dropl a) anyType s fun c =>
    let ls := c.namedLines a
    if c.linesBusy ls then .wait c .memory else .done (ls.foldl (fun (c : Ctx) n => (c.writeBack n.1 true).dropLine n.1) c)

end Sys2Proof.Machine
end

