-- ==== Sys2Proof/Machine/LaneOps.lean ====
section
/-!
DEFINITION. Sys2Proof/Machine/LaneOps.lean: the lane operations, opcodes 0x28 to 0x2F (R156 to R158).
-/

namespace Sys2Proof.Machine

open Sys2Proof

/-- lanereg(A, i): register A in lane i, whatever that lane's state (R157). -/
def Ctx.laneReg (c : Ctx) (a : Reg) (i : Nat) : Word := c.val a i

/-- The lanes of S in which a register is not 0. -/
def Ctx.nonzero (c : Ctx) (a : Reg) : LaneMask := laneSet fun l => c.S.getLsbD l && c.val a l != 0#32

/-- SEL (0x28): every active lane is written; the guard selects (R30, R157). -/
def execSel (d a b : Reg) (s : State) : Host.Outcome State Fault Refusal :=
  issue (.sel d a b) anyType s fun c => .done (c.put d c.act fun l => if c.guard.getLsbD l then c.val a l else c.val b l)

/-- MOV (0x29, R157). -/
def execMov (d a : Reg) (s : State) : Host.Outcome State Fault Refusal :=
  intOp (.mov d a) d a (.c 0) (fun a _ _ => a) s

/-- MOVU (0x2A): one lane's value to a k register (R157). -/
def execMovu (d a b : Reg) (s : State) : Host.Outcome State Fault Refusal :=
  issue (.movu d a b) anyType s fun c => .done (c.put d c.S fun _ => c.laneReg a ((c.val b 0).toNat % 32))

/-- SHUF (0x2B): each lane reads the lane that B names (R157). -/
def execShuf (d a b : Reg) (s : State) : Host.Outcome State Fault Refusal :=
  issue (.shuf d a b) anyType s fun c => .done (c.put d c.S fun l => c.laneReg a ((c.val b l).toNat % 32))

/-- SHUFX (0x2C): each lane reads the lane whose index is its own xor B (R157). -/
def execShufx (d a b : Reg) (s : State) : Host.Outcome State Fault Refusal :=
  issue (.shufx d a b) anyType s fun c => .done (c.put d c.S fun l => c.laneReg a (l ^^^ ((c.val b 0).toNat % 32)))

/-- BALLOT (0x2D): the lanes of S whose A is not 0, to a k register (R157). -/
def execBallot (d a : Reg) (s : State) : Host.Outcome State Fault Refusal :=
  issue (.ballot d a) anyType s fun c => .done (c.put d c.S fun _ => c.nonzero a)

/-- VANY (0x2E): whether some lane of S has a non-zero A, to the lanes of S (R157). -/
def execVany (d : PredField) (a : Reg) (s : State) : Host.Outcome State Fault Refusal :=
  issue (.vany d a) anyType s fun c => .done (c.putQ d c.S fun _ => c.nonzero a != 0#32)

/-- VALL (0x2F): whether every lane of S has a non-zero A, to the lanes of S (R157). -/
def execVall (d : PredField) (a : Reg) (s : State) : Host.Outcome State Fault Refusal :=
  issue (.vall d a) anyType s fun c => .done (c.putQ d c.S fun _ => c.nonzero a == c.S)

end Sys2Proof.Machine
end

