-- ==== Sys2Proof/Machine/Packets.lean ====
section
/-!
DEFINITION. Sys2Proof/Machine/Packets.lean: rings and their packets (R330 to R338, R344, R345), launch accounts (R444, R445).
-/

namespace Sys2Proof.Machine

open Sys2Proof

/-! ## Registers of a queue that act (R330, R333, R338) -/

/-- The front end looks at the next slot of a queue. -/
def State.pump (s : State) (q : Nat) : State :=
  let x := s.queue q
  if x.enable && x.tail ≠ x.head then s.postOnce (.trailerRead q) else s

/-- TAIL (R333): the doorbell. -/
def execTailWrite (queue : Nat) (value : BitVec 32) (s : State) : Host.Outcome State Fault Refusal :=
  let x := s.queue queue
  if !x.enable then .next (s.logError queue value.toNat 0 12 1 0)
  else if 2 ^ x.logSlots < (value - x.head).toNat then .next (s.logError queue value.toNat 0 12 0 0)
  else .next ((s.setQueue queue { x with tail := value, tails := x.tails ++ [(value, s.clk)] }).wakeFront.pump queue)

/-- The WAITs of a disabled queue are abandoned (R330). -/
def Queue.abandonWaits (x : Queue) : Queue :=
  { x with fetched := none, pending := x.pending.filter fun p => match p.2 with | .wait _ _ _ => false | _ => true }

/-- QUEUE_ENABLE (R330, R352). -/
def execQueueEnable (queue : Nat) (s : State) : Host.Outcome State Fault Refusal :=
  let x := (s.queue queue).abandonWaits
  .next (s.setQueue queue { x with enable := true, head := 0#32, tail := 0#32, errlogCount := 0#32, deficit := 0, tails := [] })

/-- QUEUE_DISABLE (R330): dispatch stops at once. -/
def execQueueDisable (queue : Nat) (s : State) : Host.Outcome State Fault Refusal :=
  .next (s.setQueue queue { (s.queue queue).abandonWaits with enable := false })

/-- The lap byte of slot count i (R332). -/
def lapByte (x : Queue) (i : Nat) : Nat := if i / 2 ^ x.logSlots % 2 = 0 then 0x5A else 0xA5
/-- The address of slot count i. -/
def slotAddr (x : Queue) (i : Nat) : Nat := (x.ringBase.toNat + 256 * (i % 2 ^ x.logSlots)) % 2 ^ 64

/-- LAUNCH_REGISTER (R338): an inline packet is copied into slot `tail`. -/
def execLaunchRegister (queue : Nat) (slot : BitVec 512) (s : State) : Host.Outcome State Fault Refusal :=
  let x := s.queue queue
  let b := slot.toNat
  let i := x.tail.toNat
  let type := bitsOf b 496 8
  let va := slotAddr x i
  let log (code sub addr : Nat) : State := s.logError queue i type code sub addr
  if s.hostWaits then .next (s.postHost (placed (bar0Place (4096 * queue + 0x40)) (natBytes 64 b)))
  else if type ≠ 2 || bitsOf b 480 8 ≠ 4 then .next (log 2 0 0)
  else if !x.enable then .next (log 12 1 0)
  else if 2 ^ x.logSlots ≤ (x.tail - x.head).toNat then .next (log 12 2 0)
  else
    match s.frontAccess (.packet queue) x.ctx va 2 false true with
    | .ok t pa =>
      let s := s.frontPost t pa (natBytes 60 b) false none
      let s := s.frontPost t (pa + 252) (natBytes 4 (bitsOf b 480 24 + 2 ^ 24 * lapByte x i)) true none
      let x := { x with tail := x.tail + 1#32, tails := x.tails ++ [(x.tail + 1#32, s.clk)] }
      .next ((s.setQueue queue x).wakeFront.pump queue)
    | _ => .next (log 13 0 va)

/-! ## Reading a slot (R332, R333) -/

/-- Fields of a slot's trailer. -/
def slotField (x : BitVec 2048) (byte n : Nat) : Nat := bitsOf x.toNat (8 * byte) (8 * n)
def slotType (x : BitVec 2048) : Nat := slotField x 254 1
def slotOrder (x : BitVec 2048) : Nat := bitsOf (slotField x 252 4) 12 4
def slotFence (x : BitVec 2048) : Nat := bitsOf (slotField x 252 4) 8 4
def slotLength (x : BitVec 2048) : Nat := slotField x 252 1

/-- The lengths of a packet type, and the payload bytes that it uses (R336); none for a type that is not listed. -/
def packetForm (type : Nat) : Option (List Nat × List (Nat × Nat)) :=
  match type with
  | 0x01 => some ([], [(0, 252)])
  | 0x02 => some ([16, 4], [(0, 128)])
  | 0x03 => some ([2], [(0, 1), (8, 16)])
  | 0x04 => some ([2], [(0, 11)])
  | 0x06 => some ([2], [(0, 13)])
  | 0x07 => some ([2], [(0, 13)])
  | 0x08 => some ([3], [(0, 21)])
  | 0x09 => some ([2], [(0, 16)])
  | 0x0A => some ([1], [(0, 8)])
  | 0x0B => some ([2], [(0, 4), (8, 16)])
  | 0x0C => some ([2], [(0, 9)])
  | _ => none

/-- The code with which a slot is rejected for its type, its length and reserved bytes, or its classes (R334 to R336). -/
def slotFault (x : BitVec 2048) : Option Nat :=
  match packetForm (slotType x) with
  | none => some 1
  | some (lengths, used) =>
    if lengths ≠ [] && !lengths.contains (slotLength x) then some 2
    else if (List.range (min 252 (8 * slotLength x))).any fun i =>
        !(used.any fun u => u.1 ≤ i && i < u.2) && slotField x i 1 != 0 then some 2
    else if 1 < slotOrder x || 9 < slotFence x then some 3
    else none

/-- The completion record that a packet names (R336, R339). -/
def slotCompletion (x : BitVec 2048) : Nat :=
  match slotType x, slotLength x with
  | 0x02, 16 => slotField x 64 8
  | 0x02, 4 => slotField x 16 8
  | 0x03, 2 => slotField x 8 8
  | _, _ => 0

/-- The step that dispatches a packet of a type and length. -/
def packetStep (q type length : Nat) : Instr :=
  match type with
  | 0x01 => .nopPacket q
  | 0x02 => if length = 4 then .launchShort q else .launchPacket q
  | 0x03 => .graphRun q
  | 0x04 => .graphLoad q
  | 0x06 => .signalPacket q
  | 0x07 => .waitPacket q
  | 0x08 => .copyPacket q
  | 0x09 => .accountOpen q
  | 0x0A => .accountClose q
  | 0x0B => .commitPacket q
  | _ => .tensorDef q

/-- The slot at `head` has been dispatched: `head` moves on, and the packet has a number. Doorbells whose slots have all been dispatched are
forgotten. -/
def State.takeSlot (s : State) (q : Nat) : State :=
  let s := s.fresh
  let x := s.queue q
  let head := x.head + 1#32
  let left (t : Word × Nat) : Bool := let d := (t.1 - head).toNat; d ≠ 0 && d < 2 ^ 31
  (s.setQueue q { x with head := head, fetched := none, tails := x.tails.filter left }).forgive (.packet q)

/-- A packet that is dispatched is under way. -/
def State.addPending (s : State) (q mark : Nat) (p : Pending) : State :=
  let x := s.queue q
  s.setQueue q { x with pending := x.pending ++ [(mark, p)] }

/-- A packet is rejected (R337): it counts as completed, its record gets signal 2, and the log an entry. -/
def State.rejectSlot (s : State) (q : Nat) (slot : BitVec 2048) (code sub addr : Nat) : State :=
  let x := s.queue q
  let at_ := slotCompletion slot
  let s := (s.takeSlot q).logError q x.head.toNat (slotType slot) code sub addr
  let s := if at_ = 0 || at_ % 64 ≠ 0 then s else s.endAtOnce { ctx := x.ctx, queue := q, completion := at_ } 2 code
  s.pump q

/-- TRAILER_READ (R333, R334): the slot at `head` is read once its trailer is of its lap and, for a serial packet, every earlier packet has
completed. -/
def execTrailerRead (queue : Nat) (s : State) : Host.Outcome State Fault Refusal :=
  let x := s.queue queue
  let i := x.head.toNat
  let va := slotAddr x i
  let again (s : State) : State := s.repost (.trailerRead queue)
  if !x.enable || x.tail = x.head || x.fetched.isSome then .next s
  else
    match s.frontRead (.packet queue) x.ctx (va + 252) 4 with
    | .waits s' => .next (again s')
    | .fails _ _ => .next (s.rejectSlot queue 0#2048 13 0 va)
    | .ok trailer =>
      if (trailer.getD 3 0#8).toNat ≠ lapByte x i then
        .next (s.after 256 (.event (.trailerRead queue)))
      else
        match s.frontRead (.packet queue) x.ctx va 256 with
        | .waits s' => .next (again s')
        | .fails _ _ => .next (s.rejectSlot queue 0#2048 13 0 va)
        | .ok bytes =>
          let slot := BitVec.ofNat 2048 (bytesNat bytes)
          if slotOrder slot = 0 && x.pending ≠ [] then .next (again s)
          else
            match slotFault slot with
            | some code => .next (s.rejectSlot queue slot code 0 0)
            | none => .next ((s.setQueue queue { x with fetched := some slot }).post (packetStep queue (slotType slot) (slotLength slot)))

/-- The fetched packet of a queue, when `step` is the step that dispatches it. -/
def State.fetchedFor (s : State) (q : Nat) (step : Instr) : Option (BitVec 2048) :=
  (s.queue q).fetched.filter fun slot => packetStep q (slotType slot) (slotLength slot) = step

/-- What the dispatch of a fetched packet does; without one there is nothing to do. -/
def State.dispatch (s : State) (q : Nat) (step : Instr) (body : BitVec 2048 → Queue → State) : State :=
  match s.fetchedFor q step with
  | none => s
  | some slot => body slot (s.queue q)

/-! ## Packets that act on memory -/

/-- NOP_PACKET: it completes at dispatch. -/
def execNopPacket (queue : Nat) (s : State) : Host.Outcome State Fault Refusal :=
  .next (s.dispatch queue (.nopPacket queue) fun _ _ => (s.takeSlot queue).pump queue)

/-- The party as which a queue's packets write, one for each queue: its writes stay in order (R335). -/
def queueWave (q : Nat) : Nat := 1 + q

/-- Post a packet's bytes. -/
def State.packetPost (s : State) (q ctx : Nat) (t : Translation) (pa : Nat) (bytes : List Byte) (ordered : Bool) (irq : Option Nat) : State :=
  (splitLines (s.physPlace pa) bytes).foldl (fun (s : State) b =>
    s.postWrite { id := 0, g := frontParty, w := queueWave q, core := frontCore, tag := 0, bytes := b, ordered := ordered, page := t.page,
                  irq := irq, front := some (ctx, 0, 0) }) s

/-- Whether everything a queue's packets have written is performed. -/
def State.queueQuiet (s : State) (q : Nat) : Bool := s.quiet frontParty (queueWave q)

/-- The packets of a queue whose last write has been performed complete (R335); while there are others, the step comes again. -/
def State.finishWrites (s : State) (q : Nat) (again : Instr) : State :=
  let x := s.queue q
  let mine (p : Nat × Pending) : Bool := match p.2 with | .writes | .account _ => true | _ => false
  let done (p : Nat × Pending) : Bool :=
    match p.2 with
    | .writes => s.queueQuiet q
    | .account ctx => !s.recordOpen ctx 3 p.1
    | _ => false
  if !x.pending.any mine then s
  else
    let s := if x.pending.any done then (s.setQueue q { x with pending := x.pending.filter fun p => !done p }).pump q else s
    if x.pending.any fun p => mine p && !done p then s.repost again else s

/-- SIGNAL_PACKET (R232, R336): a release of the word; then the context's host interrupt. -/
def execSignalPacket (queue : Nat) (s : State) : Host.Outcome State Fault Refusal :=
  let me : Instr := .signalPacket queue
  if (s.fetchedFor queue me).isNone then .next (s.finishWrites queue me)
  else
    .next (s.dispatch queue me fun slot x =>
      let va := slotField slot 0 8
      if va % 4 ≠ 0 then s.rejectSlot queue slot 2 0 0
      else if 1 < slotField slot 12 1 then s.rejectSlot queue slot 2 12 0
      else
        match s.frontAccess (.packet queue) x.ctx va 2 false true with
        | .waits s' => s'.repost me
        | .fails _ => s.rejectSlot queue slot 13 0 va
        | .ok t pa =>
          let s := s.takeSlot queue
          let mark := s.serial
          let s := s.packetPost queue x.ctx t pa (natBytes 4 (slotField slot 8 4)) true (if slotField slot 12 1 = 1 then some x.ctx else none)
          ((s.addPending queue mark .writes).post me).pump queue)

/-- Whether a WAIT's condition holds (R336). -/
def waitHolds (cond : Nat) (word value : Nat) : Bool :=
  match cond with
  | 0 => word == value
  | 1 => value ≤ word
  | _ => word != value

/-- WAIT (R336): it is dispatched and polls. -/
def execWaitPacket (queue : Nat) (s : State) : Host.Outcome State Fault Refusal :=
  .next (s.dispatch queue (.waitPacket queue) fun slot x =>
    let va := slotField slot 0 8
    if va % 4 ≠ 0 then s.rejectSlot queue slot 2 0 0
    else if 2 < slotField slot 12 1 then s.rejectSlot queue slot 2 12 0
    else
      match s.frontRead (.packet queue) x.ctx va 4 with
      | .waits s' => s'.repost (.waitPacket queue)
      | .fails _ _ => s.rejectSlot queue slot 13 0 va
      | .ok _ =>
        let s := s.takeSlot queue
        ((s.addPending queue s.serial (.wait va (BitVec.ofNat 32 (slotField slot 8 4)) (slotField slot 12 1))).postOnce (.waitPoll queue)).pump queue)

/-- Poll the WAITs of a queue. -/
def State.pollWaits (s : State) (q : Nat) : List (Nat × Pending) → State
  | [] => s
  | (mark, .wait va value cond) :: rest =>
    match s.frontRead (.packet q) (s.queue q).ctx va 4 with
    | .ok bs => (if waitHolds cond (bytesNat bs) value.toNat then s.packetDone q mark else s).pollWaits q rest
    | .waits s' => s'.pollWaits q rest
    | .fails _ _ => s.pollWaits q rest
  | _ :: rest => s.pollWaits q rest

/-- WAIT_POLL (R336): every 256 clk. -/
def execWaitPoll (queue : Nat) (s : State) : Host.Outcome State Fault Refusal :=
  let s := s.pollWaits queue (s.queue queue).pending
  let left := (s.queue queue).pending.any fun p => match p.2 with | .wait _ _ _ => true | _ => false
  .next (if left then s.after 256 (.event (.waitPoll queue)) else s.pump queue)

/-! ### COPY -/

/-- The next line of a copy, up to the end of the source's or the destination's. -/
def copyPart (src dst bytes done : Nat) : Nat := min (bytes - done) (min (128 - (src + done) % 128) (128 - (dst + done) % 128))

/-- A copy of a queue moves one part on: what cannot be read or written any more is dropped. -/
def State.advanceCopy (s : State) (q mark ctx src dst bytes done : Nat) (again : Instr) : State :=
  let n := copyPart src dst bytes done
  let a := (src + done) % 2 ^ 64
  let b := (dst + done) % 2 ^ 64
  let next (s : State) : State :=
    let x := s.queue q
    (s.setQueue q { x with pending := x.pending.map fun p => if p.1 = mark then (mark, .copy ctx src dst bytes (done + n)) else p }).proceed again
  match s.frontRead (.copy q) ctx a n with
  | .waits s' => s'.repost again
  | .fails _ _ => next (s.forgive (.copy q))
  | .ok bs =>
    match s.frontAccess (.copy q) ctx b 6 false true with
    | .waits s' => s'.repost again
    | .fails _ => next (s.forgive (.copy q))
    | .ok t pa => next (s.packetPost q ctx t pa bs false none)

/-- COPY (R336): dispatched once its pages can be reached; then the base die's engine copies line by line, and the packet completes when all
is written. -/
def execCopyPacket (queue : Nat) (s : State) : Host.Outcome State Fault Refusal :=
  let me : Instr := .copyPacket queue
  let x := s.queue queue
  match s.fetchedFor queue me with
  | some _ =>
    .next (s.dispatch queue me fun slot x =>
      let src := slotField slot 0 8
      let dst := slotField slot 8 8
      let n := slotField slot 16 4
      if 7 < slotField slot 20 1 then s.rejectSlot queue slot 2 20 0
      else
        match s.frontProbe (.packet queue) x.ctx true false (blockParts 4096 src n),
            s.frontProbe (.packet queue) x.ctx false true (blockParts 4096 dst n) with
        | some (.waits s', _), _ => s'.repost me
        | some (_, a), _ => s.rejectSlot queue slot 13 0 a
        | none, some (.waits s', _) => s'.repost me
        | none, some (_, a) => s.rejectSlot queue slot 13 0 a
        | none, none =>
          let s := s.takeSlot queue
          ((s.addPending queue s.serial (.copy x.ctx src dst n 0)).post me).pump queue)
  | none =>
    match x.pending.findSome? fun p => match p.2 with | .copy c a b n d => some (p.1, c, a, b, n, d) | _ => none with
    | none => .next s
    | some (mark, c, a, b, n, d) =>
      if d < n then .next (s.advanceCopy queue mark c a b n d me)
      else if s.queueQuiet queue then .next (((s.packetDone queue mark).proceed me).pump queue)
      else .next (s.repost me)

/-! ## Accounts (R444, R445) -/

/-- The clk at which the front end observed the doorbell that covers a slot count. -/
def Queue.observed (x : Queue) (i : Word) (now : Nat) : Nat :=
  match x.tails.find? fun t => let d := (t.1 - i).toNat; d ≠ 0 && d < 2 ^ 31 with
  | some t => t.2
  | none => now

/-- ACCOUNT_OPEN (R444): up to 16 at once; the clk since the doorbell are charged to the queue. -/
def execAccountOpen (queue : Nat) (s : State) : Host.Outcome State Fault Refusal :=
  .next (s.dispatch queue (.accountOpen queue) fun slot x =>
    let addr := slotField slot 0 8
    if addr % 64 ≠ 0 then s.rejectSlot queue slot 2 0 0
    else if 16 ≤ x.accounts.length then s.rejectSlot queue slot 19 0 0
    else
      let opened := x.observed x.head s.clk
      let s := s.takeSlot queue
      let y := s.queue queue
      let a : Account := { addr := addr, stamp := min (slotField slot 8 8) opened, opened := opened, mark := s.serial, queue := s.clk - opened }
      (s.setQueue queue { y with accounts := y.accounts ++ [a] }).pump queue)

/-- The 64 bytes of an account record. -/
def Account.bytes (a : Account) (clk : Nat) : List Byte :=
  natBytes 8 a.stamp ++ natBytes 8 clk ++ natBytes 8 (a.opened - a.stamp) ++ natBytes 8 a.queue ++ natBytes 8 a.front ++ natBytes 8 a.fault ++
    natBytes 8 a.io ++ natBytes 8 a.exec

/-- ACCOUNT_CLOSE (R335, R444, R445): the record is written; the packet completes once it has been performed. -/
def execAccountClose (queue : Nat) (s : State) : Host.Outcome State Fault Refusal :=
  let me : Instr := .accountClose queue
  if (s.fetchedFor queue me).isNone then .next (s.finishWrites queue me)
  else
  .next (s.dispatch queue me fun slot x =>
    let addr := slotField slot 0 8
    if addr % 64 ≠ 0 then s.rejectSlot queue slot 2 0 0
    else
      match x.accounts.find? fun a => a.addr == addr with
      | none => s.rejectSlot queue slot 19 0 0
      | some a =>
        let s := s.takeSlot queue
        let mark := s.serial
        let y := s.queue queue
        let s := s.setQueue queue { y with accounts := y.accounts.erase a }
        (((s.frontWrite y.ctx addr (a.bytes s.clk) 3 true mark).addPending queue mark (.account y.ctx)).post me).pump queue)

/-! ## Futures and tensors -/

/-- COMMIT_PACKET (R227, R336): FCOMMIT as a trunk wave of the context; then its status. -/
def execCommitPacket (queue : Nat) (s : State) : Host.Outcome State Fault Refusal :=
  let me : Instr := .commitPacket queue
  if (s.fetchedFor queue me).isNone then .next (s.finishWrites queue me)
  else
    .next (s.dispatch queue me fun slot x =>
      let va := slotField slot 8 8
      if va % 4 ≠ 0 then s.rejectSlot queue slot 2 8 0
      else
        match s.frontAccess (.packet queue) x.ctx va 2 false true with
        | .waits s' => s'.repost me
        | .fails _ => s.rejectSlot queue slot 13 0 va
        | .ok t pa =>
          let s := s.takeSlot queue
          let mark := s.serial
          let (s, status) := s.fcommit x.ctx (slotField slot 0 4) none
          ((((s.packetPost queue x.ctx t pa (natBytes 4 status) true none).addPending queue mark .writes)).post me).pump queue)

/-- TENSOR_DEF (R240, R336). -/
def execTensorDef (queue : Nat) (s : State) : Host.Outcome State Fault Refusal :=
  .next (s.dispatch queue (.tensorDef queue) fun slot x =>
    let va := slotField slot 0 8
    if va % 64 ≠ 0 then s.rejectSlot queue slot 2 0 0
    else
      match s.frontRead (.packet queue) x.ctx va 64 with
      | .waits s' => s'.repost (.tensorDef queue)
      | .fails _ a => s.rejectSlot queue slot 13 0 a
      | .ok bs =>
        let r : TRecord := BitVec.ofNat 512 (bytesNat bs)
        if r.check ≠ 0 then s.rejectSlot queue slot 11 r.check 0
        else ((s.takeSlot queue).setTensor x.ctx (slotField slot 8 1) (some r)).pump queue)

/-! ## Launches -/

/-- Dispatch a launch from its record (R339, R460). -/
def State.dispatchLaunch (s : State) (q : Nat) (slot : BitVec 2048) (x : Queue) (raw : Nat) (me : Instr) : State :=
  let r := parseRecord raw
  match s.checkLaunch (.packet q) x.ctx true r with
  | .waits s' => s'.repost me
  | .bad code sub addr => s.rejectSlot q slot code sub addr
  | .ok teams =>
    let s := s.takeSlot q
    let mark := s.serial
    let s := s.fresh
    let s := s.addPending q mark (.launch s.serial)
    (s.createLaunch { ctx := x.ctx, queue := q, slot := x.head, record := r, fence := slotFence slot, params := r.param,
                      completion := r.completion, teams := teams, mark := mark }).pump q

/-- A launch packet's record: the parameter pointer stands at byte 48; in a packet only a graph node may have it. -/
def packetRecord (x : Nat) : Nat := x % 2 ^ 1024

/-- LAUNCH (R336, R339). -/
def execLaunchPacket (queue : Nat) (s : State) : Host.Outcome State Fault Refusal :=
  .next (s.dispatch queue (.launchPacket queue) fun slot x =>
    if slotField slot 32 8 % 16 ≠ 0 then s.rejectSlot queue slot 2 32 0
    else if slotField slot 64 8 % 64 ≠ 0 then s.rejectSlot queue slot 2 64 0
    else s.dispatchLaunch queue slot x (packetRecord slot.toNat) (.launchPacket queue))

/-- The record of a short LAUNCH: parameter pointer, completion record address and grid come from the packet. -/
def shortRecord (raw : List Byte) (slot : BitVec 2048) : Nat :=
  bytesNat (raw.take 16 ++ natBytes 8 (slotField slot 24 8) ++ (raw.drop 24).take 24 ++ natBytes 8 (slotField slot 8 8) ++ (raw.drop 56).take 8 ++
    natBytes 8 (slotField slot 16 8) ++ raw.drop 72)

/-- LAUNCH, short form. -/
def execLaunchShort (queue : Nat) (s : State) : Host.Outcome State Fault Refusal :=
  .next (s.dispatch queue (.launchShort queue) fun slot x =>
    let va := slotField slot 0 8
    if va % 128 ≠ 0 then s.rejectSlot queue slot 2 0 0
    else if slotField slot 16 8 % 64 ≠ 0 then s.rejectSlot queue slot 2 16 0
    else
      match s.frontRead (.packet queue) x.ctx va 128 with
      | .waits s' => s'.repost (.launchShort queue)
      | .fails _ a => s.rejectSlot queue slot 13 0 a
      | .ok raw => s.dispatchLaunch queue slot x (shortRecord raw slot) (.launchShort queue))

/-! ## Graphs (R344, R345) -/

/-- Successor fields of all nodes that name a node. -/
def namesOf (ns : List LaunchRecord) (j : Nat) : Nat := ns.foldl (fun n r => n + r.succ.count j) 0

/-- Remove the nodes without predecessors among those left, n times: what is left then lies on a cycle or behind one. -/
def peelNodes (ns : List LaunchRecord) : Nat → List Nat → List Nat
  | 0, left => left
  | n + 1, left => peelNodes ns n (left.filter fun j => left.any fun i => (recordAt ns i).succ.contains j)

/-- The first check of R344 from 2 on that fails, with the lowest node at which it does. -/
def graphFault (ns : List LaunchRecord) : Option (Nat × Option Nat) :=
  let all := List.range ns.length
  let node (p : Nat → Bool) : Option Nat := all.find? p
  let forks := all.filter fun i => (recordAt ns i).fork
  let joins := all.filter fun i => (recordAt ns i).join
  let region := forkRegion ns
  match node fun i => (recordAt ns i).succ.any fun j => ns.length ≤ j with
  | some i => some (2, some i)
  | none =>
    match node fun i => (recordAt ns i).predInit ≠ namesOf ns i with
    | some i => some (3, some i)
    | none =>
      if peelNodes ns ns.length all ≠ [] then some (4, none)
      else if 1 < forks.length || 1 < joins.length then some (5, none)
      else if (forks = []) ≠ (joins = []) then some (6, (forks ++ joins).head?)
      else
        match region.find? fun i => (recordAt ns i).succ = [] with
        | some i => some (7, some i)
        | none =>
          match region.find? fun i => !(recordAt ns i).fork && all.any fun k => !region.contains k && (recordAt ns k).succ.contains i with
          | some i => some (8, some i)
          | none => none

/-- GRAPH_LOAD (R344). A load into the slot of a running graph waits. -/
def execGraphLoad (queue : Nat) (s : State) : Host.Outcome State Fault Refusal :=
  let me : Instr := .graphLoad queue
  .next (s.dispatch queue me fun slot x =>
    let va := slotField slot 0 8
    let n := slotField slot 8 2
    let g := slotField slot 10 1
    if va % 128 ≠ 0 then s.rejectSlot queue slot 2 0 0
    else if n = 0 || 4096 < n then s.rejectSlot queue slot 2 8 0
    else if 63 < g then s.rejectSlot queue slot 2 10 0
    else if (s.graph x.ctx g).run.isSome then s.repost me
    else
      match s.frontRead (.packet queue) x.ctx va (128 * n) with
      | .waits s' => s'.repost me
      | .fails _ a => s.rejectSlot queue slot 13 0 a
      | .ok bs =>
        let ns := (List.range n).map fun i => parseRecord (bytesNat ((bs.drop (128 * i)).take 128))
        match (List.range n).findSome? fun i => (s.recordFault x.ctx false (recordAt ns i)).map fun sub => (i, sub) with
        | some (i, sub) => s.rejectSlot queue slot 8 (256 * sub + 1) (va + 128 * i)
        | none =>
          match graphFault ns with
          | some (check, at_) => s.rejectSlot queue slot 8 check (match at_ with | some i => va + 128 * i | none => 0)
          | none => ((s.takeSlot queue).setGraph x.ctx g { nodes := ns }).pump queue)

/-- GRAPH_RUN (R345): a graph that is running is waited for, whatever the ordering class. -/
def execGraphRun (queue : Nat) (s : State) : Host.Outcome State Fault Refusal :=
  let me : Instr := .graphRun queue
  .next (s.dispatch queue me fun slot x =>
    let g := slotField slot 0 1
    let at_ := slotField slot 8 8
    if 63 < g then s.rejectSlot queue slot 2 0 0
    else if at_ % 64 ≠ 0 then s.rejectSlot queue slot 2 8 0
    else if (s.graph x.ctx g).run.isSome then s.repost me
    else if (s.graph x.ctx g).nodes = [] then s.rejectSlot queue slot 8 9 0
    else
      let s := s.takeSlot queue
      let mark := s.serial
      let s := s.fresh
      let s := s.addPending queue mark (.run s.serial)
      (s.startRun { ctx := x.ctx, slot := g, queue := queue, packet := x.head, completion := at_, fence := slotFence slot, mark := mark }).pump queue)

end Sys2Proof.Machine
end

