-- ==== Sys2Proof/Machine/Transactions.lean ====
section
/-!
DEFINITION. Sys2Proof/Machine/Transactions.lean: TRY, TCOMMIT, TABORT, TSTAT, TADDR (R203 to R214) and the commit of a
transaction (R209, R210).
-/

namespace Sys2Proof.Machine

open Sys2Proof

/-- TRY (0x80, R203, R204). Behind a NEST abort the lanes that were no members execute it again (DESIGN CHOICE, log entry 117). -/
def execTryT (lane : Bool) (disp : BitVec 23) (s : State) : Host.Outcome State Fault Refusal :=
  issue (.tryT lane disp) anyType s fun c =>
    match c.w.tx with
    | some t =>
      if c.memberLanes = 0#32 then .wait c .commit
      else if 4 ≤ t.depth then .abort c t.members 5 fun _ => 0
      else .done { c with w := { c.w with tx := some { t with depth := t.depth + 1 } } }
    | none =>
      let target : Int := (c.p.pc.toNat : Int) + 4 * disp.toInt
      if target < 0 || !c.s.targetLegal c.codeAsid c.code target.toNat then
        .trap c ⟨causeBadTarget, 0, wrapBits 64 (c.code.base + target), c.act⟩
      else
        .done { c with w := { c.w with tx := some { depth := 1, members := c.act, perLane := lane,
                                                    tryPc := BitVec.ofNat 32 target.toNat, tryMode := c.mode } } }

/-! ## Waiting for the commit -/

/-- The lanes that wait at an outermost TCOMMIT: in slots and in entries (R209). -/
def Ctx.waitingLanes (c : Ctx) : LaneMask :=
  match c.w.tx with
  | none => 0#32
  | some t =>
    let slot (p : Option Path) : LaneMask :=
      match p with
      | some p => if p.mask &&& t.waiting &&& t.members ≠ 0#32 then p.mask else 0#32
      | none => 0#32
    c.w.entries.foldl (fun m e => if c.atCommit e then m ||| e.mask else m) (slot c.w.slotA ||| slot c.w.slotB)

/-- A slot that begins to wait at TCOMMIT while another entry exists is swapped out (R34, R209). -/
def Ctx.swapOutCommit (c : Ctx) : Res :=
  let w := c.w.setSlot c.slotB (some { c.p with wait := .commit })
  match (if c.p.wait = .commit then (none, c.w) else w.pop 65 c.atCommit) with
  | (none, w) => .wait { c with w := w } .commit
  | (some e, w) => .placed { c with w := (w.push ⟨c.p.pc, c.p.mask, c.p.mode⟩).setSlot c.slotB (some (c.pathOf e)) }

/-- TCOMMIT (0x81). A path that waits at an outermost one keeps waiting, whatever depth another path's TRY has given the transaction since
(R209). -/
def execTcommit (s : State) : Host.Outcome State Fault Refusal :=
  issue .tcommit anyType s fun c =>
    match c.w.tx with
    | none => .done c
    | some t =>
      if c.memberLanes = 0#32 then .done c
      else if t.depth ≠ 1 && c.act &&& t.waiting = 0#32 then .done { c with w := { c.w with tx := some { t with depth := t.depth - 1 } } }
      else
        { c with s := c.s.postOnce (.txCommit c.gk c.wi),
                 w := { c.w with tx := some { t with waiting := t.waiting ||| c.act } } }.swapOutCommit

/-- TABORT (0x82): outside a transaction it does nothing (R214). -/
def execTabort (b : Selector) (s : State) : Host.Outcome State Fault Refusal :=
  issue (.tabort b) anyType s fun c =>
    if c.S &&& c.memberLanes = 0#32 then .done c else .leave c 0#32 (c.concerned c.S) b.toNat fun _ => 0

/-- TSTAT (0x83, R213). -/
def execTstat (d : Reg) (s : State) : Host.Outcome State Fault Refusal :=
  issue (.tstat d) anyType s fun c => .done (c.put d c.S fun l => (Tab.get 0#8 c.w.tcode l).setWidth 32)

/-- TADDR (0x84, R213). -/
def execTaddr (d : Reg) (s : State) : Host.Outcome State Fault Refusal :=
  issue (.taddr d) anyType s fun c => .done (c.put64 d c.S fun l => Tab.get 0#64 c.w.taddr l)

/-! ## The commit (R209) -/

/-- The aligned words that a lane has read or written, and those it has written, by place ÷ 4. -/
def Tx.words (t : Tx) (lane : Nat) : List Nat :=
  (t.reads ++ t.writes).foldl (fun ws e => if e.1 % 32 = lane then insertNew (e.1 / 32 / 4) ws else ws) []
def Tx.written (t : Tx) (lane : Nat) : List Nat :=
  t.writes.foldl (fun ws e => if e.1 % 32 = lane then insertNew (e.1 / 32 / 4) ws else ws) []

/-- The virtual address of a word or a line as a lane named it. -/
def Tx.address (t : Tx) (lane place : Nat) : Nat := Tab.get 0 t.names (txKey lane (lineOf place)) * 128 + place % 128

/-- The words on which two lanes conflict: one wrote what the other read or wrote. -/
def Tx.conflicts (t : Tx) (l m : Nat) : List Nat :=
  (t.written l).filter (fun x => (t.words m).contains x) ++ (t.written m).filter fun x => (t.words l).contains x

/-- The lowest address on which a lane conflicts with one of some lanes. -/
def Tx.conflict? (t : Tx) (l : Nat) (others : List Nat) : Option Nat :=
  (others.flatMap fun m => (t.conflicts l m).map fun x => t.address l (4 * x)).foldl
    (fun m a => some (match m with | some y => min y a | none => a)) none

/-- The lanes that commit, and those that abort with the address of a conflict: per lane in ascending order, or all at once. -/
def Tx.candidates (t : Tx) (live : LaneMask) : List Nat × List (Nat × Nat) :=
  let m := lanesOf (t.members &&& live)
  if t.perLane then
    m.foldl (fun (acc : List Nat × List (Nat × Nat)) l =>
      match t.conflict? l acc.1 with
      | some a => (acc.1, acc.2 ++ [(l, a)])
      | none => (acc.1 ++ [l], acc.2)) ([], [])
  else
    match m.findSome? fun l => t.conflict? l (m.filter fun x => x ≠ l) with
    | some _ =>
      ([], m.map fun l => (l, (t.conflict? l (m.filter fun x => x ≠ l)).getD ((m.findSome? fun x => t.conflict? x (m.filter fun y => y ≠ x)).getD 0)))
    | none => (m, [])

/-- The lines of the sets of some lanes. -/
def Tx.linesOf (t : Tx) (lanes : List Nat) : List Nat :=
  (t.readLines ++ t.writeLines).foldl (fun ls k => if lanes.contains (k % 32) then insertSorted (k / 32) ls else ls) []

/-- The byte at the home of a place: memory as the wave's view (R215), a scratchpad, the save slot. -/
def Ctx.homeByte (c : Ctx) (place : Nat) : Byte :=
  if 2 ^ 62 ≤ place then Tab.get 0#8 c.w.save (place % 2 ^ 14)
  else if isScratch place then
    match c.groupAt (placeGroup place) with
    | some g => Tab.get 0#8 g.scratch (placeOffset place)
    | none => 0#8
  else if placeTag place ≠ 0 && !c.s.ownVersion (placeTag place) (lineOf place) then c.s.byteAt (memPlace 0 (placePa place))
  else c.s.byteAt place

/-- The lowest line of which a lane read a value that differs from its home's (R209). -/
def Ctx.stale? (c : Ctx) (t : Tx) (lane : Nat) : Option Nat :=
  let torn := (t.torn.filter fun k => k % 32 = lane).map (· / 32)
  let differing := (t.reads.filter fun e => e.1 % 32 = lane && e.2 ≠ c.homeByte (e.1 / 32)).map fun e => lineOf (e.1 / 32)
  (torn ++ differing).foldl (fun m x => some (match m with | some y => min y x | none => x)) none

/-- Store a committed byte. -/
def Ctx.commitBytes (c : Ctx) (line : Nat) (bytes : List (Nat × Byte)) : Ctx :=
  if 2 ^ 62 ≤ line * 128 then { c with w := { c.w with save := bytes.foldl (fun t b => t.put 0#8 (b.1 % 2 ^ 14) b.2) c.w.save } }
  else if isScratch (line * 128) then
    bytes.foldl (fun (c : Ctx) b =>
      match c.groupAt (placeGroup b.1) with
      | some g => c.setGroup (placeGroup b.1) (g.writeScratch (placeOffset b.1) [b.2])
      | none => c) c
  else
    let tag := placeTag (line * 128)
    let s := c.s.fresh
    let s := if tag = 0 then s else s.createVersion tag line
    { c with s := (s.performWrite s.serial c.gk c.wi .plain bytes).refreshGuest c.die bytes }

/-- Perform the buffered stores of the lanes that commit, as one write (R210). -/
def Ctx.commitStores (c : Ctx) (t : Tx) (lanes : List Nat) : Ctx :=
  let bytes := (t.writes.filter fun e => lanes.contains (e.1 % 32)).map fun e => (e.1 / 32, e.2)
  let lines := bytes.foldl (fun (ls : List Nat) b => insertSorted (lineOf b.1) ls) []
  lines.foldl (fun (c : Ctx) n => c.commitBytes n (bytes.filter fun b => lineOf b.1 == n)) c

/-- Abort lanes with a code and an address each, all as one path (R211, R212). -/
def Ctx.abortMany (c : Ctx) (xs : List (Nat × Nat × Nat)) (origin : Nat) : Ctx :=
  let lanes := xs.foldl (fun m x => m ||| laneBit x.1) 0#32
  let c := c.abortLanes lanes 0 0 origin
  xs.foldl (fun (c : Ctx) x =>
    { c with w := { c.w with tcode := c.w.tcode.put 0#8 x.1 (BitVec.ofNat 8 x.2.1), taddr := c.w.taddr.put 0#64 x.1 (BitVec.ofNat 64 x.2.2) } }) c

/-- A path that waited at TCOMMIT goes on behind it with the lanes it has left (R212). -/
def Path.passCommit (clk : Nat) (members : LaneMask) (p : Option Path) : Option Path :=
  match p with
  | some p =>
    if p.mask &&& members ≠ 0#32 then
      some { p with pc := BitVec.ofNat 32 (nextOffset p.pc.toNat false), wait := .none, inflight := [], readyAt := clk + 1,
                    comb := some (BitVec.ofNat 32 (combOf p.pc.toNat)) }
    else some p
  | none => none

/-- Release the paths of the committed lanes: in slots, and entries, which move behind their TCOMMIT. -/
def Ctx.release (c : Ctx) (before : Wave) (members : LaneMask) : Ctx :=
  let at_ := c.w.entries.filter fun e => { c with w := before }.atCommit e && e.mask &&& members ≠ 0#32
  let w := { c.w with slotA := Path.passCommit c.s.clk members c.w.slotA, slotB := Path.passCommit c.s.clk members c.w.slotB }
  let w := at_.foldl (fun (w : Wave) e =>
    match w.takeLowest fun x => x ≠ e with
    | some (_, w) => (w.refill 8).push { e with pc := BitVec.ofNat 32 (nextOffset e.pc.toNat false) }
    | none => w) w
  { c with w := w }

/-- A wave outside any instruction of it: a path that stands nowhere acts. -/
def State.waveCtx? (s : State) (gk wi : Nat) : Option Ctx :=
  match s.groups.find? gk with
  | none => none
  | some g =>
    match g.waves[wi]? with
    | none => none
    | some w =>
      some ⟨s, gk, g, wi, w, false, { pc := 0xFFFFFFFF#32, mask := 0#32, mode := modeStart },
        { g := gk, w := wi, slotB := false, word := 0#32, code := 0#4, slot := 1, literal := 0#32, next := 0#32, yieldHint := false }⟩

/-- The code offset of the TCOMMIT at which a lane waits. -/
def Wave.commitPc (w : Wave) (lane : Nat) : Nat :=
  let inSlot (p : Option Path) : Option Nat := match p with | some p => if p.mask.getLsbD lane then some p.pc.toNat else none | none => none
  match inSlot w.slotA, inSlot w.slotB with
  | some x, _ => x
  | none, some x => x
  | none, none => ((w.entries.find? fun e => e.mask.getLsbD lane).map fun e => e.pc.toNat).getD 0

/-- Whether a line of a set has a home: scratchpads and save slots have none. -/
def homed (n : Nat) : Bool := !isScratch (n * 128) && n * 128 < 2 ^ 62

/-- The claim with which the commit stands in the queues of its lines. -/
def Ctx.claim (c : Ctx) (t : Tx) : Request := .commit c.gk c.wi (t.firstLine.getD 0)

/-- The lines of the sets of some lanes, in the order in which the commit caps them: a future's lines without a version by their trunk
lines. Skipped ones are left out. -/
def Ctx.commitOrder (c : Ctx) (t : Tx) (lanes : List Nat) : List Nat :=
  let lines := (t.linesOf lanes).filter fun n => homed n && !t.skipped.contains n
  (lines.filter fun n => c.s.writeLine n ≠ n) ++ lines.filter fun n => c.s.writeLine n = n

/-- Whether the commit caps a line now: it is its turn there, and the home serves a write, lets a future's version be made, or serves a read
of a line of which the future has and makes no version. -/
def Ctx.capsNow (c : Ctx) (t : Tx) (written : Nat → Bool) (n : Nat) : Bool :=
  let at_ := c.s.writeLine n
  let turn := capMine (c.s.line at_) c.gk c.wi || c.s.firstAt at_ (c.claim t)
  if at_ = n then turn && c.s.writeServed n c.gk c.wi
  else if written n then turn && c.s.versionReady (n / 2 ^ 45) at_
  else c.s.readServed at_ c.core c.gk c.wi .ver turn

/-- Whether two transactions name a line that one of them writes. -/
def Tx.meets (t u : Tx) : Bool :=
  let lines (ks : List Nat) : List Nat := ks.map (· / 32)
  ((lines t.writeLines).any fun n => (lines (u.readLines ++ u.writeLines)).contains n) ||
    (lines u.writeLines).any fun n => (lines t.readLines).contains n

/-- Whether another commit that meets this one has reached its first line before (R42). -/
def Ctx.rival (c : Ctx) (t : Tx) : Bool :=
  List.any c.s.groups fun (x : Nat × Group) => !x.2.halted && !x.2.saving && x.2.waves.any fun w =>
    w.handler.isNone && (match w.tx with
      | some u => (match u.firstLine, t.firstLine with | some m, some n => m < n && t.meets u | _, _ => false)
      | none => false)

/-- The commit's claims leave the queues of its lines. -/
def Ctx.unclaim (c : Ctx) (t : Tx) (lines : List Nat) : Ctx :=
  { c with s := lines.foldl (fun (s : State) n => s.unqueue (s.writeLine n) (c.claim t)) c.s }

/-- The commit stands at the head of the queues of the lines that it has, and waits in the queue of the next one, which it asks for as a
write asks. -/
def Ctx.claimNext (c : Ctx) (t : Tx) (written : Nat → Bool) (lines : List Nat) : Ctx :=
  { c with s := lines.foldl (fun (s : State) n =>
      let at_ := s.writeLine n
      if written n then s.askLine at_ c.core (c.claim t) else (s.enqueue at_ (c.claim t)).requestExclusive at_) c.s }

/-- The commit once its lines are capped (R209): lanes whose reads are stale abort; of the others, those that the aborts have left in the
transaction (R212) perform their stores at one moment, and their paths go on. -/
def Ctx.commitNow (c : Ctx) (t : Tx) (lanes : List Nat) (aborted : List (Nat × Nat × Nat)) : Ctx :=
  let stale := lanes.filterMap fun l => (c.stale? t l).map fun n => (l, n)
  let failing : List (Nat × Nat × Nat) :=
    if t.perLane then stale.map fun x => (x.1, 2, t.address x.1 (x.2 * 128))
    else
      match stale with
      | [] => []
      | x :: _ => lanes.map fun l => (l, 2, t.address x.1 (x.2 * 128))
  let out := aborted ++ failing
  let before := c.w
  let c := if out = [] then c else c.abortMany out (c.w.commitPc ((out.map (·.1)).headD 0))
  let left := match c.w.tx with | some u => u.members | none => 0#32
  let good := lanes.filter fun l => left.getLsbD l
  let goodMask := good.foldl (fun m l => m ||| laneBit l) 0#32
  let c := (c.commitStores t good).acquire
  let c := { c with w := { c.w with
    tx := none
    tcode := good.foldl (fun x l => x.put 0#8 l 0#8) c.w.tcode
    taddr := good.foldl (fun x l => x.put 0#64 l 0#64) c.w.taddr } }
  if goodMask = 0#32 then c else c.release before goodMask

/-- The lanes that leave the commit because a line of their sets was skipped, with code 9 and the line (R207, R209). -/
def Tx.skippedLanes (t : Tx) (lanes : List Nat) : List (Nat × Nat × Nat) :=
  let out := lanes.filterMap fun l => ((t.skipped.filter fun n => (t.linesOf [l]).contains n).head?).map fun n => (l, 9, t.address l (n * 128))
  if t.perLane || out = [] then out else lanes.map fun l => (l, 9, ((out.map fun x => x.2.2).headD 0))

/-- The commit of the lanes C (R209): the lines of their sets are capped one by one, in ascending order; one that stays capped by others
is skipped, and its lanes leave. -/
def Ctx.runCommit (c : Ctx) (t : Tx) (lanes : List Nat) (aborted : List (Nat × Nat × Nat)) : Host.Outcome State Fault Refusal :=
  let again (c : Ctx) : Host.Outcome State Fault Refusal := .next (c.putWave.repost (.txCommit c.gk c.wi))
  let skipped := t.skippedLanes lanes
  let stay := lanes.filter fun l => !(skipped.any fun x => x.1 == l)
  let wr := t.writeLines.filterMap fun k => if stay.contains (k % 32) then some (k / 32) else none
  let lines := c.commitOrder t lanes
  let ready := lines.takeWhile (c.capsNow t wr.contains)
  if c.rival t then again (c.unclaim t lines)
  else if lines.any fun n => wr.contains n && c.s.writeLine n ≠ n && !c.s.versionFits (n % 2 ^ 45) then .next (c.putWave.squash c.tag 4)
  else
    match lines.drop ready.length with
    | [] =>
      let c := ((c.unclaim t lines).commitNow t stay (aborted ++ skipped)).fillSlots
      .next (lines.foldl (fun (s : State) n => s.postOnce (.capHeld n)) c.settle)
    | n :: _ =>
      let at_ := c.s.writeLine n
      let c := c.countCaps [at_]
      match c.cappedOut at_, c.w.tx with
      | true, some u => again { c.unclaim t [n] with w := { c.w with tx := some { u with skipped := insertSorted n u.skipped } } }
      | _, _ => again (c.claimNext t wr.contains (lines.take (ready.length + 1)))

/-- TX_COMMIT (R209): when every live member waits at an outermost TCOMMIT and the wave's accesses before that have been performed (R210),
the commit runs; until it is through it is looked at again. -/
def execTxCommit (g w : Nat) (s : State) : Host.Outcome State Fault Refusal :=
  let again (s : State) : Host.Outcome State Fault Refusal := .next (s.repost (.txCommit g w))
  match s.waveCtx? g w with
  | none => .next s
  | some c =>
    match c.w.tx with
    | none => .next s
    | some t =>
      if c.waitingLanes = 0#32 then .next s
      else if t.members &&& c.w.live &&& ~~~c.waitingLanes ≠ 0#32 || c.w.handler.isSome || c.g.halted then again s
      else
        let t := { t with mark := some (t.mark.getD s.serial) }
        if !s.performedTo g w (t.mark.getD 0) then again { c with w := { c.w with tx := some t } }.putWave
        else
          let (lanes, conflicts) := t.candidates c.w.live
          let aborted := conflicts.map fun x => (x.1, 1, x.2)
          if lanes = [] then .next ((c.commitNow t [] aborted).fillSlots).settle
          else
            let s := if t.firstLine.isSome then s else s.fresh
            let t := { t with firstLine := some (t.firstLine.getD s.serial) }
            { c with s := s, w := { c.w with tx := some t } }.runCommit t lanes aborted

end Sys2Proof.Machine
end

