-- ==== Sys2Proof/Machine/Dispatch.lean ====
section
/-!
DEFINITION. Sys2Proof/Machine/Dispatch.lean: one arm per constructor of Instr: the meaning of each instruction word and of each
step of the device.
-/

namespace Sys2Proof.Machine

open Sys2Proof

/-- The meaning of an instruction. -/
def exec (i : Instr) (s : State) : Host.Outcome State Fault Refusal :=
  match i with
  | .mode image => Sys2Proof.Machine.execMode image s
  | .ldlit d => Sys2Proof.Machine.execLdlit d s
  | .bra disp => Sys2Proof.Machine.execBra disp s
  | .brx a => Sys2Proof.Machine.execBrx a s
  | .call disp => Sys2Proof.Machine.execCall disp s
  | .sleepuntil a => Sys2Proof.Machine.execSleepuntil a s
  | .mark id => Sys2Proof.Machine.execMark id s
  | .idem id => Sys2Proof.Machine.execIdem id s
  | .trap b => Sys2Proof.Machine.execTrap b s
  | .iadd d a b => Sys2Proof.Machine.execIadd d a b s
  | .isub d a b => Sys2Proof.Machine.execIsub d a b s
  | .imul d a b => Sys2Proof.Machine.execImul d a b s
  | .imulhi d a b => Sys2Proof.Machine.execImulhi d a b s
  | .nmulhi d a b => Sys2Proof.Machine.execNmulhi d a b s
  | .imad d a b => Sys2Proof.Machine.execImad d a b s
  | .shl d a b => Sys2Proof.Machine.execShl d a b s
  | .shr d a b => Sys2Proof.Machine.execShr d a b s
  | .sar d a b => Sys2Proof.Machine.execSar d a b s
  | .andW d a b => Sys2Proof.Machine.execAndW d a b s
  | .orW d a b => Sys2Proof.Machine.execOrW d a b s
  | .xorW d a b => Sys2Proof.Machine.execXorW d a b s
  | .imin d a b => Sys2Proof.Machine.execImin d a b s
  | .imax d a b => Sys2Proof.Machine.execImax d a b s
  | .nmin d a b => Sys2Proof.Machine.execNmin d a b s
  | .nmax d a b => Sys2Proof.Machine.execNmax d a b s
  | .popc d a => Sys2Proof.Machine.execPopc d a s
  | .clz d a => Sys2Proof.Machine.execClz d a s
  | .brev d a => Sys2Proof.Machine.execBrev d a s
  | .bfx d a b => Sys2Proof.Machine.execBfx d a b s
  | .bfi d a b => Sys2Proof.Machine.execBfi d a b s
  | .add64 d a b => Sys2Proof.Machine.execAdd64 d a b s
  | .sub64 d a b => Sys2Proof.Machine.execSub64 d a b s
  | .mad64 d a b => Sys2Proof.Machine.execMad64 d a b s
  | .sel d a b => Sys2Proof.Machine.execSel d a b s
  | .mov d a => Sys2Proof.Machine.execMov d a s
  | .movu d a b => Sys2Proof.Machine.execMovu d a b s
  | .shuf d a b => Sys2Proof.Machine.execShuf d a b s
  | .shufx d a b => Sys2Proof.Machine.execShufx d a b s
  | .ballot d a => Sys2Proof.Machine.execBallot d a s
  | .vany d a => Sys2Proof.Machine.execVany d a s
  | .vall d a => Sys2Proof.Machine.execVall d a s
  | .icmpeq d a b => Sys2Proof.Machine.execIcmpeq d a b s
  | .icmpne d a b => Sys2Proof.Machine.execIcmpne d a b s
  | .icmplt d a b => Sys2Proof.Machine.execIcmplt d a b s
  | .icmple d a b => Sys2Proof.Machine.execIcmple d a b s
  | .ncmplt d a b => Sys2Proof.Machine.execNcmplt d a b s
  | .ncmple d a b => Sys2Proof.Machine.execNcmple d a b s
  | .cmpeq d a b => Sys2Proof.Machine.execCmpeq d a b s
  | .cmpne d a b => Sys2Proof.Machine.execCmpne d a b s
  | .cmplt d a b => Sys2Proof.Machine.execCmplt d a b s
  | .cmple d a b => Sys2Proof.Machine.execCmple d a b s
  | .cmpun d a b => Sys2Proof.Machine.execCmpun d a b s
  | .qand d a b => Sys2Proof.Machine.execQand d a b s
  | .qor d a b => Sys2Proof.Machine.execQor d a b s
  | .qxor d a b => Sys2Proof.Machine.execQxor d a b s
  | .qtov d a => Sys2Proof.Machine.execQtov d a s
  | .vtoq d a => Sys2Proof.Machine.execVtoq d a s
  | .addT d a b => Sys2Proof.Machine.execAddT d a b s
  | .subT d a b => Sys2Proof.Machine.execSubT d a b s
  | .mulT d a b => Sys2Proof.Machine.execMulT d a b s
  | .fma d a b => Sys2Proof.Machine.execFma d a b s
  | .fms d a b => Sys2Proof.Machine.execFms d a b s
  | .fnma d a b => Sys2Proof.Machine.execFnma d a b s
  | .minT d a b => Sys2Proof.Machine.execMinT d a b s
  | .maxT d a b => Sys2Proof.Machine.execMaxT d a b s
  | .absT d a => Sys2Proof.Machine.execAbsT d a s
  | .negT d a => Sys2Proof.Machine.execNegT d a s
  | .clamp d a b => Sys2Proof.Machine.execClamp d a b s
  | .divT d a b => Sys2Proof.Machine.execDivT d a b s
  | .sqrt d a => Sys2Proof.Machine.execSqrt d a s
  | .rcp d a => Sys2Proof.Machine.execRcp d a s
  | .rsq d a => Sys2Proof.Machine.execRsq d a s
  | .exp2 d a => Sys2Proof.Machine.execExp2 d a s
  | .log2 d a => Sys2Proof.Machine.execLog2 d a s
  | .sinpi d a => Sys2Proof.Machine.execSinpi d a s
  | .cospi d a => Sys2Proof.Machine.execCospi d a s
  | .fract d a => Sys2Proof.Machine.execFract d a s
  | .floor d a => Sys2Proof.Machine.execFloor d a s
  | .ceil d a => Sys2Proof.Machine.execCeil d a s
  | .trunc d a => Sys2Proof.Machine.execTrunc d a s
  | .rint d a => Sys2Proof.Machine.execRint d a s
  | .cvt d a b => Sys2Proof.Machine.execCvt d a b s
  | .pack d a b => Sys2Proof.Machine.execPack d a b s
  | .unpacklo d a => Sys2Proof.Machine.execUnpacklo d a s
  | .unpackhi d a => Sys2Proof.Machine.execUnpackhi d a s
  | .dot2 d a b => Sys2Proof.Machine.execDot2 d a b s
  | .dot4 d a b => Sys2Proof.Machine.execDot4 d a b s
  | .scaleb d a b => Sys2Proof.Machine.execScaleb d a b s
  | .classT d a => Sys2Proof.Machine.execClassT d a s
  | .ld8 d a b => Sys2Proof.Machine.execLd8 d a b s
  | .ld8s d a b => Sys2Proof.Machine.execLd8s d a b s
  | .ld16 d a b => Sys2Proof.Machine.execLd16 d a b s
  | .ld16s d a b => Sys2Proof.Machine.execLd16s d a b s
  | .ld32 d a b => Sys2Proof.Machine.execLd32 d a b s
  | .ld64 d a b => Sys2Proof.Machine.execLd64 d a b s
  | .ld128 d a b => Sys2Proof.Machine.execLd128 d a b s
  | .lda32 d a b => Sys2Proof.Machine.execLda32 d a b s
  | .lda64 d a b => Sys2Proof.Machine.execLda64 d a b s
  | .st8 d a b => Sys2Proof.Machine.execSt8 d a b s
  | .st16 d a b => Sys2Proof.Machine.execSt16 d a b s
  | .st32 d a b => Sys2Proof.Machine.execSt32 d a b s
  | .st64 d a b => Sys2Proof.Machine.execSt64 d a b s
  | .st128 d a b => Sys2Proof.Machine.execSt128 d a b s
  | .str32 d a b => Sys2Proof.Machine.execStr32 d a b s
  | .str64 d a b => Sys2Proof.Machine.execStr64 d a b s
  | .fence d a b => Sys2Proof.Machine.execFence d a b s
  | .aadd d a b => Sys2Proof.Machine.execAadd d a b s
  | .amin d a b => Sys2Proof.Machine.execAmin d a b s
  | .amax d a b => Sys2Proof.Machine.execAmax d a b s
  | .aand d a b => Sys2Proof.Machine.execAand d a b s
  | .aor d a b => Sys2Proof.Machine.execAor d a b s
  | .axor d a b => Sys2Proof.Machine.execAxor d a b s
  | .axchg d a b => Sys2Proof.Machine.execAxchg d a b s
  | .acas d a b => Sys2Proof.Machine.execAcas d a b s
  | .ainc d a b => Sys2Proof.Machine.execAinc d a b s
  | .cap d a b => Sys2Proof.Machine.execCap d a b s
  | .uncap d a => Sys2Proof.Machine.execUncap d a s
  | .pref a => Sys2Proof.Machine.execPref a s
  | .wbl a => Sys2Proof.Machine.execWbl a s
  | .dropl a => Sys2Proof.Machine.execDropl a s
  | .tryT lane disp => Sys2Proof.Machine.execTryT lane disp s
  | .tabort b => Sys2Proof.Machine.execTabort b s
  | .tstat d => Sys2Proof.Machine.execTstat d s
  | .taddr d => Sys2Proof.Machine.execTaddr d s
  | .barw b => Sys2Proof.Machine.execBarw b s
  | .bara d b => Sys2Proof.Machine.execBara d b s
  | .barwt a b => Sys2Proof.Machine.execBarwt a b s
  | .barx a b => Sys2Proof.Machine.execBarx a b s
  | .tredadd d a b => Sys2Proof.Machine.execTredadd d a b s
  | .tredmin d a b => Sys2Proof.Machine.execTredmin d a b s
  | .tredmax d a b => Sys2Proof.Machine.execTredmax d a b s
  | .grow b => Sys2Proof.Machine.execGrow b s
  | .shrink b => Sys2Proof.Machine.execShrink b s
  | .waitc a b => Sys2Proof.Machine.execWaitc a b s
  | .ldf32 d a b => Sys2Proof.Machine.execLdf32 d a b s
  | .fcommit d a => Sys2Proof.Machine.execFcommit d a s
  | .fsquash d a => Sys2Proof.Machine.execFsquash d a s
  | .fstate d a => Sys2Proof.Machine.execFstate d a s
  | .flip a b => Sys2Proof.Machine.execFlip a b s
  | .signal d a b => Sys2Proof.Machine.execSignal d a b s
  | .glaunch a b => Sys2Proof.Machine.execGlaunch a b s
  | .tdef d a => Sys2Proof.Machine.execTdef d a s
  | .trel d => Sys2Proof.Machine.execTrel d s
  | .tcur d a => Sys2Proof.Machine.execTcur d a s
  | .tcurhi d a => Sys2Proof.Machine.execTcurhi d a s
  | .cpy d a b => Sys2Proof.Machine.execCpy d a b s
  | .cpyt d a b => Sys2Proof.Machine.execCpyt d a b s
  | .cpyq d a b => Sys2Proof.Machine.execCpyq d a b s
  | .cpyx d a b => Sys2Proof.Machine.execCpyx d a b s
  | .gath d a b => Sys2Proof.Machine.execGath d a b s
  | .scata d a b => Sys2Proof.Machine.execScata d a b s
  | .tquery d a b => Sys2Proof.Machine.execTquery d a b s
  | .mbld d a => Sys2Proof.Machine.execMbld d a s
  | .mma d a b => Sys2Proof.Machine.execMma d a b s
  | .mmas d a b => Sys2Proof.Machine.execMmas d a b s
  | .mzero d => Sys2Proof.Machine.execMzero d s
  | .mdrain d a => Sys2Proof.Machine.execMdrain d a s
  | .mdraina d a => Sys2Proof.Machine.execMdraina d a s
  | .mrd d a b => Sys2Proof.Machine.execMrd d a b s
  | .mwr d a b => Sys2Proof.Machine.execMwr d a b s
  | .rayq d a b => Sys2Proof.Machine.execRayq d a b s
  | .rayqa d a b => Sys2Proof.Machine.execRayqa d a b s
  | .tex d a b => Sys2Proof.Machine.execTex d a b s
  | .texl d a b => Sys2Proof.Machine.execTexl d a b s
  | .texg d a b => Sys2Proof.Machine.execTexg d a b s
  | .rdtime d => Sys2Proof.Machine.execRdtime d s
  | .rdsr d b => Sys2Proof.Machine.execRdsr d b s
  | .wrsr a b => Sys2Proof.Machine.execWrsr a b s
  | .tlbinv a b => Sys2Proof.Machine.execTlbinv a b s
  | .irq b => Sys2Proof.Machine.execIrq b s
  | .haltg d a => Sys2Proof.Machine.execHaltg d a s
  | .resumeg d a => Sys2Proof.Machine.execResumeg d a s
  | .gsave d a b => Sys2Proof.Machine.execGsave d a b s
  | .gload d a b => Sys2Proof.Machine.execGload d a b s
  | .linkq d b => Sys2Proof.Machine.execLinkq d b s
  | .linkup d b => Sys2Proof.Machine.execLinkup d b s
  | .dierst d b => Sys2Proof.Machine.execDierst d b s
  | .homebyp d a b => Sys2Proof.Machine.execHomebyp d a b s
  | .flushd d b => Sys2Proof.Machine.execFlushd d b s
  | .txCommit g w => Sys2Proof.Machine.execTxCommit g w s
  | .growGrant g w slotB => Sys2Proof.Machine.execGrowGrant g w slotB s
  | .capHeld line => Sys2Proof.Machine.execCapHeld line s
  | .capExpiry line => Sys2Proof.Machine.execCapExpiry line s
  | .heatDecay line => Sys2Proof.Machine.execHeatDecay line s
  | .leaseReadRequest core line => Sys2Proof.Machine.execLeaseReadRequest core line s
  | .homeWrite id => Sys2Proof.Machine.execHomeWrite id s
  | .ownershipRecall line => Sys2Proof.Machine.execOwnershipRecall line s
  | .guestInvalidate die line => Sys2Proof.Machine.execGuestInvalidate die line s
  | .exclusiveRequest card line => Sys2Proof.Machine.execExclusiveRequest card line s
  | .replicaUpdate id die => Sys2Proof.Machine.execReplicaUpdate id die s
  | .faultResolved id => Sys2Proof.Machine.execFaultResolved id s
  | .faultFailed id result => Sys2Proof.Machine.execFaultFailed id result s
  | .regionCmd value => Sys2Proof.Machine.execRegionCmd value s
  | .commitPoint ctx tag => Sys2Proof.Machine.execCommitPoint ctx tag s
  | .foldingFinish ctx tag => Sys2Proof.Machine.execFoldingFinish ctx tag s
  | .scrubbingFinish ctx tag => Sys2Proof.Machine.execScrubbingFinish ctx tag s
  | .forkTakeTags run node => Sys2Proof.Machine.execForkTakeTags run node s
  | .joinDeadline run node => Sys2Proof.Machine.execJoinDeadline run node s
  | .deferredEffect ctx tag => Sys2Proof.Machine.execDeferredEffect ctx tag s
  | .copyLanding op => Sys2Proof.Machine.execCopyLanding op s
  | .copyComplete op => Sys2Proof.Machine.execCopyComplete op s
  | .matrixPass g w => Sys2Proof.Machine.execMatrixPass g w s
  | .mbldComplete g mac => Sys2Proof.Machine.execMbldComplete g mac s
  | .batchComplete g w => Sys2Proof.Machine.execBatchComplete g w s
  | .rayComplete op => Sys2Proof.Machine.execRayComplete op s
  | .texComplete op => Sys2Proof.Machine.execTexComplete op s
  | .resultWriteback g w id => Sys2Proof.Machine.execResultWriteback g w id s
  | .gangPlacement gang => Sys2Proof.Machine.execGangPlacement gang s
  | .groupRetire g => Sys2Proof.Machine.execGroupRetire g s
  | .completionSignal launch => Sys2Proof.Machine.execCompletionSignal launch s
  | .earlyTrigger launch => Sys2Proof.Machine.execEarlyTrigger launch s
  | .tailWrite queue value => Sys2Proof.Machine.execTailWrite queue value s
  | .queueEnable queue => Sys2Proof.Machine.execQueueEnable queue s
  | .queueDisable queue => Sys2Proof.Machine.execQueueDisable queue s
  | .trailerRead queue => Sys2Proof.Machine.execTrailerRead queue s
  | .nopPacket queue => Sys2Proof.Machine.execNopPacket queue s
  | .launchPacket queue => Sys2Proof.Machine.execLaunchPacket queue s
  | .launchShort queue => Sys2Proof.Machine.execLaunchShort queue s
  | .graphRun queue => Sys2Proof.Machine.execGraphRun queue s
  | .graphLoad queue => Sys2Proof.Machine.execGraphLoad queue s
  | .signalPacket queue => Sys2Proof.Machine.execSignalPacket queue s
  | .waitPacket queue => Sys2Proof.Machine.execWaitPacket queue s
  | .waitPoll queue => Sys2Proof.Machine.execWaitPoll queue s
  | .copyPacket queue => Sys2Proof.Machine.execCopyPacket queue s
  | .accountOpen queue => Sys2Proof.Machine.execAccountOpen queue s
  | .accountClose queue => Sys2Proof.Machine.execAccountClose queue s
  | .commitPacket queue => Sys2Proof.Machine.execCommitPacket queue s
  | .tensorDef queue => Sys2Proof.Machine.execTensorDef queue s
  | .preemptCmd ctx => Sys2Proof.Machine.execPreemptCmd ctx s
  | .readmitCmd ctx => Sys2Proof.Machine.execReadmitCmd ctx s
  | .resetCmd ctx => Sys2Proof.Machine.execResetCmd ctx s
  | .haltCmd ctx => Sys2Proof.Machine.execHaltCmd ctx s
  | .resumeCmd ctx => Sys2Proof.Machine.execResumeCmd ctx s
  | .saveCmd ctx => Sys2Proof.Machine.execSaveCmd ctx s
  | .loadCmd ctx => Sys2Proof.Machine.execLoadCmd ctx s
  | .attachCmd ctx => Sys2Proof.Machine.execAttachCmd ctx s
  | .detachCmd ctx => Sys2Proof.Machine.execDetachCmd ctx s
  | .sliceExpiry ctx => Sys2Proof.Machine.execSliceExpiry ctx s
  | .d1Deadline ctx => Sys2Proof.Machine.execD1Deadline ctx s
  | .d2Deadline ctx => Sys2Proof.Machine.execD2Deadline ctx s
  | .watchdogExpiry launch team => Sys2Proof.Machine.execWatchdogExpiry launch team s
  | .traceSample ctx core => Sys2Proof.Machine.execTraceSample ctx core s
  | .attCmd value => Sys2Proof.Machine.execAttCmd value s
  | .firmwareBoot die => Sys2Proof.Machine.execFirmwareBoot die s
  | .sleepEnd g w slotB => Sys2Proof.Machine.execSleepEnd g w slotB s
  | .leaseExpiry core line => Sys2Proof.Machine.execLeaseExpiry core line s
  | .guestReadRequest die line => Sys2Proof.Machine.execGuestReadRequest die line s
  | .nearAtomicGrant core line => Sys2Proof.Machine.execNearAtomicGrant core line s
  | .cardInvalidate card line => Sys2Proof.Machine.execCardInvalidate card line s
  | .snpinv line => Sys2Proof.Machine.execSnpinv line s
  | .snpdata line => Sys2Proof.Machine.execSnpdata line s
  | .snpcur line => Sys2Proof.Machine.execSnpcur line s
  | .fillRequest die asid va => Sys2Proof.Machine.execFillRequest die asid va s
  | .pageWalk asid va => Sys2Proof.Machine.execPageWalk asid va s
  | .fillRedirect die asid va => Sys2Proof.Machine.execFillRedirect die asid va s
  | .nvmeCompletion id status => Sys2Proof.Machine.execNvmeCompletion id status s
  | .nvmeTimeout id => Sys2Proof.Machine.execNvmeTimeout id s
  | .launchRegister queue slot => Sys2Proof.Machine.execLaunchRegister queue slot s
  | .registerWrite addr bytes value => Sys2Proof.Machine.execRegisterWrite addr bytes value s
  | .latchPoint head mode => Sys2Proof.Machine.execLatchPoint head mode s
  | .linkRetrain port => Sys2Proof.Machine.execLinkRetrain port s
  | .flitReplay port => Sys2Proof.Machine.execFlitReplay port s
  | .linkUp port => Sys2Proof.Machine.execLinkUp port s
  | .peerDown port => Sys2Proof.Machine.execPeerDown port s
  | .eccCorrected source die unit addr => Sys2Proof.Machine.execEccCorrected source die unit addr s
  | .eccUncorrected source die unit addr => Sys2Proof.Machine.execEccUncorrected source die unit addr s
  | .patrolScrub line => Sys2Proof.Machine.execPatrolScrub line s
  | .replan die => Sys2Proof.Machine.execReplan die s
  | .lowSlack die => Sys2Proof.Machine.execLowSlack die s
  | .thermalLimit die => Sys2Proof.Machine.execThermalLimit die s
  | .governorWindow die => Sys2Proof.Machine.execGovernorWindow die s
  | .bankGate core bank => Sys2Proof.Machine.execBankGate core bank s
  | .hostBar2Read addr bytes => Sys2Proof.Machine.execHostBar2Read addr bytes s
  | .hostBar2Write addr bytes value => Sys2Proof.Machine.execHostBar2Write addr bytes value s
  | .contextCreation ctx saves => Sys2Proof.Machine.execContextCreation ctx saves s
  | .powerGating unit => Sys2Proof.Machine.execPowerGating unit s
  | .temperatureDrop die => Sys2Proof.Machine.execTemperatureDrop die s
  | .pldmRequest subject image => Sys2Proof.Machine.execPldmRequest subject image s
  | .cxlMemAccess write addr bytes value => Sys2Proof.Machine.execCxlMemAccess write addr bytes value s
  | .nop => Sys2Proof.Machine.execNop s
  | .ret => Sys2Proof.Machine.execRet s
  | .join => Sys2Proof.Machine.execJoin s
  | .exit => Sys2Proof.Machine.execExit s
  | .yield => Sys2Proof.Machine.execYield s
  | .idemend => Sys2Proof.Machine.execIdemend s
  | .bkpt => Sys2Proof.Machine.execBkpt s
  | .tcommit => Sys2Proof.Machine.execTcommit s
  | .earlygo => Sys2Proof.Machine.execEarlygo s
  | .mbatch => Sys2Proof.Machine.execMbatch s
  | .tret => Sys2Proof.Machine.execTret s
  | .park => Sys2Proof.Machine.execPark s
  | .regionSwitchPoint => Sys2Proof.Machine.execRegionSwitchPoint s
  | .deviceReset => Sys2Proof.Machine.execDeviceReset s

end Sys2Proof.Machine
end

