-- ==== Sys2Proof/Machine/Step.lean ====
section
/-!
DEFINITION. Sys2Proof/Machine/Step.lean: one step of the machine: the next turn of the agenda, or the issue picker's choice.
-/

namespace Sys2Proof.Machine

open Sys2Proof

/-- A path's turn: the instruction it issues is executed. -/
def runFetched (f : Fetched) : Host.Outcome State Fault Refusal :=
  match f with
  | .run s i => exec i s
  | .stop s => .next s

/-- One step: the head of the agenda moves, or, when the agenda is empty, whichever path the picker takes. Only a step of the device
stands on the agenda as an event; an instruction word there does nothing. -/
def step (s : State) : Host.Outcome State Fault Refusal :=
  match s.agenda with
  | [] => runFetched s.pickTurn
  | .pick :: rest => runFetched { s with agenda := rest }.pickTurn
  | .issue g w slotB :: rest => runFetched ({ s with agenda := rest }.turn g w slotB)
  | .idle n :: rest => runFetched (s.idleTurn n rest)
  | .snoop true line :: rest => execSnpcur line { s with agenda := rest }
  | .snoop false line :: rest => execSnpdata line { s with agenda := rest }
  | .scanout head :: rest => .next ({ s with agenda := rest }.scanout head)
  | .latch head mode :: rest => execLatchPoint head mode { s with agenda := rest }
  | .governor die :: rest => .next ({ s with agenda := rest }.governTurn die)
  | .pipes core :: rest => .next ({ s with agenda := rest }.gatePipes core)
  | .replan die :: rest => .next ({ s with agenda := rest }.replanTurn die)
  | .migrate frame :: rest => .next ({ s with agenda := rest }.migrateSoon frame)
  | .peer port :: rest => .next ({ s with agenda := rest }.peerTurn port)
  | .service fault :: rest => .next ({ s with agenda := rest }.serveFault fault)
  | .timeout fault :: rest => .next ({ s with agenda := rest }.timeOut fault)
  | .gate core bank :: rest => execBankGate core bank { s with agenda := rest }
  | .launch queue slot :: rest => execLaunchRegister queue slot { s with agenda := rest }
  | .event i :: rest => if (encode i).isSome then .next { s with agenda := rest } else exec i { s with agenda := rest }

/-- The group that runs a placed program: a firmware group on core 0 of die 0, one wave of 32 lanes with a window of 192. -/
def placedGroup : Group :=
  { ctx := 0, code := ⟨0x1000, 32⟩,
    waves := [{ lanes := 0xFFFFFFFF#32, live := 0xFFFFFFFF#32, n := 192,
                slotA := some { pc := 4#32, mask := 0xFFFFFFFF#32, mode := modeStart } }] }

/-- The bytes of a comb with a word in slot 1, NOP in the other slots, and a control word of zeros. -/
def placedComb (w : Nat) : List Byte := natBytes 4 0 ++ natBytes 4 w ++ natBytes 24 0

/-- The state in which the next step issues the word `w`: a firmware wave of die 0 stands at slot 1 of a comb that holds it. This is
the load of a program from outside the machine. -/
def State.withFetchWord (s : State) (nbits w : Nat) : State :=
  { (s.setBytes (placed 0x1000 (placedComb (w % 2 ^ nbits)))).setDie 0 { s.die 0 with failed := false } with
    groups := s.groups.set 0 placedGroup
    tlb := s.tlb.erase (tlbKey 0 0x1000)
    faultResults := s.faultResults.filter fun r => r.g ≠ 0
    agenda := .issue 0 0 false :: s.agenda }

end Sys2Proof.Machine
end

