-- ==== Sys2Proof/Safety.lean ====
section
/-!
DEFINITION. Sys2Proof/Safety.lean: the terms in which the statements speak. What a safe run is; when the instruction of a path
issues normally; what an instruction that completes leaves of the machine; which registers it has written.
-/

namespace Sys2Proof

/-- A run from s of k steps meets no fault and no refusal. -/
def SafeFor (s : Machine.State) (k : Nat) : Prop := ∃ t, Host.Core.run core k s = .next t

/-- Every run from s is safe: a trap, an abort and a wait are next states of the OV9 (R357, R207, R36). -/
def Safe (s : Machine.State) : Prop := ∀ k, SafeFor s k

namespace Claims

open Machine

/-! ## When an instruction issues -/

/-- The lanes in which an instruction acts: those of S, or the whole path where the guard decides nothing. -/
def actingLanes (i : Instr) (c : Ctx) : LaneMask := if (shape i).guard then c.resultLanes i else c.act

/-- The instruction's registers fit into the checkpoint of the wave's transaction: 32 registers at most, and only an instruction
that acts in a member lane needs room (R205, R207). -/
def Room (i : Instr) (c : Ctx) : Prop :=
  ∀ t, c.w.tx = some t → actingLanes i c &&& t.members = 0#32 ∨ (t.shadowed c.w (writtenNames c.mode i)).shadow.length ≤ 32

/-- The path that is to issue in s, c, meets none of the causes of R138 at instruction i; no register of i waits in the scoreboard
(R136); no result of the path that is still in flight would be written behind i's own (R137); the checkpoint has room (R205). -/
structure Issues (i : Instr) (legal : ModeImage → Bool) (s : State) (c : Ctx) : Prop where
  acts : s.ctx? = some c
  clean : c.precheck i (legal c.mode) = none
  free : c.interlocked (readNames c.mode i ++ writtenNames c.mode i) = false
  inOrder : ∀ clk, latency c.mode i = .fixed clk → writesEarly clk (writtenNames c.mode i) c.p.inflight = []
  room : Room i c

/-! ## What it leaves -/

/-- Wave w is wave u with registers written, and with what the core notes of an issue: paths in the slots, the slot and the clk of
the issue, pacing and yielding of the slots, dead marks, poison, results under way, the checkpoint of the transaction. -/
def SameWave (u w : Wave) : Prop :=
  w = { u with v := w.v, k := w.k, q := w.q, slotA := w.slotA, slotB := w.slotB, lastB := w.lastB, issuedAt := w.issuedAt,
               paceA := w.paceA, paceB := w.paceB, yieldA := w.yieldA, yieldB := w.yieldB, flights := w.flights,
               dead := w.dead, poison := w.poison, scoreboard := w.scoreboard, tx := w.tx }

/-- The transaction of wave w is that of u; the checkpoint may have taken registers (R205). -/
def SameTx (u w : Wave) : Prop := w.tx = u.tx ∨ ∃ t sh, u.tx = some t ∧ w.tx = some { t with shadow := sh }

/-- State t is state s but for the waves of one group, the counters of the free values and of the operations, the count of its core's
vector issue (R446), and a result of wave wi that is yet to be written back. -/
structure SameDevice (gk wi : Nat) (s t : State) : Prop where
  rest : t = { s with groups := t.groups, free := t.free, serial := t.serial, agenda := t.agenda, vector := t.vector }
  groups : ∀ k, k ≠ gk → t.groups.find? k = s.groups.find? k
  vector : ∀ core, core ≠ coreOfGroup gk → t.vector.find? core = s.vector.find? core
  agenda : t.agenda = s.agenda ∨ ∃ n, t.agenda = s.agenda ++ [.event (.resultWriteback gk wi n)]

/-- The instruction of path e has completed; e holds the instruction's own effect on the device, the group and the wave (e is the
path as it issued where there is none but on registers). In t the wave is w, its path stands at `pc` with the lanes and the mode of e,
the other path of the wave has not moved, and nothing else differs from e. -/
structure Completed (e : Ctx) (pc : Word) (t : State) (w : Wave) : Prop where
  device : SameDevice e.gk e.wi e.s t
  group : t.groups.find? e.gk = some (e.g.setWave e.wi w)
  wave : SameWave e.w w
  tx : SameTx e.w w
  other : w.slot (!e.slotB) = e.w.slot (!e.slotB)
  path : ∃ p, w.slot e.slotB = some p ∧ p.pc = pc ∧ p.mask = e.act ∧ p.mode = e.mode

/-! ## Registers -/

/-- From u to w, exactly `count` registers from d on are written: in a v register the lanes given, a k register once with the value of the
lowest lane when there is one, and the sink c0 not at all (R139, R130). Word j of lane l is f j l. -/
def WritesRun (u w : Wave) (d : Reg) (count : Nat) (lanes : LaneMask) (f : Nat → Nat → Word) : Prop :=
  match d with
  | .v n =>
    (∀ r l, l < 32 → Tab.get 0#32 w.v (vKey r l) =
      if n.val ≤ r ∧ r < n.val + count ∧ lanes.getLsbD l = true then f (r - n.val) l else Tab.get 0#32 u.v (vKey r l)) ∧
    w.k = u.k ∧ w.q = u.q
  | .k n =>
    w.v = u.v ∧
    (∀ r, Tab.get 0#32 w.k r =
      if n.val ≤ r ∧ r < n.val + count ∧ lanes ≠ 0#32 then f (r - n.val) (lowestLane lanes) else Tab.get 0#32 u.k r) ∧
    w.q = u.q
  | .c _ => w.v = u.v ∧ w.k = u.k ∧ w.q = u.q

/-- Word j of a 64-bit result: the even register holds bits [31:0] (R61). -/
def halves (f : Nat → DWord) (j l : Nat) : Word := (f l).extractLsb' (32 * j) 32

/-- From u to w, exactly predicate q is written, in the lanes given, and not when it is q0 (R129). -/
def WritesPred (u w : Wave) (q : PredField) (lanes : LaneMask) (f : Nat → Bool) : Prop :=
  w.v = u.v ∧ w.k = u.k ∧
  ∀ r l, l < 32 → (Tab.get 0#32 w.q r).getLsbD l =
    if r = q.toNat ∧ r ≠ 0 ∧ lanes.getLsbD l = true then f l else (Tab.get 0#32 u.q r).getLsbD l

/-- No register is written. -/
def WritesNone (u w : Wave) : Prop := w.v = u.v ∧ w.k = u.k ∧ w.q = u.q

end Claims

end Sys2Proof
end

