-- ==== Sys2Proof/WellFormed.lean ====
section
/-!
DEFINITION. Sys2Proof/WellFormed.lean: the instructions whose operands the entries allow (R129 to R133). An operand's width and
alignment may follow the mode type, so well-formedness is stated under the mode image in force.
-/

namespace Sys2Proof

/-- A MODE word's image holds no reserved value (R133). -/
def imageOk : Instr → Bool
  | .mode x => modeLegal x
  | _ => true

/-- The instruction is an instruction word, its image is legal, and each field names an operand that its entry accepts. -/
def wellFormed (mode : ModeImage) (i : Instr) : Bool :=
  (encode i).isSome && imageOk i && (Machine.operandFault mode i).isNone

end Sys2Proof
end

