-- ==== Sys2Proof/Certificates/Slice0/Obligations.lean ====
section
/-!
DEFINITION. Sys2Proof/Certificates/Slice0/Obligations.lean: the statements about the machine. The terms they are written in stand in
Sys2Proof/Safety.lean: `Issues` says on the state and the operands alone when an instruction meets no cause, `Completed` is the frame.
-/

/-! ## Rows 0x1 to 0x3: integer arithmetic, bits, lanes, compares, predicates (R153 to R160) -/

namespace Sys2Proof.Claims

open Machine

/-- The signed value s(a) of a word (R139). -/
def sgn (a : Word) : Int := if a.toNat < 2 ^ 31 then (a.toNat : Int) else (a.toNat : Int) - 2 ^ 32

/-- R153 for each instruction of row 0x1: its fields D, A and B, and what its result x is to a, b and D's own value. -/
def Row1 : Instr → Option (Reg × Reg × Reg × (Word → Word → Word → Word → Prop))
  | .iadd d a b => some (d, a, b, fun a b _ x => x.toNat = (a.toNat + b.toNat) % 2 ^ 32)
  | .isub d a b => some (d, a, b, fun a b _ x => (x.toNat : Int) = ((a.toNat : Int) - b.toNat) % 2 ^ 32)
  | .imul d a b => some (d, a, b, fun a b _ x => x.toNat = a.toNat * b.toNat % 2 ^ 32)
  | .imulhi d a b => some (d, a, b, fun a b _ x => (x.toNat : Int) = sgn a * sgn b / 2 ^ 32 % 2 ^ 32)
  | .nmulhi d a b => some (d, a, b, fun a b _ x => x.toNat = a.toNat * b.toNat / 2 ^ 32)
  | .imad d a b => some (d, a, b, fun a b d x => x.toNat = (a.toNat * b.toNat + d.toNat) % 2 ^ 32)
  | .shl d a b => some (d, a, b, fun a b _ x => x.toNat = a.toNat * 2 ^ (b.toNat % 32) % 2 ^ 32)
  | .shr d a b => some (d, a, b, fun a b _ x => x.toNat = a.toNat / 2 ^ (b.toNat % 32))
  | .sar d a b => some (d, a, b, fun a b _ x => sgn x = sgn a / 2 ^ (b.toNat % 32))
  | .andW d a b => some (d, a, b, fun a b _ x => ∀ i, i < 32 → x.getLsbD i = (a.getLsbD i && b.getLsbD i))
  | .orW d a b => some (d, a, b, fun a b _ x => ∀ i, i < 32 → x.getLsbD i = (a.getLsbD i || b.getLsbD i))
  | .xorW d a b => some (d, a, b, fun a b _ x => ∀ i, i < 32 → x.getLsbD i = (a.getLsbD i != b.getLsbD i))
  | .imin d a b => some (d, a, b, fun a b _ x => (x = a ∨ x = b) ∧ sgn x = min (sgn a) (sgn b))
  | .imax d a b => some (d, a, b, fun a b _ x => (x = a ∨ x = b) ∧ sgn x = max (sgn a) (sgn b))
  | .nmin d a b => some (d, a, b, fun a b _ x => x.toNat = min a.toNat b.toNat)
  | .nmax d a b => some (d, a, b, fun a b _ x => x.toNat = max a.toNat b.toNat)
  | _ => none

/-- R154 and R155 for the one-register instructions 0x20 to 0x24. POPC, CLZ and BREV have no B. -/
def Bits1 : Instr → Option (Reg × Reg × Reg × (Word → Word → Word → Word → Prop))
  | .popc d a => some (d, a, .c 0, fun a _ _ x => x.toNat = ((List.range 32).filter fun i => a.getLsbD i).length)
  | .clz d a => some (d, a, .c 0, fun a _ _ x =>
      x.toNat ≤ 32 ∧ (∀ i, i < 32 → 32 ≤ i + x.toNat → a.getLsbD i = false) ∧ (x.toNat < 32 → a.getLsbD (31 - x.toNat) = true))
  | .brev d a => some (d, a, .c 0, fun a _ _ x => ∀ i, i < 32 → x.getLsbD i = a.getLsbD (31 - i))
  | .bfx d a b => some (d, a, b, fun a b _ x => x.toNat = a.toNat / 2 ^ (b.toNat % 32) % 2 ^ (b.toNat / 32 % 32 + 1))
  | .bfi d a b => some (d, a, b, fun a b d x => ∀ i, i < 32 → x.getLsbD i =
      if b.toNat % 32 ≤ i ∧ i < b.toNat % 32 + (b.toNat / 32 % 32 + 1) then a.getLsbD (i - b.toNat % 32) else d.getLsbD i)
  | _ => none

/-- Every lane of S of an instruction's table row gets the row's result, nothing else of the machine changes, and the path goes on. -/
def ResultRow (row : Instr → Option (Reg × Reg × Reg × (Word → Word → Word → Word → Prop))) : Prop :=
  ∀ (i : Instr) (d a b : Reg) (R : Word → Word → Word → Word → Prop), row i = some (d, a, b, R) →
    ∀ (s : State) (c : Ctx), Issues i anyType s c →
      ∃ (t : State) (w : Wave) (x : Nat → Word), exec i s = .next t ∧ Completed c c.cur.next t w ∧
        WritesRun c.w w d 1 c.S (fun _ l => x l) ∧ ∀ l, R (c.val a l) (c.val b l) (c.val d l) (x l)

/-- What a predicate or a bit instruction of row 0x3 writes to bit l: R159. -/
def Row3 (c : Ctx) : Instr → Option (PredField × (Nat → Bool → Prop))
  | .icmpeq q a b => some (q, fun l y => y = true ↔ (c.val a l).toNat = (c.val b l).toNat)
  | .icmpne q a b => some (q, fun l y => y = true ↔ (c.val a l).toNat ≠ (c.val b l).toNat)
  | .icmplt q a b => some (q, fun l y => y = true ↔ sgn (c.val a l) < sgn (c.val b l))
  | .icmple q a b => some (q, fun l y => y = true ↔ sgn (c.val a l) ≤ sgn (c.val b l))
  | .ncmplt q a b => some (q, fun l y => y = true ↔ (c.val a l).toNat < (c.val b l).toNat)
  | .ncmple q a b => some (q, fun l y => y = true ↔ (c.val a l).toNat ≤ (c.val b l).toNat)
  | .qand q a b => some (q, fun l y => y = ((c.readQ a.toNat).getLsbD l && (c.readQ b.toNat).getLsbD l))
  | .qor q a b => some (q, fun l y => y = ((c.readQ a.toNat).getLsbD l || (c.readQ b.toNat).getLsbD l))
  | .qxor q a b => some (q, fun l y => y = ((c.readQ a.toNat).getLsbD l != (c.readQ b.toNat).getLsbD l))
  | .vtoq q a => some (q, fun l y => y = true ↔ (c.val a l).toNat ≠ 0)
  | .vany q a => some (q, fun _ y => y = true ↔ ∃ j, j < 32 ∧ c.S.getLsbD j = true ∧ (c.val a j).toNat ≠ 0)
  | .vall q a => some (q, fun _ y => y = true ↔ ∀ j, j < 32 → c.S.getLsbD j = true → (c.val a j).toNat ≠ 0)
  | _ => none

/-- What R154 gives for a pair instruction: the pair's value in lane l. -/
def Pair2 (c : Ctx) : Instr → Option (Reg × (Nat → Nat))
  | .add64 d a b => some (d, fun l => ((c.val64 a l).toNat + (c.val64 b l).toNat) % 2 ^ 64)
  | .sub64 d a b => some (d, fun l => (2 ^ 64 + (c.val64 a l).toNat - (c.val64 b l).toNat) % 2 ^ 64)
  | .mad64 d a b => some (d, fun l => ((c.val64 d l).toNat + (c.val a l).toNat * (c.val b l).toNat) % 2 ^ 64)
  | _ => none

/-- What R157 and R159 give for an instruction that moves values between lanes: the destination, the lanes written, the values. -/
def LaneRow (c : Ctx) : Instr → Option (Reg × LaneMask × (Nat → Word))
  | .sel d a b => some (d, c.act, fun l => if c.guard.getLsbD l then c.val a l else c.val b l)
  | .mov d a => some (d, c.S, fun l => c.val a l)
  | .movu d a b => some (d, c.S, fun _ => c.val a ((c.val b 0).toNat % 32))
  | .shuf d a b => some (d, c.S, fun l => c.val a ((c.val b l).toNat % 32))
  | .shufx d a b => some (d, c.S, fun l => c.val a (l ^^^ (c.val b 0).toNat % 32))
  | .ballot d a => some (d, c.S, fun _ => laneSet fun l => c.S.getLsbD l && c.val a l != 0#32)
  | .qtov d a => some (d, c.S, fun l => if (c.readQ a.toNat).getLsbD l then 1#32 else 0#32)
  | _ => none

/-- The order of the values of two floats, by cross-multiplication; a NaN is in no order. -/
def FloatLess : FV → FV → Prop
  | .fin m a b, .fin n c d => (if m then -(a : Int) else a) * d < (if n then -(c : Int) else c) * b
  | .fin _ _ _, .inf n => n = false
  | .inf m, .fin _ _ _ => m = true
  | .inf m, .inf n => m = true ∧ n = false
  | _, _ => False

/-- The equality of the values of two floats: a NaN equals nothing and the zeros are equal. -/
def FloatEqual : FV → FV → Prop
  | .fin m a b, .fin n c d => (if m then -(a : Int) else a) * d = (if n then -(c : Int) else c) * b
  | .inf m, .inf n => m = n
  | _, _ => False

/-- R160 for each typed compare: the fields, and when the bit is 1 for float operands and for integer operands. -/
def TypedCompareRow : Instr → Option (PredField × Reg × Reg × (FV → FV → Prop) × (Int → Int → Prop))
  | .cmpeq q a b => some (q, a, b, FloatEqual, fun x y => x = y)
  | .cmpne q a b => some (q, a, b, fun x y => ¬FloatEqual x y, fun x y => x ≠ y)
  | .cmplt q a b => some (q, a, b, FloatLess, fun x y => x < y)
  | .cmple q a b => some (q, a, b, fun x y => FloatLess x y ∨ FloatEqual x y, fun x y => x ≤ y)
  | .cmpun q a b => some (q, a, b, fun x y => x = .nan ∨ y = .nan, fun _ _ => False)
  | _ => none

/-- Its bit for two operands of a type code. -/
def compareBit (F : FV → FV → Prop) (I : Int → Int → Prop) (code : Nat) (ftz : Bool) (x y : Nat) : Prop :=
  match elemOf code with
  | .float f => F (f.value ftz (x % 2 ^ f.bits)) (f.value ftz (y % 2 ^ f.bits))
  | .int true w => I (signedOf w x) (signedOf w y)
  | .int false _ => I x y

end Sys2Proof.Claims

open Sys2Proof Sys2Proof.Machine Sys2Proof.Claims in
/-- Row 0x1 gives in every lane of S the word of R153's table, to D alone.

POPC, CLZ, BREV, BFX and BFI give in every lane of S what R154 and R155 say, to D alone.

ADD64, SUB64 and MAD64 give in every lane of S the 64-bit value of R154's table, to the pair D alone. -/
def Obligations.IntegerResults : Prop :=
  (ResultRow Row1) ∧
  (ResultRow Bits1) ∧
  (∀ (i : Instr) (s : State) (c : Ctx) (d : Reg) (F : Nat → Nat), Issues i anyType s c → Pair2 c i = some (d, F) →
      ∃ (t : State) (w : Wave), exec i s = .next t ∧ Completed c c.cur.next t w ∧
        WritesRun c.w w d 2 c.S (halves fun l => BitVec.ofNat 64 (F l)))

open Sys2Proof Sys2Proof.Machine Sys2Proof.Claims in
/-- SEL, MOV, MOVU, SHUF, SHUFX, BALLOT and QTOV write the values of R157 and R159: SEL in every active lane, the others in S; values
of other lanes are taken whatever those lanes' state.

The integer compares, the predicate operations, VTOQ, VANY and VALL write in each lane of S the bit of R159 and R157, to predicate
D alone, and nothing when D is q0.
A point the manual leaves open is as log entry 18 says. -/
def Obligations.LaneAndPredicateResults : Prop :=
  (∀ (i : Instr) (s : State) (c : Ctx) (d : Reg) (lanes : LaneMask) (f : Nat → Word), Issues i anyType s c →
      LaneRow c i = some (d, lanes, f) →
        ∃ (t : State) (w : Wave), exec i s = .next t ∧ Completed c c.cur.next t w ∧ WritesRun c.w w d 1 lanes fun _ l => f l) ∧
  (∀ (i : Instr) (s : State) (c : Ctx) (q : PredField) (R : Nat → Bool → Prop), Issues i anyType s c → Row3 c i = some (q, R) →
      ∃ (t : State) (w : Wave) (y : Nat → Bool), exec i s = .next t ∧ Completed c c.cur.next t w ∧ WritesPred c.w w q c.S y ∧
        ∀ l, R l (y l))

/-! ## Rows 0x4 and 0x5: typed arithmetic (R161 to R179) -/

namespace Sys2Proof.Claims

open Machine

/-- What an entry of rows 0x4 and 0x5 says: the destination; whether the instruction takes a generator step per element under rsr; the
type codes it is defined for (R163); whether the destination is a pair; how many elements of how many bits the result has; element
e of lane l, under a rounding. -/
structure TypedRow where
  d : Reg
  steps : Bool
  legal : List Nat
  wide : Bool
  count : Nat
  width : Nat
  elem : Nat → Rounding → Nat → Nat

/-- The columns of R163. -/
def allTypes : List Nat := List.range 16
def divTypes : List Nat := [0x0, 0x1, 0x2, 0x5, 0x6, 0x7, 0x8, 0x9, 0xA, 0xB, 0xC, 0xD, 0xE, 0xF]
def floatTypes : List Nat := [0x0, 0x1, 0x2, 0x5, 0xA, 0xB]
def approxTypes : List Nat := [0x0, 0x1, 0x2, 0xA, 0xB]
def packedTypes : List Nat := [0x3, 0x4, 0xA, 0xB, 0xC, 0xD, 0xE, 0xF]

/-- An instruction whose result has the elements of the mode type, each from the same elements of A, B and D (R161). -/
def mapped (c : Ctx) (legal : List Nat) (steps : Bool) (d a b : Reg) (f : Elem → Rounding → Nat → Nat → Nat → Nat) : TypedRow :=
  let code := modeType c.mode
  let el := elemOf code
  { d := d, steps := steps, legal := legal, wide := type64 code, count := elementCount code, width := el.width
    elem := fun l r e => f el r (elemAt el.width (c.valT code a l) e) (elemAt el.width (c.valT code b l) e)
      (elemAt el.width (c.valT code d l) e) }

/-- The entries of rows 0x4 and 0x5. One-operand instructions have no B. -/
def typedRow (c : Ctx) : Instr → Option TypedRow
  | .addT d a b => some (mapped c allTypes true d a b addElem)
  | .subT d a b => some (mapped c allTypes true d a b subElem)
  | .mulT d a b => some (mapped c allTypes true d a b fun el r a b _ => mulElem el r a b)
  | .fma d a b => some (mapped c allTypes true d a b fmaElem)
  | .fms d a b => some (mapped c allTypes true d a b fmsElem)
  | .fnma d a b => some (mapped c allTypes true d a b fnmaElem)
  | .minT d a b => some (mapped c allTypes false d a b fun el r a b _ => minMaxElem false el r.ftz a b)
  | .maxT d a b => some (mapped c allTypes false d a b fun el r a b _ => minMaxElem true el r.ftz a b)
  | .absT d a => some (mapped c allTypes false d a (.c 0) fun el r a _ _ => absElem el r a)
  | .negT d a => some (mapped c allTypes false d a (.c 0) fun el r a _ _ => negElem el r a)
  | .clamp d a b => some (mapped c allTypes false d a b fun el r a b d =>
      minMaxElem false el r.ftz (minMaxElem true el r.ftz d a) b)
  | .divT d a b => some (mapped c divTypes true d a b fun el r a b _ => divElem el r a b)
  | .sqrt d a => some (mapped c floatTypes true d a (.c 0) fun el r a _ _ => sqrtElem el r a)
  | .rcp d a => some (mapped c approxTypes false d a (.c 0) fun el r a _ _ => approxElem .rcp el r a)
  | .rsq d a => some (mapped c approxTypes false d a (.c 0) fun el r a _ _ => approxElem .rsq el r a)
  | .exp2 d a => some (mapped c approxTypes false d a (.c 0) fun el r a _ _ => approxElem .exp2 el r a)
  | .log2 d a => some (mapped c approxTypes false d a (.c 0) fun el r a _ _ => approxElem .log2 el r a)
  | .sinpi d a => some (mapped c approxTypes false d a (.c 0) fun el r a _ _ => approxElem .sinpi el r a)
  | .cospi d a => some (mapped c approxTypes false d a (.c 0) fun el r a _ _ => approxElem .cospi el r a)
  | .fract d a => some (mapped c floatTypes true d a (.c 0) fun el r a _ _ => fractElem el r a)
  | .floor d a => some (mapped c floatTypes true d a (.c 0) fun el r a _ _ => integralElem 3 el r a)
  | .ceil d a => some (mapped c floatTypes true d a (.c 0) fun el r a _ _ => integralElem 2 el r a)
  | .trunc d a => some (mapped c floatTypes true d a (.c 0) fun el r a _ _ => integralElem 1 el r a)
  | .rint d a => some (mapped c floatTypes true d a (.c 0) fun el r a _ _ => integralElem r.round el r a)
  | .cvt d a b =>
    let code := modeType c.mode
    some { d := d, steps := true, legal := allTypes.filter fun k => elementCount b.toNat == elementCount k, wide := type64 code
           count := elementCount code, width := (elemOf code).width
           elem := fun l r e => convertElem r (elemOf b.toNat) (elemOf code) (elemAt (elemOf b.toNat).width (c.valT b.toNat a l) e) }
  | .pack d a b =>
    let code := modeType c.mode
    let half := elementCount code / 2
    let w := (widerElem code).width
    some { d := d, steps := true, legal := packedTypes, wide := false, count := elementCount code, width := (elemOf code).width
           elem := fun l r e => convertElem r (widerElem code) (elemOf code)
             (if e < half then elemAt w (c.val a l).toNat e else elemAt w (c.val b l).toNat (e - half)) }
  | .unpacklo d a =>
    let code := modeType c.mode
    some { d := d, steps := false, legal := packedTypes, wide := false, count := elementCount code / 2, width := (widerElem code).width
           elem := fun l r e => convertElem ⟨0, false, r.ftz, none⟩ (elemOf code) (widerElem code)
             (elemAt (elemOf code).width (c.val a l).toNat e) }
  | .unpackhi d a =>
    let code := modeType c.mode
    some { d := d, steps := false, legal := packedTypes, wide := false, count := elementCount code / 2, width := (widerElem code).width
           elem := fun l r e => convertElem ⟨0, false, r.ftz, none⟩ (elemOf code) (widerElem code)
             (elemAt (elemOf code).width (c.val a l).toNat (elementCount code / 2 + e)) }
  | .dot2 d a b => some { d := d, steps := true, legal := [0xA, 0xB, 0xC, 0xD], wide := false, count := 1, width := 32
                          elem := fun l r _ => dotElem 2 (elemOf (modeType c.mode)) r (c.val a l).toNat (c.val b l).toNat (c.val d l).toNat }
  | .dot4 d a b => some { d := d, steps := true, legal := [0x3, 0x4, 0xE, 0xF], wide := false, count := 1, width := 32
                          elem := fun l r _ => dotElem 4 (elemOf (modeType c.mode)) r (c.val a l).toNat (c.val b l).toNat (c.val d l).toNat }
  | .scaleb d a b =>
    let code := modeType c.mode
    let w := (elemOf code).width
    some { d := d, steps := true, legal := floatTypes, wide := type64 code, count := elementCount code, width := w
           elem := fun l r e => scalebElem (elemOf code) r (elemAt w (c.valT code a l) e) (c.val b l) }
  | .classT d a => some { d := d, steps := true, legal := [0x0, 0x1, 0x2, 0x5], wide := false, count := 1, width := 32
                          elem := fun l _ _ => match elemOf (modeType c.mode) with
                            | .float f => 2 ^ f.classBit (c.valT (modeType c.mode) a l % 2 ^ f.bits)
                            | .int _ _ => 0 }
  | _ => none

/-- The n-th state of a generator after g (R72). -/
def drawn (g : Word) : Nat → Word
  | 0 => g
  | n + 1 => stepLane (drawn g n)

/-- The lanes that compute: S, or its lowest lane for a k destination (R161). -/
def computes (c : Ctx) (d : Reg) (l : Nat) : Prop :=
  c.S.getLsbD l = true ∧ match d with | .k _ => l = lowestLane c.S | _ => True

/-- The rounding of element e in lane l: the mode's, and under rsr the generator's step for that element. -/
def roundingAt (c : Ctx) (steps : Bool) (l e : Nat) : Rounding :=
  if steps && modeRound c.mode = 5 then { roundingOf c.mode with draw := some (drawn (c.w.generatorOf l) (e + 1)) } else roundingOf c.mode

end Sys2Proof.Claims

open Sys2Proof Sys2Proof.Machine Sys2Proof.Claims in
/-- The typed compares write in each lane of S the bit of R160 for the mode's type and `ftz`.

Every instruction of rows 0x4 and 0x5, under a type that R163 gives it, writes to D alone, in each lane that computes, the elements
of its entry side by side with zeros above them; under rsr the generators of exactly those lanes step once per element, if the
entry has them step.
Points the manual leaves open are as log entries 15, 19, 20 say. -/
def Obligations.TypedResults : Prop :=
  (∀ (i : Instr) (q : PredField) (a b : Reg) (F : FV → FV → Prop) (I : Int → Int → Prop), TypedCompareRow i = some (q, a, b, F, I) →
      ∀ (s : State) (c : Ctx), Issues i scalarType s c →
        ∃ (t : State) (w : Wave) (y : Nat → Bool), exec i s = .next t ∧ Completed c c.cur.next t w ∧ WritesPred c.w w q c.S y ∧
          ∀ l, y l = true ↔ compareBit F I (modeType c.mode) (modeFtz c.mode) (c.valT (modeType c.mode) a l)
            (c.valT (modeType c.mode) b l)) ∧
  (∀ (i : Instr) (s : State) (c : Ctx) (row : TypedRow), typedRow c i = some row →
      Issues i (fun m => row.legal.contains (modeType m)) s c →
        ∃ (t : State) (w : Wave) (gen : Tab Word) (x : Nat → Nat), exec i s = .next t ∧
          Completed { c with w := { c.w with generator := gen } } c.cur.next t w ∧
          WritesRun c.w w row.d (if row.wide then 2 else 1) c.S (halves fun l => BitVec.ofNat 64 (x l)) ∧
          (∀ l, l < 32 → computes c row.d l → x l < 2 ^ (row.width * row.count) ∧
            ∀ e, e < row.count → elemAt row.width (x l) e = row.elem l (roundingAt c row.steps l e) e % 2 ^ row.width) ∧
          ∀ l, l < 32 →
            (computes c row.d l ∧ row.steps = true ∧ modeRound c.mode = 5 →
              Tab.get (seedLane 0#32 l) gen l = drawn (c.w.generatorOf l) row.count) ∧
            (¬(computes c row.d l ∧ row.steps = true ∧ modeRound c.mode = 5) →
              Tab.get (seedLane 0#32 l) gen l = c.w.generatorOf l))

open Sys2Proof Sys2Proof.Machine Sys2Proof.Claims in
/-- Integer elements: the exact result of ADD, SUB, MUL, FMA, FMS, FNMA, NEG and of ABS on a signed type, as an unbounded integer, is
reduced to the type: modulo 2^w, or clamped to the type's range under `sat` (R166, R168, R74). -/
def Obligations.IntegerElements : Prop :=
  ∀ (signed : Bool) (w : Nat) (r : Rounding) (a b d : Nat), w ∈ [8, 16, 32, 64] → a < 2 ^ w → b < 2 ^ w → d < 2 ^ w →
    let el := Elem.int signed w
    let x := intValue signed w a
    let y := intValue signed w b
    let z := intValue signed w d
    let lo : Int := if signed then -(2 ^ (w - 1)) else 0
    let hi : Int := if signed then 2 ^ (w - 1) - 1 else 2 ^ w - 1
    ∀ p ∈ [(addElem el r a b d, x + y), (subElem el r a b d, x - y), (mulElem el r a b, x * y), (fmaElem el r a b d, x * y + z),
           (fmsElem el r a b d, x * y - z), (fnmaElem el r a b d, z - x * y), (negElem el r a, -x),
           (absElem el r a, if signed then (x.natAbs : Int) else x)],
      p.1 < 2 ^ w ∧
        if r.sat then intValue signed w p.1 = max lo (min hi p.2)
        else ((intValue signed w p.1 - p.2) % 2 ^ w = 0 ∧ lo ≤ intValue signed w p.1 ∧ intValue signed w p.1 ≤ hi)

open Sys2Proof Sys2Proof.Machine Sys2Proof.Claims in
/-- Float elements: 0 × inf, inf − inf, 0 ÷ 0, inf ÷ inf, the square root below zero and every NaN operand give the canonical NaN; a
finite non-zero number divided by zero gives an infinity with the quotient's sign, when `sat` is clear and the format has infinities;
MIN and MAX return the other operand beside one NaN, and order −0 below +0 (R65, R66, R169). -/
def Obligations.FloatSpecialCases : Prop :=
  ∀ (f : Fmt) (r : Rounding) (a b d : Nat), f ∈ [fmtF64, fmtF32, fmtF16, fmtBf16, fmtE5M2, fmtE4M3] →
    a < 2 ^ f.bits → b < 2 ^ f.bits → d < 2 ^ f.bits →
    let v := f.value r.ftz
    let zero := fun x n => ∃ den, v x = .fin n 0 den
    (v a = .nan ∨ v b = .nan →
      addElem (.float f) r a b d = f.nan ∧ subElem (.float f) r a b d = f.nan ∧ mulElem (.float f) r a b = f.nan ∧
        divElem (.float f) r a b = f.nan) ∧
    (v a = .nan ∨ v b = .nan ∨ v d = .nan →
      fmaElem (.float f) r a b d = f.nan ∧ fmsElem (.float f) r a b d = f.nan ∧ fnmaElem (.float f) r a b d = f.nan) ∧
    (v a = .nan ∨ v a = .inf true ∨ (∃ num den, v a = .fin true num den ∧ num ≠ 0) → sqrtElem (.float f) r a = f.nan) ∧
    (∀ m n, zero a m → v b = .inf n → mulElem (.float f) r a b = f.nan ∧ mulElem (.float f) r b a = f.nan) ∧
    (v a = .inf false → v b = .inf true → addElem (.float f) r a b d = f.nan) ∧
    (∀ m, v a = .inf m → v b = .inf m → subElem (.float f) r a b d = f.nan) ∧
    (∀ m n, v a = .inf m → v b = .inf n → divElem (.float f) r a b = f.nan) ∧
    (∀ m n, zero a m → zero b n → divElem (.float f) r a b = f.nan) ∧
    (∀ m n num den, v a = .fin m num den → num ≠ 0 → zero b n → r.sat = false → f.hasInf = true →
      v (divElem (.float f) r a b) = .inf (m != n)) ∧
    (v a = .nan → v b = .nan → ∀ isMax, minMaxElem isMax (.float f) r.ftz a b = f.nan) ∧
    (v a = .nan → v b ≠ .nan → (∀ n, ¬zero b n) →
      ∀ isMax, minMaxElem isMax (.float f) r.ftz a b = b ∧ minMaxElem isMax (.float f) r.ftz b a = b) ∧
    (zero a true → zero b false →
      ∀ isMax, zero (minMaxElem isMax (.float f) r.ftz a b) (!isMax) ∧ zero (minMaxElem isMax (.float f) r.ftz b a) (!isMax))

open Sys2Proof Sys2Proof.Machine Sys2Proof.Claims in
/-- Rounding to nearest: the encoding that round gives for a non-negative quotient under rne, when it is finite, holds a value that no
finite encoding of the format beats; between two as near, it is the one whose significand is even (R68). -/
def Obligations.RoundToNearest : Prop :=
  ∀ (f : Fmt) (num den y a b : Nat), f ∈ [fmtF64, fmtF32, fmtF16, fmtBf16, fmtE5M2, fmtE4M3] → 0 < den →
    f.roundMag ⟨0, false, false, none⟩ false (.quot num den) = y → y ≤ f.max → f.value false y = .fin false a b →
      ∀ z p q, z ≤ f.max → f.value false z = .fin false p q →
        ((a : Int) * den - num * b).natAbs * q ≤ ((p : Int) * den - num * q).natAbs * b ∧
          (((a : Int) * den - num * b).natAbs * q = ((p : Int) * den - num * q).natAbs * b → z ≠ y → y % 2 = 0)

/-! ## Row 0x0: control (R31 to R35, R141 to R150) -/

namespace Sys2Proof.Claims

open Machine

/-- Wave wi of the group with key gk. -/
def waveOf (s : State) (gk wi : Nat) : Option Wave := (s.groups.find? gk).bind fun g => g.waves[wi]?

/-- The effect of the instructions of row 0x0 that go on in straight-line order and write no register: the mode of the slot, the region
state of the wave, a marker record while the context's trace has markers on. -/
def straightEffect (c : Ctx) : Instr → Option Ctx
  | .nop => some c
  | .yield => some c
  | .mode x => some { c with p := { c.p with mode := x } }
  | .mark id =>
    some (if (c.s.context c.g.ctx).traceCfg.getLsbD 8 then { c with s := c.s.traceRecord c.g.ctx (markerBytes c.g.linear id.toNat) } else c)
  | .idem id => some { c with w := { c.w with idemIn := true, idemId := id, idemPc := c.p.pc } }
  | .idemend => some { c with w := { c.w with idemIn := false } }
  | _ => none

/-- The target of a branch as a code offset, and whether it is a call (R142). -/
def branchTarget (c : Ctx) : Instr → Option (Int × Bool)
  | .bra disp => some ((c.p.pc.toNat : Int) + 4 * disp.toInt, false)
  | .brx a => some ((c.val a 0).toNat, false)
  | .call disp => some ((c.p.pc.toNat : Int) + 4 * disp.toInt, true)
  | .ret => some ((c.readK 31).toNat, false)
  | _ => none

/-- The target lies in the code image, is a multiple of 4, and names neither word 0 of a comb nor a literal slot (R140). -/
def goodTarget (c : Ctx) (x : Int) : Prop :=
  0 ≤ x ∧ x % 4 = 0 ∧ x < c.code.len ∧ x % 32 ≠ 0 ∧ c.s.literalSlot c.codeAsid (c.code.base + x.toNat / 32 * 32) (x.toNat / 4 % 8) = false

/-- k31 holds the return point when the branch is a call that takes a lane; no other register is written (R143). -/
def WritesLink (c : Ctx) (w : Wave) (call : Bool) : Prop :=
  if call = true ∧ c.S ≠ 0#32 then WritesRun c.w w (.k 31) 1 0xFFFFFFFF#32 fun _ _ => c.cur.next else WritesNone c.w w

end Sys2Proof.Claims

open Sys2Proof Sys2Proof.Machine Sys2Proof.Claims in
/-- NOP, YIELD, MODE, MARK, IDEM and IDEMEND complete with the effect that R133, R149 and R150 give them and write no register.

LDLIT writes the word of the following slot to D in the lanes of S: a k register when one passes, c0 never (R141). -/
def Obligations.StraightControl : Prop :=
  (∀ (i : Instr) (s : State) (c e : Ctx), Issues i anyType s c → straightEffect c i = some e →
      ∃ (t : State) (w : Wave), exec i s = .next t ∧ Completed e c.cur.next t w ∧ WritesNone c.w w) ∧
  (∀ (d : Reg) (s : State) (c : Ctx), Issues (.ldlit d) anyType s c →
      ∃ (t : State) (w : Wave), exec (.ldlit d) s = .next t ∧ Completed c c.cur.next t w ∧
        WritesRun c.w w d 1 c.S fun _ _ => c.cur.literal)

open Sys2Proof Sys2Proof.Machine Sys2Proof.Claims in
/-- BRA, BRX, CALL and RET to a legal target: with no lane taken the path falls through; with every lane taken it goes to the target;
else, while the other slot is free, the taken lanes become its path at the target in the slot's mode and the others go on here. CALL
writes k31 when a lane is taken (R31, R142, R143).

A branch to any other target raises BAD_TARGET, whatever lanes it takes (R140).

While the other slot is occupied, the taken lanes join the stack's entry at the target with the slot's mode, on the chip; when no
entry has that PC and mode and 64 stand on the stack, the branch traps STACK_OVERFLOW and no lane moves (R31). -/
def Obligations.BranchResults : Prop :=
  (∀ (i : Instr) (s : State) (c : Ctx) (x : Int) (call : Bool), Issues i anyType s c → branchTarget c i = some (x, call) → goodTarget c x →
      (c.S = 0#32 → ∃ (t : State) (w : Wave), exec i s = .next t ∧ Completed c c.cur.next t w ∧ WritesLink c w call) ∧
      (c.S ≠ 0#32 → c.S = c.act →
        ∃ (t : State) (w : Wave), exec i s = .next t ∧ Completed c (BitVec.ofInt 32 x) t w ∧ WritesLink c w call) ∧
      (c.S ≠ 0#32 → c.S ≠ c.act → c.w.slot (!c.slotB) = none →
        ∃ (t : State) (w : Wave) (p : Path), exec i s = .next t ∧
          Completed { c with p := { c.p with mask := c.act &&& ~~~c.S }, w := c.w.setSlot (!c.slotB) (some p) } c.cur.next t w ∧
          p.pc = BitVec.ofInt 32 x ∧ p.mask = c.S ∧ p.mode = c.mode ∧ WritesLink c w call)) ∧
  (∀ (i : Instr) (s : State) (c : Ctx) (x : Int) (call : Bool), Issues i anyType s c → branchTarget c i = some (x, call) → ¬goodTarget c x →
      exec i s = .next (c.raise ⟨causeBadTarget, 0, wrapBits 64 (c.code.base + x), c.act⟩)) ∧
  (∀ (i : Instr) (s : State) (c : Ctx) (x : Int) (call : Bool), Issues i anyType s c → branchTarget c i = some (x, call) → goodTarget c x →
      c.S ≠ 0#32 → c.S ≠ c.act → c.w.slot (!c.slotB) ≠ none →
      (∀ (l r : List Entry) (e : Entry), c.w.stack = l ++ e :: r → e.pc = BitVec.ofInt 32 x → e.mode = c.mode →
          (∀ o ∈ l, ¬(o.pc = BitVec.ofInt 32 x ∧ o.mode = c.mode)) →
        ∃ (t : State) (w : Wave), exec i s = .next t ∧
          Completed { c with p := { c.p with mask := c.act &&& ~~~c.S },
                             w := { c.w with stack := l ++ { e with mask := e.mask ||| c.S } :: r } } c.cur.next t w ∧
          WritesLink c w call) ∧
      ((∀ e ∈ c.w.entries, ¬(e.pc = BitVec.ofInt 32 x ∧ e.mode = c.mode)) → 64 ≤ c.w.stackCount →
        exec i s = .next (c.raise ⟨causeStackOverflow, 0, wrapBits 64 (c.code.base + x), c.act⟩)))

open Sys2Proof Sys2Proof.Machine Sys2Proof.Claims in
/-- EXIT ends exactly the lanes of S. While lanes of the wave are left, the ended ones stand in no slot, the slot's other lanes go on behind
the EXIT, and registers and memory are as before; when none is left, the wave holds no path (R35, R145). -/
def Obligations.ExitResult : Prop :=
  ∀ (s : State) (c : Ctx), Issues .exit anyType s c → c.w.unplaced = none →
    ∃ (t : State) (w : Wave), exec .exit s = .next t ∧ waveOf t c.gk c.wi = some w ∧ w.live = c.w.live &&& ~~~c.S ∧
      (c.w.live &&& ~~~c.S ≠ 0#32 →
        (c.S ≠ 0#32 → ∀ b p, w.slot b = some p → p.mask &&& c.S = 0#32) ∧
        (c.act &&& ~~~c.S ≠ 0#32 →
          ∃ p, w.slot c.slotB = some p ∧ p.pc = c.cur.next ∧ p.mask = c.act &&& ~~~c.S ∧ p.mode = c.mode) ∧
        WritesNone c.w w ∧ t.mem = s.mem) ∧
      (c.S ≠ 0#32 → c.w.live &&& ~~~c.S = 0#32 → w.slotA = none ∧ w.slotB = none ∧ w.stack = [])

open Sys2Proof Sys2Proof.Machine Sys2Proof.Claims in
/-- JOIN: alone at its PC and with no lanes at a lower PC, the slot goes on; beside the other slot at the same PC the two become slot
A's path, with both sets of lanes and slot A's mode; while the other slot stands at a lower PC, other than at a TCOMMIT, it waits (R33).

SLEEPUNTIL outside a transaction: before its time the path waits; from its time on it goes on, unless a copy operation of the wave
that was issued before it has promised to be complete by then and is not: then it raises DEADLINE_MISS with the least such promise
(R147, R148).
The later accesses of the wave are performed behind what was performed before (R148, R272).
A point the manual leaves open is as log entry 67 says. -/
def Obligations.JoinAndSleepResults : Prop :=
  (∀ (s : State) (c : Ctx), Issues .join anyType s c →
      ((∀ e ∈ c.w.entries, c.p.pc.toNat < e.pc.toNat) → (∀ o, c.w.slot (!c.slotB) = some o → c.p.pc.toNat < o.pc.toNat) →
        ∃ (t : State) (w : Wave), exec .join s = .next t ∧ Completed c c.cur.next t w ∧ WritesNone c.w w) ∧
      (∀ o, c.w.entries = [] → c.w.slot (!c.slotB) = some o → o.pc = c.p.pc → o.raises = none →
        ∃ (t : State) (w : Wave) (p : Path), exec .join s = .next t ∧ waveOf t c.gk c.wi = some w ∧ w.slotA = some p ∧ w.slotB = none ∧
          p.pc = c.cur.next ∧ p.mask = o.mask ||| c.act ∧ p.mode = (if c.slotB then o.mode else c.mode) ∧ WritesNone c.w w ∧ t.mem = s.mem) ∧
      (∀ o, c.w.entries = [] → c.w.slot (!c.slotB) = some o → o.pc.toNat < c.p.pc.toNat → c.w.tx = none →
        exec .join s = .next (c.waits .join))) ∧
  (∀ (a : Reg) (s : State) (c : Ctx), Issues (.sleepuntil a) anyType s c → c.memberLanes = 0#32 →
      let time := (c.val64 a 0).toNat
      let late := fun (o : CopyOp) => o ∈ c.s.copies ∧ o.g = c.gk ∧ o.w = c.wi ∧ o.promise % 2 ^ 64 ≤ time ∧
        o.id ≤ if c.p.wait = .sleep then c.p.waitMark else c.s.serial
      (c.s.clk % 2 ^ 64 < time → exec (.sleepuntil a) s = .next (c.waits .sleep)) ∧
      (time ≤ c.s.clk % 2 ^ 64 → (∀ o, ¬late o) →
        ∃ (t : State) (w : Wave), exec (.sleepuntil a) s = .next t ∧ Completed c.acquire c.cur.next t w ∧ WritesNone c.w w) ∧
      (time ≤ c.s.clk % 2 ^ 64 → ∀ o, late o → (∀ o', late o' → o.promise % 2 ^ 64 ≤ o'.promise % 2 ^ 64) →
        exec (.sleepuntil a) s = .next (c.raise ⟨causeDeadlineMiss, 0, o.promise % 2 ^ 64, c.act⟩)))

/-! ## Traps (R356 to R361, R388) -/

namespace Sys2Proof.Claims

open Machine

/-- The wave's path raises a cause as a trap that the wave's handler takes: no member lane of a transaction issues it, the wave is not in
handler mode, no debugger is attached to a user wave's context, and the cause does not park a firmware wave's core (R361, R388). -/
structure Trappable (c : Ctx) (cause : Nat) : Prop where
  outside : c.memberLanes = 0#32
  user : c.w.handler = none
  free : (c.s.context c.g.ctx).attached = false ∨ c.firmware = true
  handled : c.firmware = false ∨ cause ∈ [causeDeadlineMiss, causeFencePeerLost, causeSwTrap]

/-- The frame that stands in the save slot of w describes a stop of path c at a code offset, at an instruction word, with a cause (R356). -/
structure FrameOf (c : Ctx) (x : Trap) (off : Nat) (word : Word) (w : Wave) : Prop where
  pc : w.frameBits 0 0 32 = off
  instr : w.frameBits 0 32 32 = word.toNat
  lanes : w.frameBits 0 64 32 = x.lanes.toNat
  addr : w.frameBits 0 96 64 = x.addr % 2 ^ 64
  cause : w.frameBits 0 160 8 = x.cause % 256
  sub : w.frameBits 0 168 8 = x.sub % 256
  slot : w.frameBits 0 176 3 = off / 4 % 8
  pslot : w.frameBits 0 179 1 = c.slotB.toNat
  tag : w.frameBits 0 180 4 = c.g.tag
  depth : w.frameBits 0 184 3 = match c.w.tx with | some t => t.depth | none => 0
  flags : w.frameBits 0 187 3 = 0
  mode : w.frameBits 0 192 24 = c.mode.toNat
  links : ∀ i, i < 4 → w.frameBits 0 (256 + 32 * i) 32 = (Tab.get 0#32 c.w.k (28 + i)).toNat
  stop : w.frameBits 0 384 64 = c.s.clk % 2 ^ 64
  reserved : w.frameBits 0 190 2 = 0 ∧ w.frameBits 0 216 40 = 0 ∧ w.frameBits 0 448 64 = 0

/-- In t the wave of path c has entered its handler (R357): the frame is written, k28:k29 hold the frame's address, the handler of the die's
`trapbase` starts in the trapping slot with the slot's lanes and mode 0x000200, 24 clk after the stop; the other slot's results under way
are written; its path, the stack, every other register, memory and the other groups are as before; held caps are expired. -/
structure EntersHandler (c : Ctx) (x : Trap) (t : State) (w : Wave) : Prop where
  wave : waveOf t c.gk c.wi = some w
  frame : FrameOf c x c.p.pc.toNat c.cur.word w
  k28 : Tab.get 0#32 w.k 28 = 0x00000000#32
  k29 : Tab.get 0#32 w.k 29 = 0xFF830000#32
  k : ∀ r, r ≠ 28 → r ≠ 29 → Tab.get 0#32 w.k r = Tab.get 0#32 c.w.k r
  v : w.v = c.w.v
  q : w.q = c.w.q
  mode : w.handler = some ⟨c.slotB, (c.s.handlerImage c.die).1, (c.s.handlerImage c.die).2.1, c.s.clk⟩
  path : ∃ p, w.slot c.slotB = some p ∧ p.pc = BitVec.ofNat 32 (c.s.handlerImage c.die).2.2 ∧ p.mask = c.act ∧ p.mode = 0x000200#24 ∧
    p.readyAt = c.s.clk + 24
  other : w.slot (!c.slotB) = (c.w.slot (!c.slotB)).map fun p => { p with inflight := [] }
  stack : w.stack = c.w.stack
  caps : ∀ r ∈ [w.cap0, w.cap1], ∀ va line, r ≠ .held va line ∧ r ≠ .asked va line
  mem : t.mem = c.s.mem
  others : ∀ k, k ≠ c.gk → t.groups.find? k = c.s.groups.find? k

end Sys2Proof.Claims

open Sys2Proof Sys2Proof.Machine Sys2Proof.Claims in
/-- A cause that a path raises outside a transaction and outside handler mode enters the handler as R357 and R356 say.
A point the manual leaves open is as log entry 11 says. -/
def Obligations.TrapEntry : Prop :=
  ∀ (s : State) (c : Ctx) (x : Trap), s.ctx? = some c → Trappable c x.cause → c.g.tag < 16 → (∀ t, c.w.tx = some t → t.depth < 8) →
    ∃ w, EntersHandler c x (c.raise x) w

open Sys2Proof Sys2Proof.Machine Sys2Proof.Claims in
/-- TRAP takes SW_TRAP with its code as sub-cause and S as the frame's lanes, and does nothing when S is empty; BKPT takes BKPT whatever the
guard, with the active lanes (R152).

Any other cause of a firmware wave parks its core and its die is reported failed: the standard action for it is to fail (R361).

A cause in handler mode is a double trap: a user wave's context is reset with sub-code 3; a firmware wave parks its core and its die is
reported failed (R359, R388).
Points the manual leaves open are as log entries 11, 66 say. -/
def Obligations.SoftwareAndDoubleTraps : Prop :=
  (∀ (s : State) (c : Ctx), Trappable c 0x40 → c.g.tag < 16 → (∀ t, c.w.tx = some t → t.depth < 8) →
      (∀ n : Selector, Issues (.trap n) anyType s c → c.S ≠ 0#32 →
        ∃ t w, exec (.trap n) s = .next t ∧ EntersHandler c ⟨0x40, n.toNat, 0, c.S⟩ t w) ∧
      (∀ n : Selector, Issues (.trap n) anyType s c → c.S = 0#32 →
        ∃ t w, exec (.trap n) s = .next t ∧ Completed c c.cur.next t w ∧ WritesNone c.w w) ∧
      (Issues .bkpt anyType s c → c.firmware = false → ∃ t w, exec .bkpt s = .next t ∧ EntersHandler c ⟨0x41, 0, 0, c.act⟩ t w)) ∧
  (∀ (c : Ctx) (x : Trap), c.memberLanes = 0#32 → c.w.handler = none → c.firmware = true →
      x.cause ∉ [causeDeadlineMiss, causeFencePeerLost, causeSwTrap, causeDebugHalt] →
      ((c.raise x).die c.die).failed = true ∧ ((c.raise x).die c.die).ready = false ∧
        (c.raise x).management = c.s.management ++ [(1, c.die)]) ∧
  (∀ (c : Ctx) (x : Trap), c.w.handler ≠ none →
      c.raise x = (if c.firmware then c.putPath.failFirmware c.die else c.putPath.resetContext c.g.ctx 3) ∧
      (c.firmware = true → ((c.raise x).die c.die).failed = true ∧ ((c.raise x).die c.die).ready = false ∧
        (c.raise x).management = c.s.management ++ [(1, c.die)]) ∧
      (c.firmware = false → c.g.ctx ≠ 0 → ∀ k g, (c.raise x).groups.find? k = some g → g.ctx ≠ c.g.ctx))

open Sys2Proof Sys2Proof.Machine Sys2Proof.Claims in
/-- TRET in handler mode restores k28 to k31 and the mode from the frame and continues the trapping slot at the frame's pc, with the slot's
lanes; the other slot is as it was (R359). A frame whose pc or mode is not legal makes it a double trap. Outside handler mode a
firmware wave's TRET does nothing except issue (R388).
A point the manual leaves open is as log entry 67 says. -/
def Obligations.TrapReturn : Prop :=
  ∀ (s : State) (c : Ctx), Issues .tret anyType s c →
    (c.w.handler ≠ none → c.w.unplaced = none →
      c.s.targetLegal c.g.ctx c.g.code (c.w.frameBits 0 0 32) = true → modeLegal (BitVec.ofNat 24 (c.w.frameBits 0 192 24)) = true →
      ∃ t w, exec .tret s = .next t ∧ waveOf t c.gk c.wi = some w ∧ w.handler = none ∧
        (∃ p, w.slot c.slotB = some p ∧ p.pc.toNat = c.w.frameBits 0 0 32 ∧ p.mask = c.act ∧ p.mode.toNat = c.w.frameBits 0 192 24) ∧
        (∀ i, i < 4 → (Tab.get 0#32 w.k (28 + i)).toNat = c.w.frameBits 0 (256 + 32 * i) 32) ∧
        (∀ r, r < 28 → Tab.get 0#32 w.k r = Tab.get 0#32 c.w.k r) ∧ w.v = c.w.v ∧ w.q = c.w.q ∧
        (c.w.slot (!c.slotB) ≠ none → w.slot (!c.slotB) = c.w.slot (!c.slotB)) ∧ t.mem = s.mem) ∧
    (c.w.handler ≠ none →
      c.s.targetLegal c.g.ctx c.g.code (c.w.frameBits 0 0 32) = false ∨ modeLegal (BitVec.ofNat 24 (c.w.frameBits 0 192 24)) = false →
      ∃ t, exec .tret s = .next t ∧ (c.firmware = true → (t.die c.die).failed = true) ∧
        (c.firmware = false → c.g.ctx ≠ 0 → ∀ k g, t.groups.find? k = some g → g.ctx ≠ c.g.ctx)) ∧
    (c.w.handler = none → c.memberLanes = 0#32 →
      ∃ t w, exec .tret s = .next t ∧ Completed c c.cur.next t w ∧ WritesNone c.w w)

/-! ## Rows 0x6 and 0x7: accesses by address (R88 to R106, R180 to R199) -/

namespace Sys2Proof.Claims

open Machine

/-- A step of the device is to come: it is due, or it comes at a clk. -/
def Comes (t : State) (i : Instr) : Prop := .event i ∈ t.agenda ∨ ∃ n, (n, .event i) ∈ t.timers

/-- The loads: bytes, sign extension, whether the load is one that may be a release as well; D, A, B (R183). -/
def loadForm : Instr → Option (Nat × Bool × Bool × Reg × Reg × Reg)
  | .ld8 d a b => some (1, false, false, d, a, b)
  | .ld8s d a b => some (1, true, false, d, a, b)
  | .ld16 d a b => some (2, false, false, d, a, b)
  | .ld16s d a b => some (2, true, false, d, a, b)
  | .ld32 d a b => some (4, false, false, d, a, b)
  | .ld64 d a b => some (8, false, false, d, a, b)
  | .ld128 d a b => some (16, false, false, d, a, b)
  | .lda32 d a b => some (4, false, true, d, a, b)
  | .lda64 d a b => some (8, false, true, d, a, b)
  | _ => none

/-- The stores: bytes, whether the store is a release; D, A, B (R183). -/
def storeForm : Instr → Option (Nat × Bool × Reg × Reg × Reg)
  | .st8 d a b => some (1, false, d, a, b)
  | .st16 d a b => some (2, false, d, a, b)
  | .st32 d a b => some (4, false, d, a, b)
  | .st64 d a b => some (8, false, d, a, b)
  | .st128 d a b => some (16, false, d, a, b)
  | .str32 d a b => some (4, true, d, a, b)
  | .str64 d a b => some (8, true, d, a, b)
  | _ => none

/-- The atomics: the instruction's D, A, B (R190). -/
def atomicForm : Instr → Option (AtomicOp × Reg × Reg × Reg)
  | .aadd d a b => some (.add, d, a, b)
  | .amin d a b => some (.min, d, a, b)
  | .amax d a b => some (.max, d, a, b)
  | .aand d a b => some (.and, d, a, b)
  | .aor d a b => some (.or, d, a, b)
  | .axor d a b => some (.xor, d, a, b)
  | .axchg d a b => some (.xchg, d, a, b)
  | .acas d a b => some (.cas, d, a, b)
  | .ainc d a b => some (.inc, d, a, b)
  | _ => none

/-- An access of w bytes at ea is aligned, lies in memory, is mapped by t, with no fault of its page pending, and leads to storage: GDDR of
this card or of a peer that is up, or host memory outside BAR0 (R88, R181, R329, R404, R411). -/
structure Storage (c : Ctx) (w ea : Nat) (t : Translation) : Prop where
  aligned : ea % w = 0
  region : regionOf ea = .memory
  mapped : c.s.fill c.g.ctx ea (controllerOf c.g.ctx ea) = .ok t
  storage : (∃ card off, c.s.reach (t.pa ea) = .gddr card off ∧ (card = c.s.ownCard ∨ c.s.peer card = .up)) ∨
    ∃ a, c.s.reach (t.pa ea) = .host a ∧ c.s.bar0Offset (t.pa ea) = none

/-- The scratchpad that an address names, with the offset in it: the group's own, or through the hive-local aperture that of a member of
the gang (R89). -/
def scratchAt (c : Ctx) (ea : Nat) : Option (Nat × Group × Nat) :=
  match regionOf ea with
  | .aperture .scratch off => some (c.gk, c.g, off)
  | .aperture .hive off => (c.gangMember (off / 0x40000)).map fun x => (x.1, x.2, off % 0x40000)
  | _ => none

/-- An access of w bytes at ea is aligned and reaches bytes of scratch inside the group's allocation that no copy is landing in (R94). -/
structure InScratch (c : Ctx) (w ea gk : Nat) (g : Group) (off : Nat) : Prop where
  aligned : ea % w = 0
  window : scratchAt c ea = some (gk, g, off)
  group : c.groupAt gk = some g
  fits : off + w ≤ g.scratchBytes ∧ off < 2 ^ 18
  ready : granuleLanding g (off / 128) = false

/-- No commit point of a future that the wave has committed earlier is to come: the wave's accesses perform behind it (R227). -/
def NoCommit (c : Ctx) : Prop := c.s.commitPending c.gk c.wi c.issueMark = false

/-- A load of w bytes at ea returns at once: the page may be read, the core has a lease or the home serves the read in its turn, no error lies
there; valid scratch; the save slot; registers that are written, in the window, and not dead. -/
inductive Readable (c : Ctx) (w ea : Nat) : Prop
  | memory (t : Translation) (h : Storage c w ea t) (read : t.read = true)
      (served : c.readable (c.s.viewLine (c.placeFor t (t.pa ea)), t.page) = true)
      (sound : c.s.health.poisonedLines.find? (lineOf (c.placeFor t (t.pa ea))) = none)
  | scratch (gk : Nat) (g : Group) (off : Nat) (h : InScratch c w ea gk g off) (valid : granuleValid g (off / 128) = true)
      (sound : c.s.health.poisonedLines.find? (lineOf (scratchPlace gk off)) = none)
  | save (off : Nat) (aligned : ea % w = 0) (h : regionOf ea = .aperture .save off)
  | register (off : Nat) (aligned : ea % w = 0) (h : regionOf ea = .aperture .registers off) (window : off / 128 < c.w.n)
      (written : ∀ x ∈ c.w.scoreboard, .v (off / 128) ∉ x.regs)
      (sound : ∀ x ∈ c.w.poison, x.reg ≠ .v (off / 128))
      (live : ∀ l, l < 32 → (Tab.get 0#32 c.w.dead (off / 128)).getLsbD l = false)

/-- Byte i that the wave reads at ea: in memory its own posted byte, else its future's version or the trunk's, as it stands in u
(R109, R185), or, for a load that performed earlier, as it stood when `time` writes of memory had been performed (R272, R277); else the
byte of the scratchpad, of the save slot, of the register file. -/
def seen (c : Ctx) (u : State) (time : Option Nat) (ea i : Nat) : Byte :=
  match regionOf ea with
  | .memory =>
    match c.s.fill c.g.ctx ea (controllerOf c.g.ctx ea), time with
    | .ok t, none => { c with s := u }.memByte (c.placeFor t (t.pa ea) + i)
    | .ok t, some time => { c with s := u }.pastByte time (c.placeFor t (t.pa ea) + i)
    | .fault _ _ _, _ => 0#8
  | .aperture .registers off =>
    (Tab.get 0#32 c.w.v (vKey (off / 128) (off % 128 / 4 + (off % 4 + i) / 4))).extractLsb' (8 * ((off + i) % 4)) 8
  | .aperture .save off => Tab.get 0#8 c.w.save (off + i)
  | _ =>
    match scratchAt c ea with
    | some (_, g, off) => Tab.get 0#8 g.scratch (off + i)
    | none => 0#8

/-- Word j of a loaded value of w bytes, lowest byte first, extended to a register (R183). -/
def loadedWord (w : Nat) (signed : Bool) (b : Nat → Byte) (j : Nat) : Word :=
  if 4 < w then BitVec.ofNat 32 (bytesNat ((List.range 4).map fun i => b (4 * j + i)))
  else
    let x := BitVec.ofNat (8 * w) (bytesNat ((List.range w).map b))
    if signed then x.signExtend 32 else x.setWidth 32

/-- From c to u, the device has only kept translations, leases and guest copies, and taken the path's own request out of the lines'
queues (R99, R100). -/
def OnlyCaches (c : Ctx) (u : State) : Prop :=
  u = { c.s with tlb := u.tlb, leases := u.leases, lines := u.lines, guestCopies := u.guestCopies } ∧
  (c.s.softRegions = [] → u.guestCopies = c.s.guestCopies) ∧
  ∀ n, u.line n = { c.s.line n with exp := (u.line n).exp, guests := (u.line n).guests, waiting := (u.line n).waiting } ∧
    (u.line n).waiting ∈ [(c.s.line n).waiting, (c.s.line n).waiting.filter fun r => r ≠ c.readRequest]

/-- The wave has noted what its loads may return from now on (R272, R277): behind an acquire nothing older than what stands in u; behind a
plain load that performed at `time l` in lane l, nothing older for the bytes that it has read, and no more than before for any byte. -/
def Notes (c : Ctx) (u : State) (acquire : Bool) (w' : Wave) : Prop :=
  w' = { c.w with acquired := w'.acquired, seen := w'.seen } ∧
  if acquire then w'.acquired = u.writes ∧ w'.seen = [] else w'.acquired = c.w.acquired ∧ ∀ x, Tab.get 0 c.w.seen x ≤ Tab.get 0 w'.seen x

/-- Byte i of a store's data in lane l: D's registers, lowest byte first (R183). -/
def dataByte (c : Ctx) (d : Reg) (w l i : Nat) : Byte :=
  if w = 16 then (c.valAt d (i / 4) l).extractLsb' (8 * (i % 4)) 8
  else if w = 8 then (c.val64 d l).extractLsb' (8 * i) 8
  else (c.val d l).extractLsb' (8 * i) 8

/-- The byte that the lanes of S store at a place when lane l stores w bytes at `at_ l`: the highest lane's (R184). -/
def lastStored (c : Ctx) (d : Reg) (w : Nat) (at_ : Nat → Nat) (place : Nat) : Option Byte :=
  (lanesOf c.S).foldl (fun o l => if at_ l ≤ place ∧ place < at_ l + w then some (dataByte c d w l (place - at_ l)) else o) none

/-- A line takes a write of the path at once: it is the path's turn and the home serves it, none of the wave's own writes to the line is under
way, no replica of it lags. -/
def TakesWrite (c : Ctx) (near : Bool) (line : Nat) : Prop :=
  (∀ p ∈ c.s.posted, p.g = c.gk → p.w = c.wi → ∀ b ∈ p.bytes, lineOf b.1 ≠ line) ∧
  (∀ r ∈ c.s.lags, lineOf r.place ≠ line) ∧ c.writable near line = true

/-- From c to u, writes have performed at once: memory, scratch, and what goes with a write at its home. -/
def OnlyWrites (c : Ctx) (u : State) : Prop :=
  u = { c.s with tlb := u.tlb, lines := u.lines, mem := u.mem, groups := u.groups, lags := u.lags, agenda := u.agenda, serial := u.serial,
                 unwritten := u.unwritten, guestCopies := u.guestCopies, guestDirty := u.guestDirty, writes := u.writes, past := u.past,
                 nearOld := u.nearOld } ∧
  ∀ n, u.line n = { c.s.line n with guests := (u.line n).guests, owner := (u.line n).owner, waiting := (u.line n).waiting } ∧
    (u.line n).waiting ∈ [(c.s.line n).waiting, (c.s.line n).waiting.filter fun r => r ≠ c.ownRequest]

/-- The new value of an atomic's location (R190, R191): integers wrap; comparisons are signed under i32 and i64; under the float types
AADD adds element by element with one rounding. -/
def AtomicRule (op : AtomicOp) (m : ModeImage) (n : Nat) (old b d new : BitVec n) : Prop :=
  let signed := modeType m == 6 || modeType m == 8
  let below := fun (x y : BitVec n) => if signed then x.toInt ≤ y.toInt else x.toNat ≤ y.toNat
  match op with
  | .add =>
    if modeType m ∈ [6, 7, 8, 9] then new = old + b
    else
      let el := elemOf (modeType m)
      ∀ e, e < elementCount (modeType m) → elemAt el.width new.toNat e =
        addElem el ⟨if modeRound m = 5 then 0 else modeRound m, false, modeFtz m, none⟩ (elemAt el.width old.toNat e)
          (elemAt el.width b.toNat e) 0
  | .min => (below old b → new = old) ∧ (below b old → new = b)
  | .max => (below b old → new = old) ∧ (below old b → new = b)
  | .and => new = old &&& b
  | .or => new = old ||| b
  | .xor => new = old ^^^ b
  | .xchg => new = b
  | .cas => new = if old = d then b else old
  | .inc => new = if b.toNat ≤ old.toNat then 0 else old + 1

/-- The place of an atomic's lane: the trunk's storage or scratch, ready for an atomic of w bytes. -/
inductive AtomicPlace (c : Ctx) (w ea : Nat) : Nat → Prop
  | memory (t : Translation) (h : Storage c w ea t) (read : t.read = true) (write : t.write = true)
      (ready : TakesWrite c true (lineOf (t.pa ea))) (sound : c.s.health.poisonedLines.find? (lineOf (t.pa ea)) = none) :
      AtomicPlace c w ea (memPlace 0 (t.pa ea))
  | scratch (gk : Nat) (g : Group) (off : Nat) (h : InScratch c w ea gk g off) (valid : granuleValid g (off / 128) = true)
      (sound : c.s.health.poisonedLines.find? (lineOf (scratchPlace gk off)) = none) :
      AtomicPlace c w ea (scratchPlace gk off)

/-- The number in w bytes at a place. -/
def numberAt (s : State) (place w : Nat) : Nat := bytesNat ((List.range w).map fun i => s.byteAt (place + i))

/-- What meets an access of w bytes at ea before its page is looked up: the cause with its rank in R182, the sub-cause and the address
that the frame records (R88, R90, R91, R181, R360). -/
def addressCause (c : Ctx) (k : AccessKind) (w ea : Nat) : Option (Nat × Nat × Nat × Nat) :=
  if ea % w ≠ 0 then some (0, 0x10, w, ea)
  else if ea / 2 ^ 56 % 256 ∉ [0, 255] then some (1, 0x12, 1, ea)
  else
    match regionOf ea with
    | .outside _ => some (1, 0x12, 2, ea)
    | .aperture .registers off =>
      if k.isAtomic then some (1, 0x12, 5, ea) else if c.w.n ≤ off / 128 then some (2, 0x04, off / 128, ea) else none
    | .aperture .save _ => if k.isAtomic then some (1, 0x12, 5, ea) else none
    | .memory =>
      match c.s.fill c.g.ctx ea (controllerOf c.g.ctx ea) with
      | .ok t => if k.writes ∧ t.write = false then some (1, 0x12, 3, ea) else if k.reads ∧ t.read = false then some (1, 0x12, 4, ea) else none
      | .fault _ _ _ => none
    | _ => none

/-- The kind, the width, D and the addresses of an access instruction. -/
def accessForm (c : Ctx) (i : Instr) : Option (AccessKind × Nat × Reg × (Nat → Nat)) :=
  match loadForm i, storeForm i, atomicForm i with
  | some (w, _, _, d, a, b), _, _ => some (.load, w, d, c.address a b)
  | _, some (w, _, _, a, b), _ => some (.store, w, .v 0, c.address a b)
  | _, _, some (_, d, a, _) =>
    some (.atomic (match d with | .c _ => false | _ => true), if type64 (modeType c.mode) then 8 else 4, d, c.address1 a)
  | _, _, _ => none

/-- The accesses that wait at issue for the wave's earlier writes: an LDA or an STR with order `ar`, an atomic with `rel` or `ar`
(R186, R193). -/
def releases (m : ModeImage) (i : Instr) : Bool :=
  match loadForm i, storeForm i, atomicForm i with
  | some (_, _, acq, _, _, _), _, _ => acq && modeOrder m == 3
  | _, some (_, rel, _, _, _), _ => rel && modeOrder m == 3
  | _, _, some _ => 2 ≤ modeOrder m
  | _, _, _ => false

/-- The types that R163 and R190 allow: every type for loads and stores. -/
def accessTypes (i : Instr) (m : ModeImage) : Bool :=
  match atomicForm i with
  | some (op, _, _, _) => [6, 7, 8, 9].contains (modeType m) || (op == .add && [0x0, 0xA, 0xB].contains (modeType m))
  | none => true

end Sys2Proof.Claims

open Sys2Proof Sys2Proof.Machine Sys2Proof.Claims in
/-- Loads outside a transaction, of lanes whose bytes can be read now: D takes them, lowest byte first, with the form's extension, in the
lanes of S (a k destination those of the lowest lane); memory and every other register are as before. A plain load returns what stood
there at some time since the wave's last acquire and since it last read or wrote these bytes; LDA returns what stands there now, and
nothing that the wave loads later is older (R183, R184, R186, R272, R277). A load that is also a release waits until the wave's
earlier writes are performed; every load waits for the commit point of the wave's earlier FCOMMIT (R227).
Points the manual leaves open are as log entries 18, 21, 22 say. -/
def Obligations.LoadResults : Prop :=
  ∀ (i : Instr) (s : State) (c : Ctx) (n : Nat) (signed acq : Bool) (d a b : Reg), Issues i anyType s c →
    loadForm i = some (n, signed, acq, d, a, b) → c.txLanes = 0#32 →
    ((acq = true ∧ modeOrder c.mode = 3 ∧ c.S ≠ 0#32 ∧ c.settled = false → exec i s = .next (c.waits .fence)) ∧
     ((acq = true → modeOrder c.mode = 3 → c.settled = true) → NoCommit c →
      (∀ l, l < 32 → (c.accessLanes d).getLsbD l = true → Readable c n (c.address a b l)) →
      ∃ (t : State) (w w' : Wave) (u : State) (time : Nat → Nat), exec i s = .next t ∧ OnlyCaches c u ∧
        Notes c u (acq && c.S != 0#32) w' ∧ Completed { c with s := u, w := w' } c.cur.next t w ∧
        (∀ l x, l < 32 → (c.accessLanes d).getLsbD l = true → Storage c n (c.address a b l) x → acq = false →
          (time l ≤ u.writes ∧ ∀ k, k < n →
            let place := c.placeFor x (x.pa (c.address a b l)) + k
            (time l < u.writes → c.w.acquired ≤ time l ∧ Tab.get 0 c.w.seen place ≤ time l) ∧ time l ≤ Tab.get 0 w'.seen place)) ∧
        WritesRun w' w d (max 1 (n / 4)) c.S fun j l =>
          loadedWord n signed (seen c u (if acq then none else some (time l)) (c.address a b l)) j))

open Sys2Proof Sys2Proof.Machine Sys2Proof.Claims in
/-- Stores to memory outside a transaction, of the trunk or to a future's own pages, are posted: the wave itself reads the stored bytes at
once, the highest lane's where lanes overlap; every other byte reads as before, to this wave and to all others; one write to each
line stands on the agenda, marked as a release for STR (R184, R185, R186, R421).

A store with release and order `ar` is an acquire as well: it waits for the wave's earlier writes; once its lines' homes serve it, the
stored bytes are what the wave reads when it completes, and what stands at the homes while no region is under software management;
every other byte is as before (R186).
Points the manual leaves open are as log entries 22, 24, 25, 27 say. -/
def Obligations.StoreResults : Prop :=
  (∀ (i : Instr) (s : State) (c : Ctx) (n : Nat) (rel : Bool) (d a b : Reg) (f : Nat → Translation), Issues i anyType s c →
      storeForm i = some (n, rel, d, a, b) → c.txLanes = 0#32 → (rel = true → modeOrder c.mode ≠ 3) → NoCommit c →
      (∀ l, l < 32 → c.S.getLsbD l = true → Storage c n (c.address a b l) (f l) ∧ (f l).write = true ∧
        (c.tag = 0 ∨ ((f l).page = .ver ∧ c.s.remote ((f l).pa (c.address a b l)) = false))) →
      let at_ := fun l => c.placeFor (f l) ((f l).pa (c.address a b l))
      ∃ (t : State) (w : Wave) (u : State) (new : List PostedWrite), exec i s = .next t ∧ Completed { c with s := u } c.cur.next t w ∧
        WritesNone c.w w ∧
        u = { c.s with tlb := u.tlb, lines := u.lines, posted := c.s.posted ++ new, agenda := u.agenda, serial := u.serial } ∧
        (∀ m, u.line m = { c.s.line m with heat := (u.line m).heat, heatAt := (u.line m).heatAt }) ∧
        (∀ p ∈ new, p.g = c.gk ∧ p.w = c.wi ∧ p.ordered = rel ∧ p.irq = none ∧ .event (.homeWrite p.id) ∈ u.agenda ∧ p.bytes ≠ [] ∧
          ∀ x ∈ p.bytes, ∀ y ∈ new, ∀ z ∈ y.bytes, lineOf x.1 = lineOf z.1 → p = y) ∧
        ∀ place, place < 2 ^ 60 →
          t.waveByte c.die c.gk c.wi place = (lastStored c d n at_ place).getD (c.s.waveByte c.die c.gk c.wi place) ∧
          ∀ die g w', ¬(g = c.gk ∧ w' = c.wi) → t.waveByte die g w' place = c.s.waveByte die g w' place) ∧
  (∀ (i : Instr) (s : State) (c : Ctx) (n : Nat) (d a b : Reg) (f : Nat → Translation), Issues i anyType s c →
      storeForm i = some (n, true, d, a, b) → c.txLanes = 0#32 → modeOrder c.mode = 3 → c.S ≠ 0#32 →
      (c.settled = false → exec i s = .next (c.waits .fence)) ∧
      (c.settled = true → c.tag = 0 →
        (∀ l, l < 32 → c.S.getLsbD l = true → Storage c n (c.address a b l) (f l) ∧ (f l).write = true ∧
          TakesWrite c false (lineOf ((f l).pa (c.address a b l)))) →
        ∃ (t : State) (w : Wave) (u : State), exec i s = .next t ∧ OnlyWrites c u ∧ u.groups = c.s.groups ∧
          Completed { c with s := u }.acquire c.cur.next t w ∧ WritesNone c.w w ∧
          ∀ place, place < 2 ^ 60 →
            let stored := lastStored c d n (fun l => memPlace 0 ((f l).pa (c.address a b l))) place
            t.waveByte c.die c.gk c.wi place = stored.getD (c.s.waveByte c.die c.gk c.wi place) ∧
            (c.s.softRegions = [] → t.byteAt place = stored.getD (c.s.byteAt place))))

open Sys2Proof Sys2Proof.Machine Sys2Proof.Claims in
/-- Stores through the apertures act at once (R89, R91, R93). To a scratchpad: the first store to a granule clears its other bytes and makes
it valid. To the save slot: its bytes. Through the register aperture: bytes of registers of any lane. Nothing else changes. A release
store waits before that until the wave's earlier writes are performed (R90, R186). -/
def Obligations.ApertureStores : Prop :=
  ∀ (i : Instr) (s : State) (c : Ctx) (n : Nat) (rel : Bool) (d a b : Reg) (off : Nat → Nat), Issues i anyType s c →
    storeForm i = some (n, rel, d, a, b) → c.txLanes = 0#32 → (rel = true → modeOrder c.mode ≠ 3) → NoCommit c →
    (rel = true → c.settled = false → c.S ≠ 0#32 →
      (∀ l, l < 32 → c.S.getLsbD l = true → c.address a b l % n = 0 ∧
        ((∃ gk g, InScratch c n (c.address a b l) gk g (off l)) ∨ regionOf (c.address a b l) = .aperture .save (off l))) →
      exec i s = .next (c.waits .fence)) ∧
    ((rel = true → c.settled = true) →
    (∀ (gk : Nat) (g : Group), c.groupAt gk = some g →
      (∀ l, l < 32 → c.S.getLsbD l = true → InScratch c n (c.address a b l) gk g (off l)) →
      ∃ (t : State) (w : Wave) (g' : Group), exec i s = .next t ∧ Completed (c.setGroup gk g') c.cur.next t w ∧ WritesNone c.w w ∧
        g' = { g with scratch := g'.scratch, granules := g'.granules } ∧
        (∀ x, Tab.get 0#8 g'.scratch x = (lastStored c d n off x).getD
          (if granuleValid g (x / 128) = false ∧ (lanesOf c.S).any (fun l => off l / 128 == x / 128) = true then 0#8
           else Tab.get 0#8 g.scratch x)) ∧
        ∀ j, granuleLanding g' j = granuleLanding g j ∧
          (granuleValid g' j = true ↔ granuleValid g j = true ∨ ∃ l, l < 32 ∧ c.S.getLsbD l = true ∧ off l / 128 = j)) ∧
    ((∀ l, l < 32 → c.S.getLsbD l = true → c.address a b l % n = 0 ∧ regionOf (c.address a b l) = .aperture .save (off l)) →
      ∃ (t : State) (w : Wave) (save : Tab Byte), exec i s = .next t ∧ Completed { c with w := { c.w with save := save } } c.cur.next t w ∧
        WritesNone c.w w ∧ ∀ x, Tab.get 0#8 save x = (lastStored c d n off x).getD (Tab.get 0#8 c.w.save x)) ∧
    ((∀ l, l < 32 → c.S.getLsbD l = true → c.address a b l % n = 0 ∧ regionOf (c.address a b l) = .aperture .registers (off l) ∧
        off l / 128 < c.w.n ∧ ∀ x ∈ c.w.scoreboard, .v (off l / 128) ∉ x.regs) →
      ∃ (t : State) (w : Wave), exec i s = .next t ∧ Completed c c.cur.next t w ∧ w.k = c.w.k ∧ w.q = c.w.q ∧
        ∀ r l j, l < 32 → j < 4 → (Tab.get 0#32 w.v (vKey r l)).extractLsb' (8 * j) 8 =
          (lastStored c d n off (128 * r + 4 * l + j)).getD ((Tab.get 0#32 c.w.v (vKey r l)).extractLsb' (8 * j) 8)))

open Sys2Proof Sys2Proof.Machine Sys2Proof.Claims in
/-- Atomics outside a transaction, of trunk waves, on storage that can be written now: the lanes act in ascending order (a k destination or
c0 with one lane: that lane), each on the number that the ones before it have left; D takes the old numbers; every byte outside the
lanes' places is as before (R190 to R193). Release forms wait for the wave's earlier writes; behind acquire forms nothing older is
loaded (R272).
Points the manual leaves open are as log entries 23, 24, 26, 28 say. -/
def Obligations.AtomicResults : Prop :=
  ∀ (i : Instr) (s : State) (c : Ctx) (op : AtomicOp) (d a b : Reg) (at_ : Nat → Nat), Issues i (accessTypes i) s c →
    atomicForm i = some (op, d, a, b) → c.txLanes = 0#32 → c.tag = 0 →
    let n := if type64 (modeType c.mode) then 8 else 4
    (2 ≤ modeOrder c.mode → c.S ≠ 0#32 → c.settled = false → exec i s = .next (c.waits .fence)) ∧
    ((2 ≤ modeOrder c.mode → c.settled = true) → NoCommit c →
     (∀ l, l < 32 → (c.accessLanes d).getLsbD l = true → AtomicPlace c n (c.address1 a l) (at_ l)) →
      ∃ (t : State) (w w' : Wave) (u : State) (g : Group) (old new : Nat → BitVec (8 * n)), exec i s = .next t ∧ OnlyWrites c u ∧
        Completed { c with s := u, g := g, w := w' } c.cur.next t w ∧ w' = { c.w with acquired := w'.acquired, seen := w'.seen } ∧
        (c.S ≠ 0#32 ∧ modeOrder c.mode % 2 = 1 → w'.acquired = u.writes ∧ w'.seen = []) ∧
        (∀ k, k ≠ c.gk → (u.groups.find? k).map (fun x => { x with scratch := [] }) = (c.s.groups.find? k).map fun x => { x with scratch := [] }) ∧
        g = { c.g with scratch := g.scratch } ∧
        (∀ l, l < 32 → (c.accessLanes d).getLsbD l = true →
          AtomicRule op c.mode (8 * n) (old l) (BitVec.ofNat (8 * n) (c.valT (modeType c.mode) b l))
            (BitVec.ofNat (8 * n) (c.valT (modeType c.mode) d l)) (new l) ∧
          -- the value before: the last lane below that acted on the place, or storage
          (∀ k, k < l → (c.accessLanes d).getLsbD k = true → at_ k = at_ l →
            (∀ j, k < j → j < l → (c.accessLanes d).getLsbD j = true → at_ j ≠ at_ l) → old l = new k) ∧
          ((∀ k, k < l → (c.accessLanes d).getLsbD k = true → at_ k ≠ at_ l) → (old l).toNat = numberAt c.s (at_ l) n) ∧
          -- the value behind
          ((∀ k, l < k → k < 32 → (c.accessLanes d).getLsbD k = true → at_ k ≠ at_ l) → numberAt t (at_ l) n = (new l).toNat)) ∧
        (∀ place, place < 2 ^ 61 → (∀ l, l < 32 → (c.accessLanes d).getLsbD l = true → ¬(at_ l ≤ place ∧ place < at_ l + n)) →
          t.byteAt place = c.s.byteAt place) ∧
        WritesRun w' w d (n / 4) c.S fun j l => (old l).extractLsb' (32 * j) 32)

open Sys2Proof Sys2Proof.Machine Sys2Proof.Claims in
/-- What stops an access before it acts, outside a transaction (R97, R182, R360, R415): the cause of the first rank that any lane meets, with
the lanes that meet one of its rank, and the lowest lane's sub-cause and address. With no cause, a lane whose page is not resident
has its entry of the fault buffer queued, and the path waits.

The lane-off rule: when no acting lane meets a cause and each names scratch outside its allocation, a granule that a copy lands in,
(but for a store) one that holds nothing yet, or a gang position that is not there, those lanes are marked in the fault mask and
end, no register and no byte is written, and a wave with lanes left goes on (R94, R95).
Points the manual leaves open are as log entries 31, 57, 64 say. -/
def Obligations.AccessStops : Prop :=
  (∀ (i : Instr) (s : State) (c : Ctx) (k : AccessKind) (n : Nat) (d : Reg) (addr : Nat → Nat), Issues i (accessTypes i) s c →
      accessForm c i = some (k, n, d, addr) → c.txLanes = 0#32 → c.tag = 0 → (releases c.mode i = true → c.settled = true) →
      let lanes := c.accessLanes d
      let Absent := fun m => m < 32 ∧ lanes.getLsbD m = true ∧ regionOf (addr m) = .memory ∧
        ∃ ty leaf bits, c.s.fill c.g.ctx (addr m) (controllerOf c.g.ctx (addr m)) = .fault ty leaf bits
      (∀ l rank cause sub ea, l < 32 → lanes.getLsbD l = true → addressCause c k n (addr l) = some (rank, cause, sub, ea) →
        (∀ m y, m < 32 → lanes.getLsbD m = true → addressCause c k n (addr m) = some y → rank ≤ y.1 ∧ (y.1 = rank → l ≤ m)) →
        ∃ hit : LaneMask, exec i s = .next (c.raise ⟨cause, sub, ea, hit⟩) ∧
          ∀ m, m < 32 → (hit.getLsbD m = true ↔ lanes.getLsbD m = true ∧ ∃ y, addressCause c k n (addr m) = some y ∧ y.1 = rank)) ∧
      ((∀ m, m < 32 → lanes.getLsbD m = true → addressCause c k n (addr m) = none ∧
          (∀ t, c.s.fill c.g.ctx (addr m) (controllerOf c.g.ctx (addr m)) = .ok t → c.s.remote (t.pa (addr m)) = false)) →
       (∃ m, Absent m ∧ ∀ j, j < m → ¬Absent j) →
        (∀ m, Absent m → let die := c.s.die (c.s.serverOf (addr m / 128 % 4)); (die.faultTail - die.faultHead).toNat + 32 ≤ 4096) →
        ∃ u : State, u.mem = c.s.mem ∧ u.groups = c.s.groups ∧
          (∀ m, Absent m → (∀ j, j < m → ¬Absent j) →
            exec i s = .next ({ c with s := u, p := { c.p with faultAt := addr m } }.waits .fault)) ∧
          ∀ m, Absent m → ∃ e ∈ u.faults, .path c.gk c.wi c.slotB ∈ e.waiters ∧ e.holds c.g.ctx (addr m) = true)) ∧
  (∀ (i : Instr) (s : State) (c : Ctx) (k : AccessKind) (n : Nat) (d : Reg) (addr : Nat → Nat), Issues i (accessTypes i) s c →
      accessForm c i = some (k, n, d, addr) → c.txLanes = 0#32 → (releases c.mode i = true → c.settled = true) → NoCommit c →
      c.w.unplaced = none →
      let lanes := c.accessLanes d
      lanes ≠ 0#32 →
      (∀ l, l < 32 → lanes.getLsbD l = true → addr l % n = 0 ∧ ((∃ off, regionOf (addr l) = .aperture .hive off ∧ c.gangMember (off / 0x40000) = none) ∨
        ∃ gk g off, scratchAt c (addr l) = some (gk, g, off) ∧
          (g.scratchBytes < off + n ∨ granuleLanding g (off / 128) = true ∨ (k ≠ .store ∧ granuleValid g (off / 128) = false)))) →
      ∃ (t : State) (w : Wave), exec i s = .next t ∧ waveOf t c.gk c.wi = some w ∧ w.live = c.w.live &&& ~~~lanes ∧
        w.fmask = c.w.fmask ||| lanes ∧
        (c.w.live &&& ~~~lanes ≠ 0#32 → WritesNone c.w w ∧ t.mem = s.mem ∧ t.posted = s.posted ∧ (∀ b p, w.slot b = some p → p.mask &&& lanes = 0#32) ∧
          (c.act &&& ~~~lanes ≠ 0#32 → ∃ p, w.slot c.slotB = some p ∧ p.pc = c.cur.next ∧ p.mask = c.act &&& ~~~lanes ∧ p.mode = c.mode)))

open Sys2Proof Sys2Proof.Machine Sys2Proof.Claims in
/-- CAP and UNCAP (R194 to R198). CAP writes 1 when the wave holds the line already, traps CAP_ORDER when both records name other lines or
a held one a higher line; else it asks for the line, waits, and writes 0 when it comes back from the wait with the record held; it is
an acquire when it completes. UNCAP of a held cap releases the line and writes 0 once the wave's writes are performed; of an expired one writes 1; with no
record it writes 2.
Points the manual leaves open are as log entries 22, 33, 116 say. -/
def Obligations.CapResults : Prop :=
  ∀ (d a : Reg) (b : Selector) (s : State) (c : Ctx), c.txLanes = 0#32 →
    let va := c.address1 a 0 / 128
    let gives := fun (i : Instr) (status : Word) (u : State) (w' : Wave) =>
      ∃ (t : State) (w : Wave), exec i s = .next t ∧ Completed { c with s := u, w := w' } c.cur.next t w ∧
        WritesRun w' w d 1 0xFFFFFFFF#32 fun _ _ => status
    (Issues (.cap d a b) anyType s c →
      (∀ line, (c.w.cap0 = .held va line ∨ (c.w.cap0.va? ≠ some va ∧ c.w.cap1 = .held va line)) →
        gives (.cap d a b) (if c.p.wait = .memory then 0#32 else 1#32) c.s c.acquire.w) ∧
      (c.w.cap0.va? ≠ some va → c.w.cap1.va? ≠ some va →
        (c.w.cap0 ≠ .empty ∧ c.w.cap1 ≠ .empty) ∨ (∃ x line, va < x ∧ (c.w.cap0 = .held x line ∨ c.w.cap1 = .held x line)) →
        exec (.cap d a b) s = .next (c.raise ⟨0x30, 0, va * 128, c.act⟩)) ∧
      (∀ t : Translation, c.w.cap0 = .empty → c.w.cap1 = .empty → c.tag = 0 → c.act ≠ 0#32 → c.s.coreCaps c.core < 8 → NoCommit c →
        Storage c 1 (c.address1 a 0) t → t.read = true → t.write = true → t.repl = false →
        ∃ (u : State) (w' : Wave), exec (.cap d a b) s = .next ({ c with s := u, w := w' }.waits .memory) ∧
          w' = { c.w with cap0 := .asked va (lineOf (t.pa (c.address1 a 0))) } ∧ u.mem = c.s.mem ∧
          (u.line (lineOf (t.pa (c.address1 a 0)))).waiting =
            (c.s.line (lineOf (t.pa (c.address1 a 0)))).waiting ++ [.cap c.gk c.wi (32 * 2 ^ b.toNat)] ∧
          Comes u (.capHeld (lineOf (t.pa (c.address1 a 0)))))) ∧
    (Issues (.uncap d a) anyType s c →
      (c.w.cap0.va? ≠ some va → c.w.cap1.va? ≠ some va → gives (.uncap d a) 2#32 c.s c.w) ∧
      (c.w.cap0 = .expired va → gives (.uncap d a) 1#32 c.s { c.w with cap0 := .empty }) ∧
      (c.w.cap0.va? ≠ some va → c.w.cap1 = .expired va → gives (.uncap d a) 1#32 c.s { c.w with cap1 := .empty }) ∧
      (∀ line, c.w.cap0 = .held va line ∨ (c.w.cap0.va? ≠ some va ∧ c.w.cap1 = .held va line) →
        (c.settled = false → exec (.uncap d a) s = .next (c.waits .fence)) ∧
        (c.settled = true → ∃ (u : State) (w' : Wave), gives (.uncap d a) 0#32 u w' ∧
          u = { c.s with lines := u.lines, agenda := u.agenda } ∧
          (∀ m, u.line m = if m = line then { c.s.line m with cap := none } else c.s.line m) ∧
          w' = { c.w with cap0 := if c.w.cap0 = .held va line then .empty else c.w.cap0
                          cap1 := if c.w.cap0 = .held va line then c.w.cap1 else .empty })))

open Sys2Proof Sys2Proof.Machine Sys2Proof.Claims in
/-- FENCE (R187 to R189). acq completes at once. rel and full wait until every write that the wave issued before is performed and no operation
of a masked engine class is under way; then they complete, but at fab and sys scope a lost peer card traps FENCE_PEER_LOST behind the
fence. Behind acq and full nothing older is loaded (R274). Inside a transaction sys scope or an engine mask aborts it, and any other
fence does nothing (R200).

PREF, WBL and DROPL never trap on an address and write no register (R199). PREF changes no byte that anyone reads while no region is
under software management, and only leases. WBL and DROPL wait for the wave's writes to their lines; then they post a write-back of each
line that the lanes name, and DROPL leaves the core without a lease of the lines and without their ownership.
Points the manual leaves open are as log entries 22, 27, 44 say. -/
def Obligations.FenceAndLineOperations : Prop :=
  (∀ (d a b : Selector) (s : State) (c : Ctx), Issues (.fence d a b) anyType s c →
      let done := c.settled = true ∧ ∀ i, i < 4 → b.getLsbD i = true → Tab.get 0 c.w.counts i = 0
      let nothing := fun e : Ctx => ∃ (t : State) (w : Wave), exec (.fence d a b) s = .next t ∧ Completed e c.cur.next t w ∧ WritesNone c.w w
      (c.txLanes = 0#32 → d = 1#8 ∨ (done ∧ (c.w.lostPeers = [] ∨ a.toNat < 5)) → nothing (if d = 1#8 ∨ d = 3#8 then c.acquire else c)) ∧
      (c.txLanes = 0#32 → d ≠ 1#8 → ¬done → exec (.fence d a b) s = .next (c.waits .fence)) ∧
      (c.txLanes = 0#32 → d ≠ 1#8 → done → 5 ≤ a.toNat → Trappable c 0x33 → c.g.tag < 16 → (∀ x, c.w.tx = some x → x.depth < 8) →
        ∀ peer rest, c.w.lostPeers = peer :: rest →
          ∃ t w, exec (.fence d a b) s = .next t ∧ waveOf t c.gk c.wi = some w ∧ w.lostPeers = rest ∧ w.handler ≠ none ∧
            w.frameBits 0 0 32 = c.cur.next.toNat ∧ w.frameBits 0 160 8 = 0x33 ∧ w.frameBits 0 168 8 = peer % 256 ∧ t.mem = s.mem) ∧
      (c.txLanes ≠ 0#32 → a ≠ 6#8 → b = 0#8 → nothing c) ∧
      (c.txLanes ≠ 0#32 → a = 6#8 ∨ b ≠ 0#8 → exec (.fence d a b) s = .next (c.abortNow (c.concerned c.act) 10 c.p.pc.toNat))) ∧
  (∀ (a : Reg) (s : State) (c : Ctx),
      (Issues (.pref a) anyType s c → ∃ (t : State) (w : Wave) (u : State), exec (.pref a) s = .next t ∧ OnlyCaches c u ∧
        Completed { c with s := u } c.cur.next t w ∧ WritesNone c.w w) ∧
      (∀ (i : Instr) (drop : Bool), (i, drop) ∈ [(Instr.wbl a, false), (.dropl a, true)] → Issues i anyType s c →
        (c.linesBusy (c.namedLines a) = true → exec i s = .next (c.waits .memory)) ∧
        (c.linesBusy (c.namedLines a) = false →
          ∃ (t : State) (w : Wave) (u : State) (new : List PostedWrite), exec i s = .next t ∧ Completed { c with s := u } c.cur.next t w ∧
            WritesNone c.w w ∧
            u = { c.s with posted := c.s.posted ++ new, agenda := u.agenda, serial := u.serial, leases := u.leases, lines := u.lines } ∧
            (∀ p ∈ new, p.g = c.gk ∧ p.w = c.wi ∧ p.bytes = [] ∧ .event (.homeWrite p.id) ∈ u.agenda) ∧
            new.map (·.back) = (c.namedLines a).map (fun n => some (n.1, drop)) ∧
            (i = .wbl a → u.leases = c.s.leases ∧ u.lines = c.s.lines) ∧
            (∀ l ea tr, l < 32 → c.S.getLsbD l = true → ea = c.address1 a l → Storage c 1 ea tr → tr.read = true →
              let line := c.s.viewLine (c.placeFor tr (tr.pa ea))
              (∃ page, (line, page) ∈ c.namedLines a) ∧
                (drop = true → u.leased line c.core = false ∧ (u.line line).owner ≠ some c.core)))))

/-! ## Row 0x8: transactions (R203 to R214) -/

namespace Sys2Proof.Claims

open Machine

/-- The value that a register is restored to: what the checkpoint holds (R205, R211). -/
def shadowOf (tx : Tx) (r : RegName) : Option (List Word) := (tx.shadow.find? fun e => e.1 == r).map (·.2)

/-- In t the lanes have aborted (R211 to R213): code and address are recorded; v and q registers of the lanes are restored, k registers
when every member aborts; the lanes are members no longer and their buffered stores are gone; they stand at the abort target, in
the mode of the TRY. No byte of memory has changed. -/
structure Aborted (c : Ctx) (tx : Tx) (lanes : LaneMask) (code : Nat) (addr : Nat → Nat) (t : State) (w : Wave) : Prop where
  wave : waveOf t c.gk c.wi = some w
  code : ∀ l, l < 32 → Tab.get 0#8 w.tcode l = if lanes.getLsbD l then BitVec.ofNat 8 code else Tab.get 0#8 c.w.tcode l
  addr : ∀ l, l < 32 → Tab.get 0#64 w.taddr l = if lanes.getLsbD l then BitVec.ofNat 64 (addr l) else Tab.get 0#64 c.w.taddr l
  v : ∀ r l, l < 32 → Tab.get 0#32 w.v (vKey r l) =
    match lanes.getLsbD l, shadowOf tx (.v r) with
    | true, some x => x.getD l 0#32
    | _, _ => Tab.get 0#32 c.w.v (vKey r l)
  q : ∀ r l, l < 32 → r ≠ 0 → (Tab.get 0#32 w.q r).getLsbD l =
    match lanes.getLsbD l, shadowOf tx (.q r) with
    | true, some x => (x.headD 0#32).getLsbD l
    | _, _ => (Tab.get 0#32 c.w.q r).getLsbD l
  k : ∀ r, Tab.get 0#32 w.k r =
    match decide (tx.members &&& ~~~lanes = 0#32), shadowOf tx (.k r) with
    | true, some x => x.headD 0#32
    | _, _ => Tab.get 0#32 c.w.k r
  ended : tx.members &&& ~~~lanes = 0#32 → w.tx = none
  goesOn : tx.members &&& ~~~lanes ≠ 0#32 → ∃ x, w.tx = some x ∧ x.members = tx.members &&& ~~~lanes ∧ x.depth = tx.depth ∧
    ∀ e ∈ x.writes, lanes.getLsbD (e.1 % 32) = false
  path : ∃ b p, w.slot b = some p ∧ p.pc = tx.tryPc ∧ p.mode = tx.tryMode ∧ p.mask = lanes
  mem : t.mem = c.s.mem
  posted : t.posted = c.s.posted

/-- A slot is free once the lanes have left (R212). -/
def FreesSlot (c : Ctx) (lanes : LaneMask) : Prop := ∃ b, ∀ p, c.w.slot b = some p → p.mask &&& ~~~lanes = 0#32

/-- The instructions that abort a transaction from a member path whatever their operands: CAP, UNCAP, SLEEPUNTIL, the barriers, the
reductions, GROW, SHRINK, EARLYGO, rows 0x9 to 0xC, BKPT (R200, R207). -/
def unsupportedInside (i : Instr) : Bool :=
  match i with
  | .cap .. | .uncap .. | .sleepuntil .. | .barw .. | .bara .. | .barwt .. | .barx .. | .tredadd .. | .tredmin .. | .tredmax ..
  | .grow .. | .shrink .. | .earlygo | .ldf32 .. | .fcommit .. | .fsquash .. | .fstate .. | .flip .. | .signal .. | .glaunch .. | .bkpt
  | .tdef .. | .trel .. | .tcur .. | .tcurhi .. | .tquery .. | .cpy .. | .cpyt .. | .cpyq .. | .cpyx .. | .gath .. | .scata ..
  | .mbld .. | .mma .. | .mmas .. | .mzero .. | .mdrain .. | .mdraina .. | .mrd .. | .mwr .. | .mbatch .. | .rayq .. | .rayqa ..
  | .tex .. | .texl .. | .texg .. => true
  | _ => false

/-- Two lanes of a transaction conflict: one has written a word that the other has read or written (R209). Keys are lane + 32 × place. -/
def Conflict (tx : Tx) (l m : Nat) : Prop :=
  ∃ x ∈ tx.writes, ∃ y ∈ tx.reads ++ tx.writes, x.1 / 32 / 4 = y.1 / 32 / 4 ∧
    ((x.1 % 32 = l ∧ y.1 % 32 = m) ∨ (x.1 % 32 = m ∧ y.1 % 32 = l))

/-- Every live member waits at TCOMMIT in a slot, nothing else of the wave is under way, it is neither in handler mode nor halted, no commit
that meets this one has come before it, and every line of the sets is one of memory that takes a write of the wave now: the commit can
run (R42, R209). -/
structure CanCommit (c : Ctx) (tx : Tx) : Prop where
  opened : c.w.tx = some tx
  members : tx.members &&& c.w.live ≠ 0#32
  wait : ∀ l, l < 32 → (tx.members &&& c.w.live).getLsbD l = true →
    tx.waiting.getLsbD l = true ∧ ∃ b p, c.w.slot b = some p ∧ p.mask.getLsbD l = true
  free : c.w.handler = none ∧ c.g.halted = false ∧ c.s.quiet c.gk c.wi = true ∧ c.w.entries = [] ∧ c.w.unplaced = none
  sound : ∀ k ∈ tx.readLines ++ tx.writeLines, k / 32 < 2 ^ 45 ∧ c.s.writeServed (k / 32) c.gk c.wi = true ∧
    (c.s.queueOf (k / 32) = [] ∨ (tx.firstLine ≠ none ∧ c.s.firstAt (k / 32) (c.claim tx) = true))
  first : c.rival { tx with firstLine := some (tx.firstLine.getD (c.s.serial + 1)) } = false
  kept : tx.skipped = []
  places : ∀ e ∈ tx.reads ++ tx.writes, e.1 / 32 < 2 ^ 52

end Sys2Proof.Claims

open Sys2Proof Sys2Proof.Machine Sys2Proof.Claims in
/-- TRY with no transaction open: the active lanes become its members and the target and the mode its abort path (R203). From a member path
it nests, at most four deep, and a fifth TRY aborts every member with code 5; from any other path it waits (R204). A target that R140
does not allow traps BAD_TARGET. TCOMMIT undoes one nesting, does nothing in a path without members, and else waits for the commit, as does a path
that waits for it already, whatever nesting there is now.
TSTAT and TADDR write each lane's code and address (R213).
Points the manual leaves open are as log entries 38, 39 say. -/
def Obligations.TransactionBasics : Prop :=
  ∀ (s : State) (c : Ctx),
    (∀ (lane : Bool) (disp : BitVec 23), Issues (.tryT lane disp) anyType s c →
      let x := (c.p.pc.toNat : Int) + 4 * disp.toInt
      (c.w.tx = none → goodTarget c x → ∃ (t : State) (w : Wave), exec (.tryT lane disp) s = .next t ∧
        Completed { c with w := { c.w with tx := some { depth := 1, members := c.act, perLane := lane, tryPc := BitVec.ofInt 32 x, tryMode := c.mode } } }
          c.cur.next t w ∧ WritesNone c.w w) ∧
      (c.w.tx = none → ¬goodTarget c x → exec (.tryT lane disp) s = .next (c.raise ⟨0x05, 0, wrapBits 64 (c.code.base + x), c.act⟩)) ∧
      (∀ tx, c.w.tx = some tx → c.memberLanes = 0#32 → exec (.tryT lane disp) s = .next (c.waits .commit)) ∧
      (∀ tx, c.w.tx = some tx → c.memberLanes ≠ 0#32 → tx.depth < 4 → ∃ (t : State) (w : Wave), exec (.tryT lane disp) s = .next t ∧
        Completed { c with w := { c.w with tx := some { tx with depth := tx.depth + 1 } } } c.cur.next t w ∧ WritesNone c.w w) ∧
      (∀ tx, c.w.tx = some tx → c.memberLanes ≠ 0#32 → 4 ≤ tx.depth → FreesSlot c tx.members → c.w.unplaced = none → c.w.live ≠ 0#32 →
        ∃ (t : State) (w : Wave), exec (.tryT lane disp) s = .next t ∧ Aborted c tx tx.members 5 (fun _ => 0) t w)) ∧
    (Issues .tcommit anyType s c →
      (c.memberLanes = 0#32 → ∃ (t : State) (w : Wave), exec .tcommit s = .next t ∧ Completed c c.cur.next t w ∧ WritesNone c.w w) ∧
      (∀ tx, c.w.tx = some tx → c.memberLanes ≠ 0#32 → tx.depth ≠ 1 → c.act &&& tx.waiting = 0#32 → ∃ (t : State) (w : Wave), exec .tcommit s = .next t ∧
        Completed { c with w := { c.w with tx := some { tx with depth := tx.depth - 1 } } } c.cur.next t w ∧ WritesNone c.w w) ∧
      (∀ tx, c.w.tx = some tx → c.memberLanes ≠ 0#32 → tx.depth = 1 ∨ c.act &&& tx.waiting ≠ 0#32 → c.w.entries = [] →
        exec .tcommit s = .next ({ c with s := c.s.postOnce (.txCommit c.gk c.wi),
                                          w := { c.w with tx := some { tx with waiting := tx.waiting ||| c.act } } }.waits .commit))) ∧
    (∀ d : Reg, Issues (.tstat d) anyType s c → ∃ (t : State) (w : Wave), exec (.tstat d) s = .next t ∧ Completed c c.cur.next t w ∧
      WritesRun c.w w d 1 c.S fun _ l => (Tab.get 0#8 c.w.tcode l).setWidth 32) ∧
    (∀ d : Reg, Issues (.taddr d) anyType s c → ∃ (t : State) (w : Wave), exec (.taddr d) s = .next t ∧ Completed c c.cur.next t w ∧
      WritesRun c.w w d 2 c.S (halves fun l => Tab.get 0#64 c.w.taddr l))

open Sys2Proof Sys2Proof.Machine Sys2Proof.Claims in
/-- Aborts (R207, R211 to R214): TABORT of member lanes with its code, the other lanes going on; code 10, with the code offset as address,
for an instruction that a transaction does not allow and for every cause but ECC_UNCORRECTED, ALIGN and PROTECTION, of the path's
lanes under the per-lane flag and of all members else. TABORT of other lanes does nothing.
Points the manual leaves open are as log entries 38, 39, 40 say. -/
def Obligations.TransactionAborts : Prop :=
  ∀ (s : State) (c : Ctx) (tx : Tx), s.ctx? = some c → c.w.tx = some tx → c.w.handler = none → c.w.unplaced = none → c.w.live ≠ 0#32 →
    let lanes := fun (m : LaneMask) => if tx.perLane then m &&& tx.members else tx.members
    (∀ code : Selector, Issues (.tabort code) anyType s c → c.S &&& c.memberLanes ≠ 0#32 → FreesSlot c (lanes c.S) →
      ∃ (t : State) (w : Wave), exec (.tabort code) s = .next t ∧ Aborted c tx (lanes c.S) code.toNat (fun _ => 0) t w ∧
        (c.act &&& ~~~(lanes c.S) ≠ 0#32 → ∃ p, w.slot c.slotB = some p ∧ p.pc = c.cur.next ∧ p.mask = c.act &&& ~~~(lanes c.S))) ∧
    (∀ code : Selector, Issues (.tabort code) anyType s c → c.S &&& c.memberLanes = 0#32 →
      ∃ (t : State) (w : Wave), exec (.tabort code) s = .next t ∧ Completed c c.cur.next t w ∧ WritesNone c.w w) ∧
    (c.memberLanes ≠ 0#32 → FreesSlot c (lanes c.act) →
      (∀ i : Instr, unsupportedInside i = true → c.precheck i true = none → c.interlocked (readNames c.mode i ++ writtenNames c.mode i) = false →
        ∃ (t : State) (w : Wave), exec i s = .next t ∧ Aborted c tx (lanes c.act) 10 (fun _ => c.p.pc.toNat) t w) ∧
      (∀ x : Trap, x.cause ∉ [0x50, 0x10, 0x12] →
        ∃ w, Aborted c tx (lanes c.act) 10 (fun _ => c.p.pc.toNat) (c.raise x) w))

open Sys2Proof Sys2Proof.Machine Sys2Proof.Claims in
/-- The commit (R209, R210), on trunk memory: while a live member does not wait at its TCOMMIT, it is looked at again. When no two members
conflict and every value that one has read stands at its home, the buffered stores of all of them are at their homes in the next
state and no other byte has changed; the transaction is over, codes and addresses of the members are 0, their paths stand behind the
TCOMMIT, and registers are as before. When the whole-wave transaction's members conflict, none of the stores is performed and all
abort with code 1; when a value read has changed, with code 2.
Points the manual leaves open are as log entries 38, 40, 41 say. -/
def Obligations.TransactionCommit : Prop :=
  ∀ (s : State) (c : Ctx) (tx : Tx), s.waveCtx? c.gk c.wi = some c → c.w.tx = some tx →
    let m := tx.members &&& c.w.live
    let current := ∀ e ∈ tx.reads, m.getLsbD (e.1 % 32) = true → s.byteAt (e.1 / 32) = e.2
    (c.waitingLanes ≠ 0#32 → m &&& ~~~c.waitingLanes ≠ 0#32 → exec (.txCommit c.gk c.wi) s = .next (s.repost (.txCommit c.gk c.wi))) ∧
    (CanCommit c tx → (∀ k ∈ tx.torn, m.getLsbD (k % 32) = false) → current →
      (∀ i j, i < 32 → j < 32 → i ≠ j → m.getLsbD i = true → m.getLsbD j = true → ¬Conflict tx i j) →
      ∃ (t : State) (w : Wave), exec (.txCommit c.gk c.wi) s = .next t ∧ waveOf t c.gk c.wi = some w ∧ w.tx = none ∧ WritesNone c.w w ∧
        (∀ l, l < 32 → m.getLsbD l = true → Tab.get 0#8 w.tcode l = 0#8 ∧ Tab.get 0#64 w.taddr l = 0#64) ∧
        (∀ e ∈ tx.writes, m.getLsbD (e.1 % 32) = true → (∀ e' ∈ tx.writes, e'.1 = e.1 → e' = e) → t.byteAt (e.1 / 32) = e.2) ∧
        (∀ place, place < 2 ^ 60 → (∀ e ∈ tx.writes, m.getLsbD (e.1 % 32) = true → e.1 / 32 ≠ place) → t.byteAt place = s.byteAt place) ∧
        (∀ b p, c.w.slot b = some p → p.mask &&& m ≠ 0#32 → ∃ p', w.slot b = some p' ∧ p'.mask = p.mask ∧ p'.wait = .none ∧
          p'.pc = BitVec.ofNat 32 (nextOffset p.pc.toNat false))) ∧
    (CanCommit c tx → tx.perLane = false → tx.members &&& ~~~c.w.live = 0#32 → FreesSlot c m →
      (∃ i j, i < 32 ∧ j < 32 ∧ i ≠ j ∧ m.getLsbD i = true ∧ m.getLsbD j = true ∧ Conflict tx i j) →
      ∃ (t : State) (w : Wave) (a : Nat → Nat), exec (.txCommit c.gk c.wi) s = .next t ∧ Aborted c tx m 1 a t w) ∧
    (CanCommit c tx → tx.perLane = false → tx.members &&& ~~~c.w.live = 0#32 → FreesSlot c m → ¬current →
      (∀ i j, i < 32 → j < 32 → i ≠ j → m.getLsbD i = true → m.getLsbD j = true → ¬Conflict tx i j) →
      ∃ (t : State) (w : Wave) (a : Nat → Nat), exec (.txCommit c.gk c.wi) s = .next t ∧ Aborted c tx m 2 a t w)

/-! ## Row 0x8: teams, windows, the early point (R20 to R23, R217 to R225) -/

namespace Sys2Proof.Claims

open Machine

/-- The wave of path c is a member of team id, t, of its launch l, and issues outside a transaction. -/
structure MemberOf (c : Ctx) (id l : Nat) (t : Team) : Prop where
  outside : c.txLanes = 0#32
  launch : c.g.launch = some l
  team : c.s.team l id = some t
  member : (c.g.linear, c.wi) ∈ t.members

/-- The team instructions with the team each names. -/
def teamOf : Instr → Option Nat
  | .barw m | .bara _ m | .barwt m _ | .barx m _ | .tredadd _ _ m | .tredmin _ _ m | .tredmax _ _ m => some m.toNat
  | _ => none

/-- A phase of a launch's team is over: someone has arrived, every member has arrived or ended, no byte is pending (R23), and what each member
had issued before its arrival has been performed, with the engine writes of the launch at every replica (R219). -/
def PhaseOver (s : State) (l : Nat) (t : Team) : Prop :=
  t.arrived ≠ [] ∧ t.pending = 0#32 ∧ (∀ m ∈ t.members, m ∈ t.arrived ∨ s.memberEnded l m.1 m.2 = true) ∧
    (∀ x ∈ t.marks, s.markDone l x = true) ∧ s.engineLags l = false

/-- From s to u the team has become t', and its phase has ended if it is over then; no other team, and nothing else of the device, has
changed. -/
structure TeamBecomes (s : State) (l id : Nat) (t' : Team) (u : State) : Prop where
  rest : u = { s with launches := u.launches, agenda := u.agenda }
  launches : ∀ k, k ≠ l → u.launches.find? k = s.launches.find? k
  teams : ∀ i, i ≠ id → u.team l i = s.team l i
  ends : PhaseOver s l t' → u.team l id = some { t' with phase := t'.phase + 1#32, arrived := [], marks := [], age := 0, logged := false }
  open_ : ¬PhaseOver s l t' → u.team l id = some t'

/-- t with the arrival of the wave of c: each wave arrives once in a phase, and what it has issued so far comes before its arrival. -/
def withArrival (c : Ctx) (t : Team) : Team :=
  if (c.g.linear, c.wi) ∈ t.arrived then t
  else { t with arrived := insertNew (c.g.linear, c.wi) t.arrived, marks := t.marks ++ [(c.g.linear, c.wi, c.s.serial)] }

/-- The phase of t is over with the wave of c. -/
def LastArrival (c : Ctx) (l : Nat) (t : Team) : Prop := PhaseOver c.s l (withArrival c t)

/-- The kinds of reduction, with D and A. -/
def reduceForm : Instr → Option (ReduceKind × Reg × Reg × Selector)
  | .tredadd d a m => some (.sum, d, a, m)
  | .tredmin d a m => some (.min, d, a, m)
  | .tredmax d a m => some (.max, d, a, m)
  | _ => none

/-- The result of a round over what its arrivals contributed, under the mode of the first (R221). -/
def ReduceRule (k : ReduceKind) (m : ModeImage) (xs : List Word) (y : Word) : Prop :=
  let below := fun (a b : Word) => if modeType m = 6 then a.toInt ≤ b.toInt else a.toNat ≤ b.toNat
  match k with
  | .sum =>
    if modeType m = 0 then xs ≠ [] → y = BitVec.ofNat 32 (fmtF32.round (roundingOf m) (fvSum (modeRound m == 3)
      (xs.map fun x => fmtF32.value (modeFtz m) x.toNat)))
    else y = xs.foldr (fun a b => a + b) 0#32
  | .min =>
    if modeType m = 0 then (xs = [] → y = 0x7F800000#32)
    else (xs = [] → y = if modeType m = 6 then 0x7FFFFFFF#32 else 0xFFFFFFFF#32) ∧ (xs ≠ [] → y ∈ xs ∧ ∀ x ∈ xs, below y x)
  | .max =>
    if modeType m = 0 then (xs = [] → y = 0xFF800000#32)
    else (xs = [] → y = if modeType m = 6 then 0x80000000#32 else 0#32) ∧ (xs ≠ [] → y ∈ xs ∧ ∀ x ∈ xs, below x y)

end Sys2Proof.Claims

open Sys2Proof Sys2Proof.Machine Sys2Proof.Claims in
/-- The barriers (R217 to R219). A wave that is no member traps NOT_MEMBER. BARA arrives, writes the phase of its arrival and goes on at
once. BARW arrives; it goes on when its arrival ends the phase, and else waits until the phase has changed; a phase ends only when what
its members had issued before their arrivals has been performed. BARWT goes on for a phase that has ended, traps for one that has not
begun, and in the current one arrives and waits. BARX adds pending bytes. Behind BARW and BARWT nothing older is loaded (R219, R272).
Points the manual leaves open are as log entries 42, 43 say. -/
def Obligations.BarrierResults : Prop :=
  ∀ (s : State) (c : Ctx),
    (∀ (i : Instr) (id : Nat), Issues i (fun m => (reduceForm i).isNone || reduceType m) s c → teamOf i = some id → c.txLanes = 0#32 →
      (∀ l t, ¬MemberOf c id l t) → exec i s = .next (c.raise ⟨0x32, id, 0, c.act⟩)) ∧
    (∀ (d : Reg) (m : Selector) (l : Nat) (t : Team), Issues (.bara d m) anyType s c → MemberOf c m.toNat l t →
      ∃ (u t' : State) (w : Wave), exec (.bara d m) s = .next t' ∧
        TeamBecomes c.s l m.toNat (withArrival c t) u ∧ Completed { c with s := u } c.cur.next t' w ∧
        WritesRun c.w w d 1 0xFFFFFFFF#32 fun _ _ => t.phase) ∧
    (∀ (m : Selector) (l : Nat) (t : Team), Issues (.barw m) anyType s c → MemberOf c m.toNat l t →
      (c.p.wait ≠ .barrier → LastArrival c l t → ∃ (u t' : State) (w : Wave), exec (.barw m) s = .next t' ∧
        TeamBecomes c.s l m.toNat (withArrival c t) u ∧ Completed { c with s := u }.acquire c.cur.next t' w ∧ WritesNone c.w w) ∧
      (c.p.wait ≠ .barrier → ¬LastArrival c l t → ∃ (u : State) (w : Wave), TeamBecomes c.s l m.toNat (withArrival c t) u ∧
        w = { c.w with arrived := w.arrived } ∧ (m.toNat * 2 + c.slotB.toNat, t.phase) ∈ w.arrived ∧
        exec (.barw m) s = .next ({ c with s := u, w := w }.waits .barrier)) ∧
      (∀ ph, c.p.wait = .barrier → c.w.arrived.find? (fun x => x.1 == m.toNat * 2 + c.slotB.toNat) = some (m.toNat * 2 + c.slotB.toNat, ph) →
        (t.phase = ph → exec (.barw m) s = .next (c.waits .barrier)) ∧
        (t.phase ≠ ph → ∃ (t' : State) (w w' : Wave), exec (.barw m) s = .next t' ∧ w' = { c.w with arrived := w'.arrived } ∧
          Completed { c with w := w' }.acquire c.cur.next t' w ∧ WritesNone c.w w))) ∧
    (∀ (m : Selector) (b : Reg) (l : Nat) (t : Team), Issues (.barwt m b) anyType s c → MemberOf c m.toNat l t →
      let delta := (t.phase - c.val b 0).toNat
      (2 ^ 31 ≤ delta → exec (.barwt m b) s = .next (c.raise ⟨0x03, 3, 0, c.act⟩)) ∧
      (1 ≤ delta → delta < 2 ^ 31 → ∃ (t' : State) (w : Wave), exec (.barwt m b) s = .next t' ∧ Completed c.acquire c.cur.next t' w ∧
        WritesNone c.w w) ∧
      (delta = 0 → LastArrival c l t → ∃ (u t' : State) (w : Wave), exec (.barwt m b) s = .next t' ∧
        TeamBecomes c.s l m.toNat (withArrival c t) u ∧ Completed { c with s := u }.acquire c.cur.next t' w ∧ WritesNone c.w w) ∧
      (delta = 0 → ¬LastArrival c l t → ∃ u : State, TeamBecomes c.s l m.toNat (withArrival c t) u ∧
        exec (.barwt m b) s = .next ({ c with s := u }.waits .barrier))) ∧
    (∀ (m : Selector) (b : Reg) (l : Nat) (t : Team), Issues (.barx m b) anyType s c → MemberOf c m.toNat l t →
      ∃ (u t' : State) (w : Wave), exec (.barx m b) s = .next t' ∧ TeamBecomes c.s l m.toNat { t with pending := t.pending + c.val b 0 } u ∧
        Completed { c with s := u } c.cur.next t' w ∧ WritesNone c.w w)

open Sys2Proof Sys2Proof.Machine Sys2Proof.Claims in
/-- TREDADD, TREDMIN and TREDMAX (R220, R221): in a member wave they complete and the path goes on, when the first round of the kind in which
the wave has not arrived has the mode's type, or there is none; no k register, no predicate and no byte of memory changes. While no
barrier phase and no round of another kind is open: the first arrivals of a round complete with vD left to wait for its result, and
their values stand in the round. The last arrival's vD takes, in the lanes of S, the result over every value contributed, and the round
is gone. An arrival under another type than the round's first traps ILLEGAL_TYPE.
Points the manual leaves open are as log entries 20, 42, 43 say. -/
def Obligations.ReductionResults : Prop :=
  (∀ (i : Instr) (s : State) (c : Ctx) (k : ReduceKind) (n : Fin 192) (a : Reg) (m : Selector) (l : Nat) (t : Team),
    Issues i (fun x => modeType x ∈ [0x0, 0x6, 0x7]) s c → reduceForm i = some (k, .v n, a, m) → MemberOf c m.toNat l t →
    (∀ r, (t.rounds k).find? (fun r => !r.arrived.contains (c.g.linear, c.wi)) = some r → modeType (r.mode.getD c.mode) = modeType c.mode) →
    ∃ (t' : State) (w : Wave) (p : Path), exec i s = .next t' ∧ waveOf t' c.gk c.wi = some w ∧ w.slot c.slotB = some p ∧ p.pc = c.cur.next ∧
      p.mask = c.act ∧ p.mode = c.mode ∧ w.k = c.w.k ∧ w.q = c.w.q ∧ t'.mem = s.mem) ∧
  (∀ (i : Instr) (s : State) (c : Ctx) (k : ReduceKind) (n : Fin 192) (a : Reg) (m : Selector) (l : Nat) (t : Team) (r : Reduction) (mode : ModeImage),
    Issues i (fun x => modeType x ∈ [0x0, 0x6, 0x7]) s c → reduceForm i = some (k, .v n, a, m) → MemberOf c m.toNat l t → t.arrived = [] →
    (∀ j, j ≠ k → t.rounds j = []) →
    -- the open round of the kind, or one that begins with this arrival
    (t.rounds k = [r] ∧ r.mode = some mode ∧ (c.g.linear, c.wi) ∉ r.arrived) ∨
      (t.rounds k = [] ∧ r = ⟨some c.mode, [], [], []⟩ ∧ mode = c.mode) →
    let xs := r.values ++ (lanesOf c.S).map fun j => c.val a j
    let last := ∀ x ∈ t.members, x = (c.g.linear, c.wi) ∨ x ∈ r.arrived ∨ c.s.memberEnded l x.1 x.2 = true
    (modeType mode ≠ modeType c.mode → exec i s = .next (c.raise ⟨0x07, modeType c.mode, 0, c.act⟩)) ∧
    (modeType mode = modeType c.mode → ¬last → ∃ (u t' : State) (w : Wave) (r' : Reduction), exec i s = .next t' ∧
      u = { c.s with launches := u.launches, serial := u.serial } ∧ Completed { c with s := u } c.cur.next t' w ∧ WritesNone c.w w ∧
      (∃ x ∈ w.scoreboard, x.regs = [.v n.val] ∧ x.lanes = c.S ∧ (c.gk, c.wi, n.val, c.S, x.id) ∈ r'.takers) ∧
      u.team l m.toNat = some (t.setRounds k [r']) ∧ r'.values = xs ∧ r'.arrived = r.arrived ++ [(c.g.linear, c.wi)] ∧ r'.mode = some mode) ∧
    (modeType mode = modeType c.mode → last → (∀ x ∈ r.takers, ¬(x.1 = c.gk ∧ x.2.1 = c.wi)) →
      ∃ (t' : State) (w : Wave) (y : Word), exec i s = .next t' ∧ waveOf t' c.gk c.wi = some w ∧ ReduceRule k mode xs y ∧
        WritesRun c.w w (.v n) 1 c.S (fun _ _ => y) ∧ t'.team l m.toNat = some (t.setRounds k []) ∧ t'.mem = s.mem ∧
        ∃ p, w.slot c.slotB = some p ∧ p.pc = c.cur.next ∧ p.mask = c.act ∧ p.mode = c.mode))

open Sys2Proof Sys2Proof.Machine Sys2Proof.Claims in
/-- The register window (R222, R223): GROW past 192 registers and SHRINK below 8 trap ILLEGAL_OPERAND. GROW waits as a request of its core;
GROW_GRANT of the oldest request, once the store has room and the registers' banks are awake, adds the registers, which read 0, and the
path goes on. SHRINK waits for
results on their way to a removed register; then the window is smaller and the registers that stay hold what they held.
Points the manual leaves open are as log entries 13, 111 say. -/
def Obligations.WindowResults : Prop :=
  ∀ (s : State) (c : Ctx),
    (∀ b : Selector, Issues (.grow b) anyType s c → c.txLanes = 0#32 →
      (192 < c.w.n + 8 * b.toNat → exec (.grow b) s = .next (c.raise ⟨0x03, 3, 0, c.act⟩)) ∧
      (c.w.n + 8 * b.toNat ≤ 192 → ∃ u : State, exec (.grow b) s = .next ({ c with s := u }.waits .registers) ∧
        u = { c.s with grows := u.grows, agenda := u.agenda } ∧ (c.gk, c.wi, c.slotB, b.toNat) ∈ u.grows ∧
        Comes u (.growGrant c.gk c.wi c.slotB))) ∧
    (∀ (gk wi : Nat) (slotB : Bool) (n : Nat) (g : Group) (w : Wave) (p : Path) (rest : List (Nat × Nat × Bool × Nat)),
      s.grows = (gk, wi, slotB, n) :: rest → s.groups.find? gk = some g → g.waves[wi]? = some w → w.slot slotB = some p → g.halted = false →
      s.storeUsed (coreOfGroup gk) + 1024 * n ≤ coreStore → w.n + 8 * n ≤ 192 → s.bankWake (coreOfGroup gk) (w.n + 8 * n) = 0 →
      ∃ (t : State) (w' : Wave) (p' : Path), exec (.growGrant gk wi slotB) s = .next t ∧ waveOf t gk wi = some w' ∧ t.grows = rest ∧
        w'.n = w.n + 8 * n ∧ w'.k = w.k ∧ w'.q = w.q ∧ t.mem = s.mem ∧ w'.slot slotB = some p' ∧ p'.mask = p.mask ∧ p'.mode = p.mode ∧
        p'.pc = BitVec.ofNat 32 (nextOffset p.pc.toNat false) ∧ p'.wait = .none ∧ w'.slot (!slotB) = w.slot (!slotB) ∧
        ∀ r l, l < 32 → Tab.get 0#32 w'.v (vKey r l) = if w.n ≤ r ∧ r < w.n + 8 * n then 0#32 else Tab.get 0#32 w.v (vKey r l)) ∧
    (∀ b : Selector, Issues (.shrink b) anyType s c → c.txLanes = 0#32 →
      let n := c.w.n - 8 * b.toNat
      (c.w.n < 8 * b.toNat + 8 → exec (.shrink b) s = .next (c.raise ⟨0x03, 3, 0, c.act⟩)) ∧
      (8 * b.toNat + 8 ≤ c.w.n → (∃ o ∈ c.w.scoreboard, ∃ r, .v r ∈ o.regs ∧ n ≤ r) → exec (.shrink b) s = .next (c.waits .scoreboard)) ∧
      (8 * b.toNat + 8 ≤ c.w.n → (∀ o ∈ c.w.scoreboard, ∀ r, .v r ∈ o.regs → r < n) →
        ∃ (t u : State) (w w' : Wave), exec (.shrink b) s = .next t ∧ u = { c.s with timers := u.timers, bankFreed := u.bankFreed } ∧
          w' = { c.w with n := n, v := w'.v, dead := w'.dead, poison := w'.poison, slotA := w'.slotA, slotB := w'.slotB } ∧
          (w'.slot (!c.slotB)).map (fun p => (p.pc, p.mask, p.mode)) = (c.w.slot (!c.slotB)).map (fun p => (p.pc, p.mask, p.mode)) ∧
          Completed { c with s := u, w := w' } c.cur.next t w ∧ w.k = c.w.k ∧ w.q = c.w.q ∧
          ∀ r l, l < 32 → r < n → Tab.get 0#32 w.v (vKey r l) = Tab.get 0#32 c.w.v (vKey r l)))

open Sys2Proof Sys2Proof.Machine Sys2Proof.Claims in
/-- EARLYGO puts the wave among those past the early point of its launch, once, and the last wave of the grid makes the trigger due (R38,
R224). WAITC goes on while at most B operations of class A are outstanding, and with B = 63 always; else it waits (R225).
A point the manual leaves open is as log entry 42 says. -/
def Obligations.EarlyAndWait : Prop :=
  ∀ (s : State) (c : Ctx),
    (Issues .earlygo anyType s c → c.txLanes = 0#32 → ∃ (t : State) (w : Wave) (u : State), exec .earlygo s = .next t ∧
      u = { c.s with launches := u.launches, agenda := u.agenda } ∧
      Completed { c with s := u, w := { c.w with early := true } } c.cur.next t w ∧ WritesNone c.w w ∧
      ∀ l x, c.g.launch = some l → c.s.launches.find? l = some x →
        ∃ x', u.launches.find? l = some x' ∧ x' = { x with earlyWaves := x'.earlyWaves } ∧
          (∃ e ∈ x'.earlyWaves, e.1 = c.g.linear ∧ e.2.1 = c.wi) ∧ (∀ e ∈ x.earlyWaves, e ∈ x'.earlyWaves) ∧
          (x.triggered = false → x'.earlyWaves.length = x.record.gridX * x.record.gridY * x.record.gridZ * ((x.record.lanes + 31) / 32) →
            Comes u (.earlyTrigger l))) ∧
    (∀ a b : Selector, Issues (.waitc a b) anyType s c →
      (Tab.get 0 c.w.counts a.toNat ≤ b.toNat ∨ b = 63#8 →
        ∃ (t : State) (w : Wave), exec (.waitc a b) s = .next t ∧ Completed c.acquire c.cur.next t w ∧ WritesNone c.w w) ∧
      (b.toNat < Tab.get 0 c.w.counts a.toNat → b ≠ 63#8 → exec (.waitc a b) s = .next (c.waits .engine)))

/-! ## Row 0x9: futures, flips, signals, launches (R108 to R118, R226 to R234, R428, R429) -/

namespace Sys2Proof.Claims

open Machine

/-- Tag t was taken by the context's current fork, in a state (R108, R112). -/
abbrev TagIs (s : State) (ctx t : Nat) (st : TagState) : Prop :=
  t ∈ (s.context ctx).forkTags ∧ (s.tag t).ctx = ctx ∧ (s.tag t).fork = (s.context ctx).forkId ∧ (s.tag t).state = st

/-- The status of FCOMMIT on tag t, in R227's order. -/
def CommitStatus (s : State) (ctx t status : Nat) : Prop :=
  let taken := 1 ≤ t ∧ t ≤ 15 ∧ t ∈ (s.context ctx).forkTags
  if taken ∧ (s.context ctx).forkCommitted = true then status = 3
  else (taken ∧ TagIs s ctx t .live ∧ status = 1) ∨ (taken ∧ TagIs s ctx t .sealed ∧ status = 0) ∨
    (¬(taken ∧ TagIs s ctx t .live) ∧ ¬(taken ∧ TagIs s ctx t .sealed) ∧ status = 2)

/-- The deferred form of a front-end instruction of row 0x9, with the operand values that the entry holds (R234). -/
def deferredForm (c : Ctx) : Instr → Option Effect
  | .flip a b => some (.flip (c.address1 a 0) b.toNat)
  | .signal d a b => some (.signal (c.address1 a 0) (c.val b 0) (d == 1#8))
  | .glaunch a b => some (.glaunch (c.val a 0) (c.val64 b 0).toNat)
  | _ => none

/-- What R349 asks of a surface descriptor of 256 bits. -/
def SurfaceLegal (x : Nat) : Prop :=
  x % 2 ^ 64 % 256 = 0 ∧ x / 2 ^ 64 % 2 ^ 32 % 256 = 0 ∧ x / 2 ^ 96 % 2 ^ 16 ∈ List.range' 1 8192 ∧ x / 2 ^ 112 % 2 ^ 16 ∈ List.range' 1 8192 ∧
    x / 2 ^ 128 % 256 ∈ [0x11, 0x12, 0x13, 0x18] ∧ x / 2 ^ 136 % 2 ^ 120 = 0

end Sys2Proof.Claims

open Sys2Proof Sys2Proof.Machine Sys2Proof.Claims in
/-- FCOMMIT, FSQUASH and FSTATE of trunk waves complete in every state and write the statuses of R227 and R228 and the word of R229 (R226 to
R229). FCOMMIT does not wait; with status 0 the tag is COMMITTED and the fork has committed, and its commit point comes 66 clk later,
behind what the wave has issued so far; FSQUASH with status 0 leaves the tag SQUASHED with reason 0; no other status changes a tag.
FCOMMIT is an acquire. A future's wave traps FUT_EFFECT for FCOMMIT, and for FSQUASH of another's tag; FSQUASH of its own live tag ends
it. FSTATE writes state, reason and number of deferred effects, all ones for no tag. With S empty nothing happens.
Points the manual leaves open are as log entries 44, 46 say. -/
def Obligations.FutureDecisions : Prop :=
  (∀ (i : Instr) (s : State) (c : Ctx) (d a : Reg), i ∈ [.fcommit d a, .fsquash d a, .fstate d a] → Issues i anyType s c → c.txLanes = 0#32 →
      c.S = 0#32 → ∃ (t' : State) (w : Wave), exec i s = .next t' ∧ Completed c c.cur.next t' w ∧ WritesNone c.w w) ∧
  (∀ (s : State) (c : Ctx) (d a : Reg), Issues (.fstate d a) anyType s c → c.txLanes = 0#32 → c.S ≠ 0#32 →
      let t := (c.val a 0).toNat
      ∃ (t' : State) (w : Wave), exec (.fstate d a) s = .next t' ∧ Completed c c.cur.next t' w ∧
        WritesRun c.w w d 1 0xFFFFFFFF#32 fun _ _ =>
          if t = 0 ∨ 15 < t then 0xFFFFFFFF#32
          else BitVec.ofNat 32 ((match (c.s.tag t).state with | .free => 0 | .live => 1 | .sealed => 2 | .committed => 3 | .squashed => 4) +
            16 * (if (c.s.tag t).state = .squashed then (c.s.tag t).reason else 0) + 256 * (c.s.tag t).effects.length)) ∧
  (∀ (s : State) (c : Ctx) (d a : Reg), Issues (.fcommit d a) anyType s c → c.txLanes = 0#32 → c.S ≠ 0#32 → c.tag = 0 →
      let t := (c.val a 0).toNat
      ∃ (n : Nat) (u t' : State) (w : Wave), CommitStatus c.s c.g.ctx t n ∧ exec (.fcommit d a) s = .next t' ∧
        Completed { c with s := u }.acquire c.cur.next t' w ∧ WritesRun c.w w d 1 0xFFFFFFFF#32 (fun _ _ => BitVec.ofNat 32 n) ∧
        u.serial = c.s.serial + 1 ∧ (n ≠ 0 → u = { c.s with serial := u.serial }) ∧
        (n = 0 → u = { c.s with tags := u.tags, contexts := u.contexts, agenda := u.agenda, serial := u.serial } ∧
          (u.context c.g.ctx) = { c.s.context c.g.ctx with forkCommitted := true } ∧
          u.tag t = { c.s.tag t with state := .committed, committing := true, commitAt := c.s.clk + 66, committer := some (c.gk, c.wi, u.serial) } ∧
          (∀ k, k ≠ t → u.tag k = c.s.tag k) ∧ .event (.commitPoint c.g.ctx t) ∈ u.agenda)) ∧
  (∀ (s : State) (c : Ctx) (d a : Reg), Issues (.fsquash d a) anyType s c → c.txLanes = 0#32 → c.S ≠ 0#32 → c.tag = 0 →
      let t := (c.val a 0).toNat
      ∃ (n : Nat) (u t' : State) (w : Wave), CommitStatus c.s c.g.ctx t n ∧ exec (.fsquash d a) s = .next t' ∧
        Completed { c with s := u } c.cur.next t' w ∧
        WritesRun c.w w d 1 0xFFFFFFFF#32 (fun _ _ => if n = 1 then 0#32 else BitVec.ofNat 32 n) ∧ (2 ≤ n → u = c.s) ∧
        (n < 2 → u.mem = c.s.mem ∧ (u.tag t).state = .squashed ∧ (u.tag t).reason = 0 ∧ (u.tag t).effects = [] ∧
          ∀ k, k ≠ t → u.tag k = c.s.tag k)) ∧
  (∀ (s : State) (c : Ctx) (d a : Reg), c.txLanes = 0#32 → c.S ≠ 0#32 → c.tag ≠ 0 →
      let t := (c.val a 0).toNat
      (Issues (.fcommit d a) anyType s c → exec (.fcommit d a) s = .next (c.raise ⟨0x15, 0, 0, c.act⟩)) ∧
      (Issues (.fsquash d a) anyType s c → t ≠ c.tag → exec (.fsquash d a) s = .next (c.raise ⟨0x15, 0, 0, c.act⟩)) ∧
      (Issues (.fsquash d a) anyType s c → t = c.tag → CommitStatus c.s c.g.ctx t 0 ∨ CommitStatus c.s c.g.ctx t 1 →
        ∃ t', exec (.fsquash d a) s = .next t' ∧ (t'.tag t).state = .squashed ∧ (t'.tag t).reason = 0 ∧ t'.mem = s.mem ∧
          ∀ k g, t'.groups.find? k = some g → ¬(g.ctx = c.g.ctx ∧ g.tag = t)))

open Sys2Proof Sys2Proof.Machine Sys2Proof.Claims in
/-- A future's accesses (R118), outside a transaction: a store or an atomic to another card traps FUT_REMOTE; to a page that is not
versioned, FUT_UNVERSIONED; an atomic that returns to a page of deferred effects, FUT_EFFECT; a store there joins the future's
deferred effects, and memory does not change.

LDF32 (R226): the word of each lane of S, of the version of future kB while the tag is live or sealed in the context's live fork, else of
the trunk, as an acquire; kB above 15 traps ILLEGAL_OPERAND; another future's tag from a future's wave traps FUT_EFFECT; an aperture address traps
PROTECTION with sub-cause 6.
Points the manual leaves open are as log entries 29, 46 say. -/
def Obligations.FutureLoads : Prop :=
  (∀ (i : Instr) (s : State) (c : Ctx) (k : AccessKind) (n : Nat) (d : Reg) (addr : Nat → Nat) (l : Nat) (t : Translation),
      Issues i (accessTypes i) s c → accessForm c i = some (k, n, d, addr) → k ≠ .load → c.txLanes = 0#32 → c.tag ≠ 0 →
      modeOrder c.mode < 2 → c.accessLanes d = laneBit l → l < 32 → addr l % n = 0 → regionOf (addr l) = .memory →
      c.s.fill c.g.ctx (addr l) (controllerOf c.g.ctx (addr l)) = .ok t → t.read = true → t.write = true →
      let remote := c.s.remote (t.pa (addr l)) = true
      (remote → exec i s = .next (c.raise ⟨0x14, 0, addr l, laneBit l⟩)) ∧
      (¬remote → t.repl = true ∨ t.fut = 0 → exec i s = .next (c.raise ⟨0x13, 0, addr l, laneBit l⟩)) ∧
      (¬remote → t.repl = false → 2 ≤ t.fut → k = .atomic true → exec i s = .next (c.raise ⟨0x15, 0, addr l, laneBit l⟩)) ∧
      (¬remote → t.repl = false → 2 ≤ t.fut → k = .store → (c.s.tag c.tag).effects.length < 256 → NoCommit c →
        (∃ off, c.s.reach (t.pa (addr l)) = .gddr c.s.ownCard off) →
        ∃ (t' : State) (w : Wave) (u : State), exec i s = .next t' ∧ Completed { c with s := u } c.cur.next t' w ∧ WritesNone c.w w ∧
          u = { c.s with tlb := u.tlb, tags := u.tags } ∧ (∀ g, g ≠ c.tag → u.tag g = c.s.tag g) ∧
          ∃ bytes, bytes.length = n ∧ u.tag c.tag = { c.s.tag c.tag with effects := (c.s.tag c.tag).effects ++ [.store (addr l) bytes] } ∧
            ∀ a b rel d', storeForm i = some (n, rel, d', a, b) → ∀ j, j < n → bytes.getD j 0#8 = dataByte c d' n l j)) ∧
  (∀ (s : State) (c : Ctx) (d a b : Reg), Issues (.ldf32 d a b) anyType s c → c.txLanes = 0#32 →
      let t := (c.val b 0).toNat
      let view := { c with g := { c.g with tag := if 1 ≤ t ∧ (TagIs c.s c.g.ctx t .live ∨ TagIs c.s c.g.ctx t .sealed) then t else 0 } }
      (16 ≤ t → exec (.ldf32 d a b) s = .next (c.raise ⟨0x03, 3, 0, c.act⟩)) ∧
      (t < 16 → c.tag ≠ 0 → t ≠ 0 → t ≠ c.tag → exec (.ldf32 d a b) s = .next (c.raise ⟨0x15, 0, 0, c.act⟩)) ∧
      (t < 16 → (c.tag = 0 ∨ t = 0 ∨ t = c.tag) → NoCommit c →
        (∀ l, c.S = laneBit l → l < 32 → c.address1 a l % 4 = 0 → (∃ w off, regionOf (c.address1 a l) = .aperture w off) →
          exec (.ldf32 d a b) s = .next (c.raise ⟨0x12, 6, c.address1 a l, c.S⟩)) ∧
        ((∀ l, l < 32 → c.S.getLsbD l = true → ∃ tr, Storage c 4 (c.address1 a l) tr ∧ tr.read = true ∧
            (∃ off, c.s.reach (tr.pa (c.address1 a l)) = .gddr c.s.ownCard off) ∧
            c.readable (c.s.viewLine (view.placeFor tr (tr.pa (c.address1 a l))), tr.page) = true ∧
            c.s.health.poisonedLines.find? (lineOf (c.placeFor tr (tr.pa (c.address1 a l)))) = none) →
          ∃ (t' : State) (w : Wave) (u : State), exec (.ldf32 d a b) s = .next t' ∧ OnlyCaches c u ∧
            Completed (if c.S = 0#32 then { c with s := u } else { c with s := u }.acquire) c.cur.next t' w ∧
            WritesRun c.w w d 1 c.S fun _ l => loadedWord 4 false (seen view u none (c.address1 a l)) 0)))

open Sys2Proof Sys2Proof.Machine Sys2Proof.Claims in
/-- FLIP, SIGNAL and GLAUNCH act once when S is not empty (R231 to R234). In the trunk FLIP and GLAUNCH wait for the wave's writes; FLIP then
requests the surface or, when R349 is not met, counts it as bad; SIGNAL posts its word as a release, with the host interrupt when D
is 1, and with an acquiring order waits until it is performed; GLAUNCH logs code 9 for an id that names no launchable node of a
running graph, and else starts the node. Under a future each is queued as a deferred effect with its operand values; the 257th
squashes the future.
Points the manual leaves open are as log entries 39, 45, 47 say. -/
def Obligations.FrontEndInstructions : Prop :=
  ∀ (s : State) (c : Ctx) (i : Instr) (e : Effect), Issues i anyType s c → c.txLanes = 0#32 → deferredForm c i = some e →
    let goes := fun (u : State) => ∃ (t : State) (w : Wave), exec i s = .next t ∧ Completed { c with s := u } c.cur.next t w ∧ WritesNone c.w w
    (c.S = 0#32 → goes c.s) ∧
    (c.S ≠ 0#32 → c.tag ≠ 0 → (∀ ea v q, e = .signal ea v q → ea % 4 = 0 ∧ regionOf ea = .memory ∧
        ∀ t, c.s.fill c.g.ctx ea (controllerOf c.g.ctx ea) = .ok t → t.write = true) →
      let x := c.s.tag c.tag
      (x.effects.length < 256 → goes (c.s.setTag c.tag { x with effects := x.effects ++ [e] })) ∧
      (256 ≤ x.effects.length → x.state = .live → ∃ t, exec i s = .next t ∧ (t.tag c.tag).state = .squashed ∧ (t.tag c.tag).reason = 3)) ∧
    (c.S ≠ 0#32 → c.tag = 0 → (∀ ea v q, e ≠ .signal ea v q) → c.settled = false → exec i s = .next (c.waits .fence)) ∧
    (c.S ≠ 0#32 → c.tag = 0 → c.settled = true → ∀ va h, e = .flip va h → va % 32 = 0 →
      ∀ bs, c.s.frontRead (.flip h) c.g.ctx va 32 = .ok bs → c.s.refused = [] → ∃ u, goes u ∧ u = { c.s with heads := u.heads } ∧
        (∀ k, k ≠ h → u.head k = c.s.head k) ∧
        (SurfaceLegal (bytesNat bs) → u.head h =
          { c.s.head h with requests := (c.s.head h).requests ++ [⟨c.s.clk, c.g.ctx, BitVec.ofNat 256 (bytesNat bs)⟩] }) ∧
        (¬SurfaceLegal (bytesNat bs) → u.head h = { c.s.head h with badFlips := (c.s.head h).badFlips + 1 })) ∧
    (c.S ≠ 0#32 → c.tag = 0 → ∀ ea v q t, e = .signal ea v q → c.p.wait ≠ .front → NoCommit c → Storage c 4 ea t → t.write = true →
      ∃ (u : State) (p : PostedWrite),
        u = { c.s with tlb := u.tlb, lines := u.lines, posted := u.posted, agenda := u.agenda, serial := u.serial } ∧ u.posted = c.s.posted ++ [p] ∧ p.g = c.gk ∧ p.w = c.wi ∧ p.ordered = true ∧ u.mem = c.s.mem ∧
        p.irq = (if q then some c.g.ctx else none) ∧ p.bytes = placed (memPlace 0 (t.pa ea)) (natBytes 4 v.toNat) ∧
        .event (.homeWrite p.id) ∈ u.agenda ∧
        (modeOrder c.mode ∈ [0, 2] → goes u) ∧ (modeOrder c.mode ∈ [1, 3] → exec i s = .next ({ c with s := u }.waits .front))) ∧
    (c.S ≠ 0#32 → c.tag = 0 → ∀ ea v q, e = .signal ea v q → c.p.wait = .front → c.s.quiet c.gk c.wi = true →
      ∃ (t : State) (w : Wave), exec i s = .next t ∧ Completed c.acquire c.cur.next t w ∧ WritesNone c.w w) ∧
    (c.S ≠ 0#32 → c.tag = 0 → c.settled = true → ∀ id param, e = .glaunch id param →
      let slot := id.toNat / 2 ^ 26
      let node := id.toNat % 2 ^ 12
      let g := c.s.graph c.g.ctx slot
      (g.run = none ∨ id.toNat / 2 ^ 12 % 2 ^ 14 ≠ 0 ∨ g.nodes.length ≤ node ∨ (g.nodes.getD node {}).devLaunch = false →
        goes (match c.launchLog with | some (q, type) => c.s.logError q id.toNat type 9 0 0 | none => c.s)) ∧
      (∀ run r, g.run = some run → c.s.runs.find? run = some r → id.toNat / 2 ^ 12 % 2 ^ 14 = 0 → node < g.nodes.length →
        (g.nodes.getD node {}).devLaunch = true → (∀ x ∈ r.nodes, x.node = node → x.launched = false ∧ x.ready = false) →
        goes ((c.s.startNode run node 0 param).settleRun run)))

open Sys2Proof Sys2Proof.Machine Sys2Proof.Claims in
/-- The steps of futures (R114, R428, R429). Before its clk the commit point is looked at again; at it the trunk takes every byte of the lines
that the committed tag holds versions of, and no other byte of the trunk changes; siblings that were live are squashed; deferred
effects become due. When a committed tag's effects are gone, or a squashed tag has been noted, its versions and its own bytes are
gone and the tag is FREE again; the trunk does not change.
Points the manual leaves open are as log entries 44, 49, 108 say. -/
def Obligations.FutureSteps : Prop :=
  ∀ (s : State) (ctx tag : Nat), 1 ≤ tag → tag ≤ 15 → (s.tag tag).ctx = ctx →
    let x := s.tag tag
    (x.state = .committed → x.committing = true → s.clk < x.commitAt → exec (.commitPoint ctx tag) s = .next (s.repost (.commitPoint ctx tag))) ∧
    (x.state = .committed → x.committing = true → x.commitAt ≤ s.clk →
      (∀ g w n, x.committer = some (g, w, n) → s.performedTo g w n = true) → ∃ t, exec (.commitPoint ctx tag) s = .next t ∧
      (t.tag tag).state = .committed ∧ (t.tag tag).committing = false ∧ t.versions = s.versions ∧
      (∀ pa, pa < 2 ^ 52 → t.byteAt (memPlace 0 pa) =
        if versionKey tag (lineOf pa) ∈ s.versions then s.byteAt (memPlace tag pa) else s.byteAt (memPlace 0 pa)) ∧
      (∀ k, 1 ≤ k → k ≤ 15 → k ≠ tag → (s.tag k).ctx = ctx → (s.tag k).fork = x.fork → (s.tag k).state = .live ∨ (s.tag k).state = .sealed →
        (t.tag k).state = .squashed ∧ (t.tag k).reason = 2) ∧
      (x.effects ≠ [] → .event (.deferredEffect ctx tag) ∈ t.agenda) ∧ .event (.foldingFinish ctx tag) ∈ t.agenda) ∧
    (x.state = .committed → x.committing = false → x.effects ≠ [] → exec (.foldingFinish ctx tag) s = .next (s.repost (.foldingFinish ctx tag))) ∧
    (∀ i, (i = .foldingFinish ctx tag ∧ x.state = .committed ∧ x.committing = false ∧ x.effects = []) ∨
        (i = .scrubbingFinish ctx tag ∧ x.state = .squashed ∧ x.noted = true) →
      ∃ t, exec i s = .next t ∧ t.tag tag = {} ∧ (∀ k, k ≠ tag → t.tag k = s.tag k) ∧ (∀ n, versionKey tag n ∉ t.versions) ∧
        (∀ pa, pa < 2 ^ 52 → t.byteAt (memPlace 0 pa) = s.byteAt (memPlace 0 pa) ∧ t.byteAt (memPlace tag pa) = 0#8)) ∧
    (x.state = .squashed → x.noted = false → ∃ t, exec (.scrubbingFinish ctx tag) s = .next t ∧ (t.tag tag).noted = true ∧ t.mem = s.mem)

/-! ## Row 0xA: tensors and copies (R235 to R252) -/

namespace Sys2Proof.Claims

open Machine

/-- A field of a record, by its lowest bit and its width (R235). -/
def bitField (r : TRecord) (lo n : Nat) : Nat := r.toNat / 2 ^ lo % 2 ^ n

/-- A format that R76 does not reserve. -/
def knownFormat (f : Nat) : Prop := (0x01 ≤ f ∧ f ≤ 0x0C) ∨ (0x10 ≤ f ∧ f ≤ 0x19)

/-- The first check of TDEF that a record fails (R240). -/
def recordFault (r : TRecord) : Nat :=
  let f := bitField r 0 8
  let layout := bitField r 10 2
  if (f = 0 ∨ 0x0C < f) ∧ (f < 0x10 ∨ 0x19 < f) then 1
  else if (List.range 4).any fun i => decide (i ≤ bitField r 8 2 ∧ bitField r (160 + 32 * i) 32 = 0) then 2
  else if (layout = 3 ∧ f ∉ [0x06, 0x07, 0x08, 0x09, 0x0A]) ∨
      (layout ∈ [1, 2] ∧ f ∈ [0x01, 0x02, 0x03, 0x04, 0x05, 0x0C, 0x10, 0x11, 0x12, 0x13, 0x14, 0x15, 0x16, 0x17, 0x18, 0x19]) ∨
      (layout ∈ [2, 3] ∧ f = 0x0B) then 3
  else if 0x11 ≤ f ∧ f ≤ 0x19 ∧ (bitField r 15 1 = 1 ∨ bitField r 16 6 ≠ 0) then 4
  else 0

/-- The cursor of a wave for an id with a record: its own, on the chip or in its save slot, else the record's (R241). -/
def cursorNow (w : Wave) (t : Nat) (r : TRecord) : Word × Word × Word × Word :=
  match w.cursors.find? fun x => x.id == t with
  | some x => (x.c0, x.c1, x.c2, x.c3)
  | none =>
    if t ∈ w.spilledCursors then
      let at_ := fun i => BitVec.ofNat 32 (bytesNat ((List.range 4).map fun j => Tab.get 0#8 w.save (0x800 + 16 * t + 4 * i + j)))
      (at_ 0, at_ 1, at_ 2, at_ 3)
    else (BitVec.ofNat 32 (bitField r 384 32), BitVec.ofNat 32 (bitField r 416 32), BitVec.ofNat 32 (bitField r 448 32),
          BitVec.ofNat 32 (bitField r 480 32))

/-- From u to w, waves of c's group, only cursors have moved or changed; the cursor of every id but those given is what it was. -/
def OnlyCursors (c : Ctx) (u w : Wave) (ids : List Nat) : Prop :=
  w = { u with cursors := w.cursors, spilledCursors := w.spilledCursors, save := w.save } ∧
  ∀ t r, t ∉ ids → t < 256 → (∀ x, (c.s.context c.g.ctx).tensors.find? t = some x → x = r) → cursorNow w t r = cursorNow u t r

/-- Group h is group g but for its waves, whose registers are the same. -/
def SameRegisters (g h : Group) : Prop :=
  h = { g with waves := h.waves } ∧ h.waves.map (fun w => (w.v, w.k, w.q)) = g.waves.map fun w => (w.v, w.k, w.q)

/-- The destination's and the source's tensor of a copy-family instruction, the rows that its lanes name, its promise register
(R239, R248, R249). -/
def copyForm (c : Ctx) : Instr → Option (CopyKind × Reg × Option (Nat × Nat) × List (Nat × Word))
  | .cpy d a b => some (.cpy, d, some (a.toNat, b.toNat), [])
  | .cpyt d a b => some (.cpyt, d, some (a.toNat, b.toNat), [])
  | .cpyq d a b => some (.cpyq, d, some (a.toNat, b.toNat), [])
  | .cpyx d a b => some (.cpyx, d, some (a.toNat, b.toNat), [])
  | .gath d a b => some (.gath, d, (c.tensor a.toNat).map fun r => (a.toNat, bitField r 24 8), (lanesOf c.S).map fun l => (l, c.val b l))
  | .scata d a b => some (.scata, d, (c.tensor a.toNat).map fun r => (bitField r 24 8, a.toNat), (lanesOf c.S).map fun l => (l, c.val b l))
  | _ => none

/-- What R246, R248 and R249 accept, from formats, layouts and first cursors. -/
def CopyAccepts (kind : CopyKind) (dst src : TRecord) (d0 s0 : Word) : Prop :=
  let f := bitField dst 0 8
  let g := bitField src 0 8
  let aligned := fun (x : Word) => x.toNat % 32 = 0
  let plain := fun (x : Nat) => 1 ≤ x ∧ x ≤ 0x0C
  let scaled := fun (x : Nat) => x = 0x08 ∨ x = 0x09
  match kind with
  | .cpy => plain f ∧ f = g ∧ (scaled f → aligned d0 ∧ aligned s0)
  | .cpyt => plain f ∧ f = g ∧ bitField dst 10 2 ≠ 3 ∧ bitField src 10 2 ≠ 3
  | .cpyq => 1 ≤ g ∧ g ≤ 0x05 ∧ scaled f ∧ aligned d0
  | .cpyx => scaled g ∧ (f = 0x01 ∨ f = 0x03) ∧ aligned s0
  | .gath => plain f ∧ f = g ∧ bitField dst 10 2 = 0 ∧ bitField src 10 2 = 0 ∧ (scaled f → aligned d0 ∧ aligned s0)
  | .scata => f ∈ [0x01, 0x02, 0x03, 0x0C] ∧ f = g ∧ bitField dst 10 2 = 0 ∧ bitField src 10 2 = 0

/-- S and W of a source class (R247). -/
def classOf (r : TRecord) : Nat × Nat :=
  [(24, 128), (40, 64), (80, 64), (160, 48), (220, 48), (400, 32), (1800, 16), (2400, 16)].getD (bitField r 12 3) (0, 1)

/-- A cursor of a wave as the operation takes it. -/
def cursorTaken (w : Wave) (t : Nat) (r : TRecord) : Cursor :=
  ⟨t, (cursorNow w t r).1, (cursorNow w t r).2.1, (cursorNow w t r).2.2.1, (cursorNow w t r).2.2.2⟩

/-- The operation that a copy-family instruction of c issues. -/
def copyOf (c : Ctx) (kind : CopyKind) (dst src : TRecord) (dcur scur : Cursor) (rows : List (Nat × Word)) : CopyOp :=
  { id := c.s.serial + 1, g := c.gk, w := c.wi, kind := kind, dst := dst, src := src, dstCur := dcur, srcCur := scur, rows := rows,
    mode := c.mode, ctx := c.g.ctx, tag := c.g.tag, promise := 0, bytes := 0 }

/-- The address of element x of a linear tensor whose elements have e bytes (R236). -/
def elementAddress (r : TRecord) (e : Nat) (x : Idx) : Nat :=
  (bitField r 32 64 + x.i0 * e + x.i1 * bitField r 288 32 + x.i2 * bitField r 320 32 + x.i3 * bitField r 352 32) % 2 ^ 64

/-- Bytes of an element of the formats with whole bytes (R76). -/
def wholeBytes (f : Nat) : Nat := if f = 0x01 ∨ f = 0x0C then 4 else if f ∈ [0x02, 0x03, 0x0B] then 2 else 1

end Sys2Proof.Claims

open Sys2Proof Sys2Proof.Machine Sys2Proof.Claims in
/-- The tensor table (R239 to R242). TDEF of a record that can be read loads it, unless a check of R240 fails, with the sub-cause of the
first; TREL unloads the entry; both forget every wave's cursor for the id and trap FUT_EFFECT under a future. TCUR and TCURHI write
two components of the wave's own cursor. TQUERY writes the field asked for. An id that is not loaded traps TENSOR_ID, but for
TQUERY's field 14. With S empty nothing happens.
Points the manual leaves open are as log entries 52, 53 say. -/
def Obligations.TensorTable : Prop :=
  ∀ (s : State) (c : Ctx), c.txLanes = 0#32 →
    (∀ (i : Instr) (d : Selector) (a : Reg), i = .tdef d a ∨ i = .trel d → Issues i anyType s c → c.S ≠ 0#32 → c.tag ≠ 0 →
      exec i s = .next (c.raise ⟨0x15, 0, 0, c.act⟩)) ∧
    (∀ (i : Instr) (d : Selector) (a : Reg) (new : Option TRecord), Issues i anyType s c → c.S ≠ 0#32 → c.tag = 0 →
      (i = .trel d ∧ new = none) ∨
        (i = .tdef d a ∧ ∃ ea t, ea = c.address1 a (lowestLane c.S) ∧ Storage c 64 ea t ∧ t.read = true ∧
          (∃ off, c.s.reach (t.pa ea) = .gddr c.s.ownCard off) ∧ c.s.softRegions = [] ∧
          NoCommit c ∧ c.readable (c.s.viewLine (c.placeFor t (t.pa ea)), t.page) = true ∧
          new = some (BitVec.ofNat 512 (bytesNat ((List.range 64).map (seen c c.s none ea))))) →
      (∀ r, new = some r → recordFault r ≠ 0 → exec i s = .next (c.raise ⟨0x21, recordFault r, d.toNat, c.act⟩)) ∧
      ((∀ r, new = some r → recordFault r = 0) → ∃ (t : State) (w w' : Wave) (u : State) (g : Group), exec i s = .next t ∧
        Completed { c with s := u, g := g, w := w' } c.cur.next t w ∧ WritesNone c.w w ∧
        w' = { c.w with cursors := w'.cursors, spilledCursors := w'.spilledCursors } ∧ SameRegisters c.g g ∧
        (∀ k x, u.groups.find? k = some x → ∃ y, c.s.groups.find? k = some y ∧ SameRegisters y x) ∧
        (∀ x ∈ w'.cursors, x.id ≠ d.toNat) ∧ d.toNat ∉ w'.spilledCursors ∧
        u = { c.s with tlb := u.tlb, leases := u.leases, lines := u.lines, contexts := u.contexts, groups := u.groups } ∧
        (∀ k, k ≠ c.g.ctx → u.context k = c.s.context k) ∧
        (u.context c.g.ctx).tensors.find? d.toNat = new ∧
        ∀ k, k ≠ d.toNat → (u.context c.g.ctx).tensors.find? k = (c.s.context c.g.ctx).tensors.find? k)) ∧
    (∀ (i : Instr) (d : Selector) (a : Reg) (high : Bool), i = (if high then .tcurhi d a else .tcur d a) → Issues i anyType s c → c.S ≠ 0#32 →
      ∀ r, (c.s.context c.g.ctx).tensors.find? d.toNat = some r → knownFormat (bitField r 0 8) →
        ∃ (t : State) (w w' : Wave), exec i s = .next t ∧ Completed { c with w := w' } c.cur.next t w ∧ WritesNone c.w w ∧
          OnlyCursors c c.w w' [d.toNat] ∧
          let old := cursorNow c.w d.toNat r
          cursorNow w' d.toNat r = if high then (old.1, old.2.1, c.valAt a 0 0, c.valAt a 1 0) else (c.valAt a 0 0, c.valAt a 1 0, old.2.2.1, old.2.2.2)) ∧
    (∀ (d : Reg) (a b : Selector), Issues (.tquery d a b) anyType s c → c.S ≠ 0#32 →
      (b = 14#8 → ∃ (t : State) (w : Wave), exec (.tquery d a b) s = .next t ∧ Completed c c.cur.next t w ∧
        WritesRun c.w w d 1 0xFFFFFFFF#32 fun _ _ => if ((c.s.context c.g.ctx).tensors.find? a.toNat).isSome then 1#32 else 0#32) ∧
      (b ≠ 14#8 → ∀ r, (c.s.context c.g.ctx).tensors.find? a.toNat = some r → knownFormat (bitField r 0 8) →
        ∃ (t : State) (w w' : Wave), exec (.tquery d a b) s = .next t ∧ Completed { c with w := w' } c.cur.next t w ∧ OnlyCursors c c.w w' [] ∧
          WritesRun c.w w d 1 0xFFFFFFFF#32 fun _ _ =>
            let cur := cursorNow c.w a.toNat r
            [BitVec.ofNat 32 (bitField r 0 8), BitVec.ofNat 32 (bitField r 8 2 + 1), BitVec.ofNat 32 (bitField r 160 32),
             BitVec.ofNat 32 (bitField r 192 32), BitVec.ofNat 32 (bitField r 224 32), BitVec.ofNat 32 (bitField r 256 32),
             cur.1, cur.2.1, cur.2.2.1, cur.2.2.2, BitVec.ofNat 32 (bitField r 10 2), BitVec.ofNat 32 (bitField r 12 3),
             BitVec.ofNat 32 (bitField r 15 1 * 256 + bitField r 16 8), BitVec.ofNat 32 (bitField r 24 8)].getD b.toNat 0#32)) ∧
    (∀ (i : Instr) (d : Reg) (id b : Selector) (a : Reg), i ∈ [Instr.tcur id a, .tcurhi id a, .tquery d id b] → Issues i anyType s c →
      (c.S = 0#32 → ∃ (t : State) (w : Wave), exec i s = .next t ∧ Completed c c.cur.next t w ∧ WritesNone c.w w) ∧
      (c.S ≠ 0#32 → b ≠ 14#8 → (c.s.context c.g.ctx).tensors.find? id.toNat = none → exec i s = .next (c.raise ⟨0x21, 0, id.toNat, c.act⟩)))

open Sys2Proof Sys2Proof.Machine Sys2Proof.Claims in
/-- CPY, CPYT, CPYQ, CPYX, GATH and SCATA (R243, R245 to R252), outside transactions and futures. Each of the six completes, when S is not
empty, its ids are loaded, R246, R248 and R249 accept the records, the wave is a member of the landing team if there is one, the operands
lie in memory or scratch, and its counter is below 63: the operation is queued with the records and the cursors as they stand, the counter
goes up by one, and kD:kD+1 is the promise t + S + ⌈bytes ÷ W⌉ + ⌈Q ÷ W⌉; a slot whose counter stands at 63 waits.

With S empty nothing happens. An id that is not loaded traps TENSOR_ID; what R246, R248 and R249 do not accept traps SHAPE_MISMATCH with
the destination's id, when it is the destination's; a wave that is no member of the landing team traps NOT_MEMBER.
Points the manual leaves open are as log entries 54, 57 say. -/
def Obligations.CopyIssue : Prop :=
  (∀ (i : Instr) (s : State) (c : Ctx) (kind : CopyKind) (d : Reg) (a b : Nat) (rows : List (Nat × Word)) (dr sr : TRecord),
    Issues i anyType s c → c.txLanes = 0#32 → c.tag = 0 → c.S ≠ 0#32 → copyForm c i = some (kind, d, some (a, b), rows) → a < 256 → b < 256 →
    (c.s.context c.g.ctx).tensors.find? a = some dr → (c.s.context c.g.ctx).tensors.find? b = some sr →
    knownFormat (bitField dr 0 8) → knownFormat (bitField sr 0 8) →
    CopyAccepts kind dr sr (cursorTaken c.w a dr).c0 (cursorTaken c.w b sr).c0 →
    (bitField dr 15 1 = 1 → ∃ l t, MemberOf c (bitField dr 16 8) l t) →
    let o := copyOf c kind dr sr (cursorTaken c.w a dr) (cursorTaken c.w b sr) rows
    (∀ va ∈ o.dstAddrs ++ o.srcAddrs, regionOf va = .memory ∨ (∃ off, regionOf va = .aperture .scratch off) ∨ ∃ off, regionOf va = .aperture .hive off) →
    (63 ≤ Tab.get 0 c.w.counts 0 → ∃ (w' : Wave) (u : State), OnlyCursors c c.w w' [] ∧ u = { c.s with refused := u.refused } ∧
      exec i s = .next ({ c with s := u, w := w' }.waits .engine)) ∧
    (Tab.get 0 c.w.counts 0 < 63 → ∃ (t : State) (w w' : Wave) (u : State) (g : Group) (op : CopyOp) (done : Nat),
      exec i s = .next t ∧ Completed { c with s := u, g := g, w := w' } c.cur.next t w ∧
      u = { c.s with refused := u.refused, copies := c.s.copies ++ [op], groups := u.groups, serial := u.serial, agenda := u.agenda } ∧
      op = { o with promise := op.promise, bytes := op.bytes, left := op.left } ∧
      (kind ≠ .scata → op.bytes = o.dstAddrs.length) ∧
      op.promise = c.s.clk + (classOf sr).1 + (op.bytes + (classOf sr).2 - 1) / (classOf sr).2 + (done + (classOf sr).2 - 1) / (classOf sr).2 ∧
      done = ((c.s.copies.filter fun x => coreOfGroup x.g == coreOfGroup c.gk && x.left != []).map fun x => x.bytes - x.landed).sum ∧
      OnlyCursors c { c.w with counts := w'.counts } w' [] ∧ Tab.get 0 w'.counts 0 = Tab.get 0 c.w.counts 0 + 1 ∧
      (∀ k, k ≠ 0 → Tab.get 0 w'.counts k = Tab.get 0 c.w.counts k) ∧
      WritesRun c.w w d 2 0xFFFFFFFF#32 (halves fun _ => BitVec.ofNat 64 op.promise))) ∧
  (∀ (i : Instr) (s : State) (c : Ctx) (kind : CopyKind) (d : Reg) (ids : Option (Nat × Nat)) (rows : List (Nat × Word)),
    Issues i anyType s c → c.txLanes = 0#32 → copyForm c i = some (kind, d, ids, rows) →
    (c.S = 0#32 → ∃ (t : State) (w : Wave), exec i s = .next t ∧ Completed c c.cur.next t w ∧ WritesNone c.w w) ∧
    (∀ (r b : Reg) (a : Selector), c.S ≠ 0#32 → i = .gath r a b ∨ i = .scata r a b → (c.s.context c.g.ctx).tensors.find? a.toNat = none →
      exec i s = .next (c.raise ⟨0x21, 0, a.toNat, c.act⟩)) ∧
    (∀ a b, c.S ≠ 0#32 → ids = some (a, b) → (c.s.context c.g.ctx).tensors.find? a = none → exec i s = .next (c.raise ⟨0x21, 0, a, c.act⟩)) ∧
    (∀ a b r, c.S ≠ 0#32 → ids = some (a, b) → (c.s.context c.g.ctx).tensors.find? a = some r → knownFormat (bitField r 0 8) →
      (c.s.context c.g.ctx).tensors.find? b = none → exec i s = .next (c.raise ⟨0x21, 0, b, c.act⟩)) ∧
    (∀ a b dr sr, c.S ≠ 0#32 → c.tag = 0 → ids = some (a, b) → a < 256 → b < 256 →
      (c.s.context c.g.ctx).tensors.find? a = some dr → (c.s.context c.g.ctx).tensors.find? b = some sr →
      knownFormat (bitField dr 0 8) → knownFormat (bitField sr 0 8) →
      (¬CopyAccepts kind dr sr (cursorTaken c.w a dr).c0 (cursorTaken c.w b sr).c0 → ∃ (id : Nat), (id = a ∨ id = b) ∧
        (exec i s = .next (c.raise ⟨0x20, 0, id, c.act⟩))) ∧
      (CopyAccepts kind dr sr (cursorTaken c.w a dr).c0 (cursorTaken c.w b sr).c0 → bitField dr 15 1 = 1 →
        (∀ l t, ¬MemberOf c (bitField dr 16 8) l t) → exec i s = .next (c.raise ⟨0x32, bitField dr 16 8, 0, c.act⟩))))

open Sys2Proof Sys2Proof.Machine Sys2Proof.Claims in
/-- What CPY and CPYT move between linear tensors of one format with whole bytes and without scales (R236, R238, R246): for every index of the
box, from the destination's cursor on, the element at the source's address goes to the destination's, with dimensions 0 and 1 of the
source swapped for CPYT; an element beyond the source's extents reads as 0; nothing else is written.

The steps of a copy. Units of 16 bytes land behind the wave's earlier accesses (R244, R250): in the group's own scratchpad, from valid
scratch, the last unit writes exactly its bytes, and its granule is valid and no longer landing. A copy all of whose bytes have landed
completes, no earlier than its promise when it has none: it leaves the queue and the wave's counter goes down by one (R245, R246).
Points the manual leaves open are as log entries 54, 55 say. -/
def Obligations.CopySteps : Prop :=
  (∀ (o : CopyOp), o.kind = .cpy ∨ o.kind = .cpyt → bitField o.dst 10 2 = 0 → bitField o.src 10 2 = 0 → bitField o.dst 0 8 = bitField o.src 0 8 →
      bitField o.dst 0 8 ∈ [0x01, 0x02, 0x03, 0x04, 0x05, 0x06, 0x0B, 0x0C] → bitField o.dst 8 2 = 3 → bitField o.src 8 2 = 3 →
      let e := wholeBytes (bitField o.dst 0 8)
      let dim := fun (r : TRecord) i => bitField r (160 + 32 * i) 32
      let dc := fun i => ([o.dstCur.c0, o.dstCur.c1, o.dstCur.c2, o.dstCur.c3].getD i 0#32).toNat
      let sc := fun i => ([o.srcCur.c0, o.srcCur.c1, o.srcCur.c2, o.srcCur.c3].getD i 0#32).toNat
      let σ := fun i => if o.kind = .cpyt then (if i = 0 then 1 else if i = 1 then 0 else i) else i
      let len := fun i => min (dim o.src (σ i) - sc (σ i)) (dim o.dst i - dc i)
      let at_ := fun (r : Nat → Nat) => (⟨dc 0 + r 0, dc 1 + r 1, dc 2 + r 2, dc 3 + r 3⟩ : Idx)
      let from_ := fun (r : Nat → Nat) => (⟨sc 0 + r (σ 0), sc 1 + r (σ 1), sc 2 + r 2, sc 3 + r 3⟩ : Idx)
      (∀ r : Nat → Nat, (∀ i, i < 4 → r i < len i) → ∃ x ∈ o.cells, x.at_ = ⟨elementAddress o.dst e (at_ r), 0, 8 * e⟩ ∧
        ∀ m, x.val.value m = bytesNat ((List.range e).map fun j => m ((elementAddress o.src e (from_ r) + j) % 2 ^ 64))) ∧
      (∀ x ∈ o.cells, ∃ r : Nat → Nat, (∀ i, i < 4 → r i < len i) ∧ x.at_ = ⟨elementAddress o.dst e (at_ r), 0, 8 * e⟩)) ∧
  (∀ (s : State) (o : CopyOp) (g : Group) (w : Wave), s.copies = [o] → s.groups.find? o.g = some g → g.waves[o.w]? = some w →
      (∀ unit, o.left = [unit] → o.kind ≠ .scata → bitField o.dst 15 1 = 0 → (s.earlierDone o.g o.w o.id = false →
          exec (.copyLanding o.id) s = .next (s.repost (.copyLanding o.id))) ∧
        (s.earlierDone o.g o.w o.id = true →
          (∀ a ∈ o.dstAddrs ++ o.srcAddrs, ∃ off, regionOf a = .aperture .scratch off ∧ off < g.scratchBytes) → o.read = [] →
          (∃ off, regionOf (16 * unit) = .aperture .scratch off ∧ off < g.scratchBytes ∧ off / 128 * 128 + 128 ≤ g.scratchBytes) →
          let reads := (cellsOf o.cells unit).flatMap fun x => x.val.reads.flatMap Bits.addrs
          let m := fun va => if reads.any (fun a => a / 128 == va / 128) ∧ granuleValid g (va % 2 ^ 48 / 128) ∧ va % 2 ^ 48 < g.scratchBytes
            then Tab.get 0#8 g.scratch (va % 2 ^ 48) else 0#8
          let bytes := unitBytes s.free m (cellsOf o.cells unit) unit
          ∃ (t : State) (g' : Group) (read : Tab Byte), exec (.copyLanding o.id) s = .next t ∧ t.groups.find? o.g = some g' ∧ t.mem = s.mem ∧
            t.copies = [{ o with left := [], landed := o.landed + bytes.length, read := read }] ∧ .event (.copyComplete o.id) ∈ t.agenda ∧
            g' = { g with scratch := g'.scratch, granules := g'.granules } ∧
            granuleValid g' (unit * 16 % 2 ^ 48 / 128) = true ∧ granuleLanding g' (unit * 16 % 2 ^ 48 / 128) = false ∧
            (∀ b ∈ bytes, Tab.get 0#8 g'.scratch (b.va % 2 ^ 48) = b.onto (Tab.get 0#8 g.scratch (b.va % 2 ^ 48))) ∧
            ∀ off, (∀ b ∈ bytes, b.va % 2 ^ 48 ≠ off) → Tab.get 0#8 g'.scratch off = Tab.get 0#8 g.scratch off)) ∧
      (o.left = [] → s.lags = [] → s.refused = [] →
        (o.bytes = 0 → s.clk < o.promise → exec (.copyComplete o.id) s = .next (s.repost (.copyComplete o.id))) ∧
        (o.bytes ≠ 0 ∨ o.promise ≤ s.clk → o.bytes ≤ o.landed → ∃ (t : State) (w' : Wave), exec (.copyComplete o.id) s = .next t ∧
          t = { s with copies := [], groups := t.groups } ∧ waveOf t o.g o.w = some w' ∧ w' = { w with counts := w'.counts } ∧
          Tab.get 0 w'.counts 0 = Tab.get 0 w.counts 0 - 1 ∧ (∀ k, k ≠ 0 → Tab.get 0 w'.counts k = Tab.get 0 w.counts k) ∧
          ∀ k, k ≠ o.g → t.groups.find? k = s.groups.find? k)))

/-! ## Row 0xB: the matrix engine (R253 to R261) -/

namespace Sys2Proof.Claims

open Machine

/-- A quarter of a wave that has a lane in a set (R255). -/
def QuarterIn (m : LaneMask) (q : Nat) : Prop := q < 4 ∧ ∃ l, l < 8 ∧ m.getLsbD (8 * q + l) = true

/-- An operand that engines reach at issue: memory, the group's scratchpad, the scratchpads of its gang. -/
def EngineOperand (va : Nat) : Prop :=
  regionOf va = .memory ∨ (∃ off, regionOf va = .aperture .scratch off) ∨ ∃ off, regionOf va = .aperture .hive off

/-- MWR's types: f32, i32 and n32 (R257). -/
def wordType (m : ModeImage) : Bool := decide (modeType m ∈ [0, 6, 7])

/-- The loaded record of an id, and the wave's cursor for it. -/
def NamesTensor (c : Ctx) (t : Nat) (r : TRecord) (x : Cursor) : Prop :=
  (c.s.context c.g.ctx).tensors.find? t = some r ∧ knownFormat (bitField r 0 8) ∧
  x = ⟨t, (cursorNow c.w t r).1, (cursorNow c.w t r).2.1, (cursorNow c.w t r).2.2.1, (cursorNow c.w t r).2.2.2⟩

/-- Instruction i has given operation o to the wave's matrix work, behind its earlier ones; its step is due. Tiles, cursors and macros are as
w' and g say, and nothing else differs. -/
def IssuesOperation (i : Instr) (s : State) (c : Ctx) (w' : Wave) (g : Group) (o : MatOp) (due : Instr) : Prop :=
  ∃ (t : State) (w : Wave) (u : State), exec i s = .next t ∧ Completed { c with s := u, g := g, w := w' } c.cur.next t w ∧ WritesNone c.w w ∧
    w'.matOps = c.w.matOps ++ [o] ∧ u = { c.s with serial := c.s.serial + 1, agenda := c.s.agenda ++ [.event due], refused := u.refused }

/-- An operation that an instruction of c issues, but for what it names. -/
def operationOf (c : Ctx) (kind : MatKind) : MatOp :=
  { id := c.s.serial + 1, kind := kind, mode := c.mode, lanes := c.S, ctx := c.g.ctx, tag := c.tag }

/-- A record that MMA or MMAS takes from cursor x against macro m, for tiles `ts` of wave w (R255, R257). -/
def MatrixAccepts (sparse : Bool) (r : TRecord) (x : Cursor) (m : MacroSlot) (w : Wave) (ts : List Nat) (kind : TileKind) : Prop :=
  bitField r 10 2 = 1 ∧ bitField r 0 8 ∈ [0x06, 0x07, 0x08, 0x09, 0x0A, 0x0B] ∧ x.c0.toNat % 64 = 0 ∧ x.c1.toNat % 8 = 0 ∧
  m.loaded = true ∧ bitField r 160 32 = m.dim0 ∧ x.c0.toNat = m.kStart ∧ m.sparse = sparse ∧
  ∀ t ∈ ts, (Tab.get {} w.tiles t).kind = .empty ∨ (Tab.get {} w.tiles t).kind = kind

/-- From u to w the kinds of some tiles are set; every tile's words are what they were. -/
def OnlyKinds (u w : Wave) (ts : List Nat) (kind : TileKind) : Prop :=
  ∀ t, Tab.get {} w.tiles t = if t ∈ ts then { Tab.get {} u.tiles t with kind := kind } else Tab.get {} u.tiles t

/-- A signed byte. -/
def signedByte (b : Byte) : Int := if b.toNat < 128 then b.toNat else (b.toNat : Int) - 256

/-- The bytes that a group's own scratchpad holds, by address: 0 in a granule that is not valid (R308). -/
def scratchByte (g : Group) (va : Nat) : Byte :=
  if granuleValid g (va % 2 ^ 48 / 128) = true ∧ va % 2 ^ 48 < g.scratchBytes then Tab.get 0#8 g.scratch (va % 2 ^ 48) else 0#8

/-- The i8 element at K index k of line n of a blocked tensor of four dimensions with `rows` lines to a tile, from cursor x (R236, R237): 0 beyond
the extents (R238). -/
def blockedByte (rows : Nat) (r : TRecord) (x : Cursor) (m : Nat → Byte) (k n : Nat) : Int :=
  let i0 := x.c0.toNat + k
  let i1 := x.c1.toNat + n
  if i0 < bitField r 160 32 ∧ i1 < bitField r 192 32 ∧ x.c2.toNat < bitField r 224 32 ∧ x.c3.toNat < bitField r 256 32 then
    signedByte (m ((bitField r 32 64 + i1 / rows * bitField r 288 32 + i0 / 64 * (64 * rows) + (x.c2.toNat * bitField r 320 32 + x.c3.toNat * bitField r 352 32) +
      i1 % rows * 64 + i0 % 64) % 2 ^ 64))
  else 0

/-- A sum over K. -/
def sumK (f : Nat → Int) (n : Nat) : Int := ((List.range n).map f).sum

/-- A macro's word for an element holds the residues of the integer b: modulo 1023 and 1024 in ten bits each, modulo 1025 diminished by one, with
a flag for 0 (R78). -/
def HoldsResidues (x : Nat) (b : Int) : Prop :=
  (1023 : Int) ∣ x % 2 ^ 10 - b ∧ (1024 : Int) ∣ x / 2 ^ 10 % 2 ^ 10 - b ∧ (1025 : Int) ∣ (if x / 2 ^ 30 % 2 = 1 then 0 else x / 2 ^ 20 % 2 ^ 10 + 1 : Nat) - b

/-- What the three channels make of a sum (R80): the integer itself from −536,870,400 to 536,870,399. -/
def balanced (x : Int) : Int := (x + 536870400) % 1073740800 - 536870400

/-- The operation has been performed, and its wave is otherwise w'. -/
def Performed (s t : State) (gk wi : Nat) (g : Group) (w' : Wave) : Prop :=
  ∃ g', t = { s with groups := t.groups } ∧ t.groups.find? gk = some g' ∧ g' = { g with waves := g'.waves } ∧
    g'.waves = g.waves.set wi w' ∧ ∀ k, k ≠ gk → t.groups.find? k = s.groups.find? k

end Sys2Proof.Claims

open Sys2Proof Sys2Proof.Machine Sys2Proof.Claims in
/-- Row 0xB at issue, outside transactions and futures (R253 to R261). A tile or a macro that the wave or its group does not have traps
ILLEGAL_OPERAND with the field's number, whatever S is. With S empty nothing happens. A row above 7 traps ILLEGAL_OPERAND, an id that is not loaded
TENSOR_ID, what R254, R255 and R259 do not accept SHAPE_MISMATCH. Else each of MBLD, MMA, MMAS, MBATCH, MZERO, MDRAIN, MDRAINA, MRD and MWR
completes, with a next state: the operation
joins the wave's matrix work with the record, the cursor and the mode as they stand; MBLD records its tile in the macro; the first MMA on an
empty tile sets its kind, MZERO makes it empty. MBATCH closes a batch and counts one up, and waits at 63. MRD reads and MWR writes two
columns per lane once nothing of the wave on the tile is left.
A point the manual leaves open is as log entry 59 says. -/
def Obligations.MatrixIssue : Prop :=
  ∀ (s : State) (c : Ctx),
    (s.ctx? = some c → ∀ (i : Instr) (d a b : Selector) (r v : Reg), operandFault c.mode i = none →
      let stop := fun (field : Nat) => exec i s = .next (c.raise ⟨0x03, field, 0, c.act⟩)
      (i = .mbld d a → c.g.macros.length ≤ d.toNat → stop 1) ∧
      (i = .mma d a b ∨ i = .mmas d a b → c.g.accTiles ≤ d.toNat ∨ (∃ q, QuarterIn c.S q ∧ c.g.accTiles ≤ d.toNat + q) → stop 1) ∧
      (i = .mma d a b ∨ i = .mmas d a b → d.toNat < c.g.accTiles → (∀ q, QuarterIn c.S q → d.toNat + q < c.g.accTiles) → c.g.macros.length ≤ b.toNat →
        stop 3) ∧
      (i = .mzero d ∨ i = .mwr d r v → c.g.accTiles ≤ d.toNat → stop 1) ∧
      (i = .mdrain d a ∨ i = .mdraina d a ∨ i = .mrd r a v → c.g.accTiles ≤ a.toNat → stop 2)) ∧
    (c.txLanes = 0#32 → c.tag = 0 →
    (∀ (i : Instr) (d : Selector) (a b : Selector) (r v : Reg), i ∈ [Instr.mbld d a, .mma d a b, .mmas d a b, .mbatch, .mzero d, .mdrain d a, .mdraina d a,
      .mrd r a v, .mwr d r v] → Issues i (if i = .mwr d r v then wordType else anyType) s c →
      (c.S = 0#32 → ∃ (t : State) (w : Wave), exec i s = .next t ∧ Completed c c.cur.next t w ∧ WritesNone c.w w) ∧
      (c.S ≠ 0#32 →
        let stop := fun (field : Nat) => exec i s = .next (c.raise ⟨0x03, field, 0, c.act⟩)
        (i = .mrd r a v ∨ i = .mwr d r v → 7 < (c.val v 0).toNat → stop 3) ∧
        (∀ t, (i ∈ [Instr.mbld d a, .mma d a b, .mmas d a b] ∧ t = a) ∨ (i ∈ [Instr.mdrain d a, .mdraina d a] ∧ t = d) →
          (c.s.context c.g.ctx).tensors.find? t.toNat = none → exec i s = .next (c.raise ⟨0x21, 0, t.toNat, c.act⟩)))) ∧
    (∀ (d a : Selector) (r : TRecord) (x : Cursor), Issues (.mbld d a) anyType s c → c.S ≠ 0#32 → NamesTensor c a.toNat r x →
      let depth := if bitField r 10 2 = 3 then 128 else 64
      let good := bitField r 10 2 ∈ [2, 3] ∧ bitField r 0 8 ∈ [0x06, 0x07, 0x08, 0x09, 0x0A] ∧ x.c0.toNat % depth = 0 ∧ x.c1.toNat % 64 = 0
      (¬good → exec (.mbld d a) s = .next (c.raise ⟨0x20, 0, a.toNat, c.act⟩)) ∧
      (good → (∀ va ∈ addrsOf (tileReads r x depth 0 64), EngineOperand va) → ∃ (w' : Wave) (m : MacroSlot) (g : Group),
        IssuesOperation (.mbld d a) s c w' g { operationOf c .load with mac := d.toNat, record := r, cursor := x } (.mbldComplete c.gk d.toNat) ∧
        OnlyCursors c { c.w with matOps := w'.matOps } w' [] ∧ g = { c.g with macros := c.g.macros.set d.toNat m, badMacros := g.badMacros } ∧
        (∀ k, k ≠ d.toNat → (k ∈ g.badMacros ↔ k ∈ c.g.badMacros)) ∧ d.toNat ∉ g.badMacros ∧
        m = { c.g.macros.getD d.toNat {} with loaded := true, kStart := x.c0.toNat, dim0 := bitField r 160 32, format := bitField r 0 8,
                                              sparse := decide (bitField r 10 2 = 3) })) ∧
    (∀ (sparse : Bool) (d a b : Selector) (r : TRecord) (x : Cursor) (i : Instr) (ts : List Nat) (kind : TileKind), i = (if sparse then .mmas d a b else .mma d a b) →
      Issues i anyType s c → c.S ≠ 0#32 → NamesTensor c a.toNat r x →
      (∀ t, t ∈ ts ↔ ∃ q, QuarterIn c.S q ∧ t = d.toNat + q) →
      let m : MacroSlot := c.g.macros.getD b.toNat {}
      kind = (if bitField r 0 8 ∈ [0x08, 0x09] ∨ m.format ∈ [0x08, 0x09] then .float else .int) →
      (¬MatrixAccepts sparse r x m c.w ts kind → exec i s = .next (c.raise ⟨0x20, 0, a.toNat, c.act⟩)) ∧
      (MatrixAccepts sparse r x m c.w ts kind →
        (∀ q, QuarterIn c.S q → ∀ va ∈ addrsOf (tileReads r x (if sparse then 128 else 64) (8 * q) 8), EngineOperand va) → ∃ (w' : Wave),
        IssuesOperation i s c w' c.g { operationOf c (if sparse then .mmas else .mma) with tile := d.toNat, mac := b.toNat, record := r, cursor := x }
          (.matrixPass c.gk c.wi) ∧
        OnlyCursors c { c.w with matOps := w'.matOps, tiles := w'.tiles } w' [] ∧ OnlyKinds c.w w' ts kind)) ∧
    (Issues .mbatch anyType s c → c.S ≠ 0#32 →
      (63 ≤ Tab.get 0 c.w.counts 1 → exec .mbatch s = .next (c.waits .engine)) ∧
      (Tab.get 0 c.w.counts 1 < 63 → ∃ (t : State) (w w' : Wave) (u : State), exec .mbatch s = .next t ∧
        Completed { c with s := u, w := w' } c.cur.next t w ∧ WritesNone c.w w ∧
        u = { c.s with serial := c.s.serial + 1, agenda := c.s.agenda ++ [.event (.batchComplete c.gk c.wi)] } ∧
        w' = { c.w with matBatches := c.w.matBatches ++ [c.s.serial], counts := w'.counts } ∧ Tab.get 0 w'.counts 1 = Tab.get 0 c.w.counts 1 + 1 ∧
        ∀ k, k ≠ 1 → Tab.get 0 w'.counts k = Tab.get 0 c.w.counts k)) ∧
    (∀ (d : Selector), Issues (.mzero d) anyType s c → c.S ≠ 0#32 → ∃ (w' : Wave),
      IssuesOperation (.mzero d) s c w' c.g { operationOf c .zero with tile := d.toNat } (.matrixPass c.gk c.wi) ∧ OnlyKinds c.w w' [d.toNat] .empty ∧
      w' = { c.w with matOps := w'.matOps, tiles := w'.tiles, badTiles := w'.badTiles } ∧ d.toNat ∉ w'.badTiles ∧
      ∀ k, k ≠ d.toNat → (k ∈ w'.badTiles ↔ k ∈ c.w.badTiles)) ∧
    (∀ (adds : Bool) (d a : Selector) (r : TRecord) (x : Cursor) (i : Instr), i = (if adds then .mdraina d a else .mdrain d a) → Issues i anyType s c → c.S ≠ 0#32 →
      NamesTensor c d.toNat r x →
      let good := bitField r 10 2 = 0 ∧ bitField r 0 8 ∈ [0x01, 0x02, 0x03, 0x0C]
      (¬good → exec i s = .next (c.raise ⟨0x20, 0, d.toNat, c.act⟩)) ∧
      (good → (∀ e ∈ drainElems r x, ∀ va ∈ e.2.addrs, EngineOperand va) → ∃ (w' : Wave),
        IssuesOperation i s c w' c.g { operationOf c (if adds then .drainAdd else .drain) with
          tile := a.toNat, record := r, cursor := x, tileKind := (Tab.get {} c.w.tiles a.toNat).kind } (.matrixPass c.gk c.wi) ∧
        OnlyCursors c { c.w with matOps := w'.matOps } w' [])) ∧
    (∀ (d : Reg) (a : Selector) (b : Reg), Issues (.mrd d a b) anyType s c → c.S ≠ 0#32 → (c.val b 0).toNat ≤ 7 →
      ((∃ o ∈ c.w.matOps, a.toNat ∈ o.tiles) → exec (.mrd d a b) s = .next (c.waits .engine)) ∧
      ((∀ o ∈ c.w.matOps, a.toNat ∉ o.tiles) → ∃ (t : State) (w : Wave), exec (.mrd d a b) s = .next t ∧ Completed c c.cur.next t w ∧
        WritesRun c.w w d 2 c.S fun j l => Tab.get 0#32 (Tab.get {} c.w.tiles a.toNat).cells ((c.val b 0).toNat * 64 + 2 * l + j))) ∧
    (∀ (d : Selector) (a b : Reg), Issues (.mwr d a b) wordType s c → c.S ≠ 0#32 → (c.val b 0).toNat ≤ 7 →
      ((∃ o ∈ c.w.matOps, d.toNat ∈ o.tiles) → exec (.mwr d a b) s = .next (c.waits .engine)) ∧
      ((∀ o ∈ c.w.matOps, d.toNat ∉ o.tiles) → ∃ (t : State) (w w' : Wave), exec (.mwr d a b) s = .next t ∧ Completed { c with w := w' } c.cur.next t w ∧
        WritesNone c.w w ∧ w' = { c.w with tiles := w'.tiles } ∧ (∀ k, k ≠ d.toNat → Tab.get {} w'.tiles k = Tab.get {} c.w.tiles k) ∧
        (Tab.get {} w'.tiles d.toNat).kind = (if modeType c.mode = 0 then .float else .int) ∧
        (∀ l j, l < 32 → j < 2 → Tab.get 0#32 (Tab.get {} w'.tiles d.toNat).cells ((c.val b 0).toNat * 64 + 2 * l + j) =
          if c.S.getLsbD l then c.valAt a j l else Tab.get 0#32 (Tab.get {} c.w.tiles d.toNat).cells ((c.val b 0).toNat * 64 + 2 * l + j)) ∧
        ∀ k, k / 64 ≠ (c.val b 0).toNat → Tab.get 0#32 (Tab.get {} w'.tiles d.toNat).cells k = Tab.get 0#32 (Tab.get {} c.w.tiles d.toNat).cells k)))

open Sys2Proof Sys2Proof.Machine Sys2Proof.Claims in
/-- The matrix work of a wave (R78 to R81, R244, R254 to R260, R310), in issue order and behind the wave's earlier accesses. MZERO writes zeros. A pass
of MMA over i8 rows of the group's scratchpad and a dense integer macro adds to each accumulator what R80 makes of the dot product over 64 K of the row and the
integers whose residues the macro holds, wrapped, or clamped when `sat` is set; it waits for a macro's first tile, for the 64 clk that an MBLD holds it, and while the thermal limit holds the core's passes back (R446). MBLD
brings the residues of the i8 tile of a dense tensor into the macro and ends 64 clk later. MDRAIN of an integer tile to i32 writes its words to
the tensor's elements and the last unit of it ends the operation. MDRAINA to i32 adds, wrapped or clamped. A batch completes when the wave's operations up
to it have, their replicas with them.
A point the manual leaves open is as log entry 58 says. -/
def Obligations.MatrixSteps : Prop :=
  (∀ (s : State) (gk wi : Nat) (g : Group) (w : Wave) (o : MatOp), s.groups.find? gk = some g → g.waves[wi]? = some w → w.matOps.head? = some o → s.refused = [] →
    let left := w.matOps.filter fun x => x.id ≠ o.id
    (s.earlierDone gk wi o.id = false ∨ o.kind = .load → exec (.matrixPass gk wi) s = .next (s.repost (.matrixPass gk wi))) ∧
    (s.earlierDone gk wi o.id = true →
      (o.kind = .zero → ∃ (t : State) (w' : Wave), exec (.matrixPass gk wi) s = .next t ∧ Performed s t gk wi g w' ∧
        w' = { w with matOps := left, tiles := w'.tiles } ∧ Tab.get {} w'.tiles o.tile = { Tab.get {} w.tiles o.tile with cells := [] } ∧
        ∀ k, k ≠ o.tile → Tab.get {} w'.tiles k = Tab.get {} w.tiles k) ∧
      (o.kind = .mma → (g.macros.getD o.mac {}).filled = false ∨ s.clk < (g.macros.getD o.mac {}).held ∨ s.passHeld (gk / 16) = true → exec (.matrixPass gk wi) s = .next (s.repost (.matrixPass gk wi))) ∧
      (o.kind = .mma → (g.macros.getD o.mac {}).filled = true → (g.macros.getD o.mac {}).held ≤ s.clk → s.passHeld (gk / 16) = false → (s.power.find? (gk / 384)).all (fun p => p.matrixCap == 100) = true → (g.macros.getD o.mac {}).thin = false → (g.macros.getD o.mac {}).scaled = false →
        bitField o.record 0 8 = 0x06 → bitField o.record 10 2 = 1 → bitField o.record 8 2 = 3 →
        (∀ q, QuarterIn o.lanes q → ∀ va ∈ addrsOf (tileReads o.record o.cursor 64 (8 * q) 8),
          ∃ off, regionOf va = .aperture .scratch off ∧ off < g.scratchBytes) →
        ∀ (b : Nat → Nat → Int), (∀ k n, k < 64 → n < 64 → HoldsResidues (Tab.get (2 ^ 30) (g.macros.getD o.mac {}).kept (k * 64 + n)) (b k n)) →
        ∃ (t : State) (w' : Wave), exec (.matrixPass gk wi) s = .next t ∧ Performed s t gk wi g w' ∧ w' = { w with matOps := left, tiles := w'.tiles } ∧
          (∀ k, (Tab.get {} w'.tiles k).kind = (Tab.get {} w.tiles k).kind) ∧
          (∀ k, (∀ q, QuarterIn o.lanes q → k ≠ o.tile + q) → Tab.get {} w'.tiles k = Tab.get {} w.tiles k) ∧
          ∀ q row col, QuarterIn o.lanes q → row < 8 → col < 64 →
            let old := (Tab.get 0#32 (Tab.get {} w.tiles (o.tile + q)).cells (row * 64 + col)).toInt
            let dot := balanced (sumK (fun k => blockedByte 8 o.record o.cursor (scratchByte g) k (8 * q + row) * b k col) 64)
            Tab.get 0#32 (Tab.get {} w'.tiles (o.tile + q)).cells (row * 64 + col) =
              if modeSat o.mode then BitVec.ofInt 32 (max (-2 ^ 31) (min (2 ^ 31 - 1) (old + dot))) else BitVec.ofInt 32 (old + dot)) ∧
      (o.kind = .drain → ∀ unit, o.started = true → o.left = [unit] → o.error = false →
        let cells := cellsOf (drainCells o (Tab.get {} w.tiles o.tile)) unit
        let bytes := unitBytes s.free (fun _ => 0#8) cells unit
        (∀ x ∈ cells, ∀ a ∈ x.at_.addrs, ∃ off, regionOf a = .aperture .scratch off ∧ off < g.scratchBytes) → bytes ≠ [] →
        (∃ off, regionOf (16 * unit) = .aperture .scratch off ∧ off / 128 * 128 + 128 ≤ g.scratchBytes) →
        granuleValid g (16 * unit % 2 ^ 48 / 128) = true →
        ∃ (t : State) (g' : Group), exec (.matrixPass gk wi) s = .next t ∧ Performed s t gk wi { g with scratch := g'.scratch } { w with matOps := left } ∧
          t.groups.find? gk = some g' ∧
          (∀ b ∈ bytes, Tab.get 0#8 g'.scratch (b.va % 2 ^ 48) = b.onto (Tab.get 0#8 g.scratch (b.va % 2 ^ 48))) ∧
          ∀ off, (∀ b ∈ bytes, b.va % 2 ^ 48 ≠ off) → Tab.get 0#8 g'.scratch off = Tab.get 0#8 g.scratch off))) ∧
  (∀ (o : MatOp) (tile : Tile), o.tileKind = .int → bitField o.record 0 8 = 0x0C → bitField o.record 10 2 = 0 → bitField o.record 8 2 = 3 →
    ∀ x, x ∈ drainCells o tile ↔ ∃ row col, row < 8 ∧ col < 64 ∧ o.cursor.c0.toNat + col < bitField o.record 160 32 ∧
      o.cursor.c1.toNat + row < bitField o.record 192 32 ∧ o.cursor.c2.toNat < bitField o.record 224 32 ∧ o.cursor.c3.toNat < bitField o.record 256 32 ∧
      x = ⟨⟨elementAddress o.record 4 ⟨o.cursor.c0.toNat + col, o.cursor.c1.toNat + row, o.cursor.c2.toNat, o.cursor.c3.toNat⟩, 0, 32⟩,
           .const (Tab.get 0#32 tile.cells (row * 64 + col)).toNat⟩) ∧
  (∀ (m : ModeImage) (old x : Word), addInto 0x0C .int m old.toNat x.toNat =
    (if modeSat m then BitVec.ofInt 32 (max (-2 ^ 31) (min (2 ^ 31 - 1) (old.toInt + x.toInt))) else old + x).toNat) ∧
  (∀ (s : State) (gk mac wi : Nat) (g : Group) (w : Wave) (o : MatOp), s.groups.find? gk = some g → g.waves[wi]? = some w → w.matOps.head? = some o → s.refused = [] →
    o.kind = .load → o.mac = mac → mac < g.macros.length → s.earlierDone gk wi o.id = true →
    (∀ j v x, g.waves[j]? = some v → v.matOps.head? = some x → x.kind = .load → x.mac = mac → s.earlierDone gk j x.id = true → j ≠ wi →
      x.ends = none ∧ (o.ends = none → o.id < x.id)) →
    (∀ clk, o.ends = some clk → s.clk < clk → exec (.mbldComplete gk mac) s = .next (s.repost (.mbldComplete gk mac))) ∧
    (∀ clk, o.ends = some clk → clk ≤ s.clk → o.error = false → ∃ (t : State), exec (.mbldComplete gk mac) s = .next t ∧
      Performed s t gk wi g { w with matOps := w.matOps.filter fun x => x.id ≠ o.id }) ∧
    (o.ends = none → bitField o.record 0 8 = 0x06 → bitField o.record 10 2 = 2 → bitField o.record 8 2 = 3 →
    (∀ va ∈ addrsOf (tileReads o.record o.cursor 64 0 64), ∃ off, regionOf va = .aperture .scratch off ∧ off < g.scratchBytes) →
    ∃ (u : State) (m : MacroSlot), exec (.mbldComplete gk mac) s = .next (u.repost (.mbldComplete gk mac)) ∧
      Performed s u gk wi { g with macros := g.macros.set mac m } { w with matOps := { o with ends := some (s.clk + 64), error := false } :: w.matOps.tail } ∧
      m = { g.macros.getD mac {} with filled := true, scaled := false, thin := false, kept := m.kept, codes := [], scales := m.scales, held := s.clk + 64 } ∧
      ∀ k n, k < 64 → n < 64 → HoldsResidues (Tab.get (2 ^ 30) m.kept (k * 64 + n)) (blockedByte 64 o.record o.cursor (scratchByte g) k n))) ∧
  (∀ (s : State) (gk wi : Nat) (g : Group) (w : Wave) (mark : Nat) (rest : List Nat), s.groups.find? gk = some g → g.waves[wi]? = some w → w.matBatches = mark :: rest →
    ((∃ o ∈ w.matOps, o.id ≤ mark) ∨ (∃ r ∈ s.lags, r.g = gk ∧ r.w = wi + 64 ∧ r.id ≤ mark) → exec (.batchComplete gk wi) s = .next (s.repost (.batchComplete gk wi))) ∧
    ((∀ o ∈ w.matOps, mark < o.id) → (∀ r ∈ s.lags, ¬(r.g = gk ∧ r.w = wi + 64 ∧ r.id ≤ mark)) → ∃ (t : State) (w' : Wave), exec (.batchComplete gk wi) s = .next t ∧ Performed s t gk wi g w' ∧
      w' = { w with matBatches := rest, counts := w'.counts } ∧ Tab.get 0 w'.counts 1 = Tab.get 0 w.counts 1 - 1 ∧
      ∀ k, k ≠ 1 → Tab.get 0 w'.counts k = Tab.get 0 w.counts k))

/-! ## Row 0xC: rays and textures (R262 to R268) -/

namespace Sys2Proof.Claims

open Machine

/-- The kind, the number of source words, the counter and the formats of a ray or texture instruction, its destination, its source, its id
(R262, R268). -/
def laneForm : Instr → Option (Nat × Nat × Nat × List Nat × Reg × Reg × Selector)
  | .rayq d a b => some (0, 8, 2, [0x10], d, a, b)
  | .rayqa d a b => some (1, 8, 2, [0x10], d, a, b)
  | .tex d a b => some (2, 4, 3, [0x11, 0x12, 0x13, 0x14, 0x15, 0x16, 0x17, 0x18, 0x19], d, a, b)
  | .texl d a b => some (3, 4, 3, [0x11, 0x12, 0x13, 0x14, 0x15, 0x16, 0x17, 0x18, 0x19], d, a, b)
  | .texg d a b => some (4, 8, 3, [0x11, 0x12, 0x13, 0x14, 0x15, 0x16, 0x17, 0x18, 0x19], d, a, b)
  | _ => none

/-- What the unit finds for a lane: four words, or a read that is not allowed. -/
def LaneAnswer (s : State) (o : LaneOp) (l : Nat) (x : Option (List Word)) : Prop :=
  if o.kind ≤ 1 then
    (s.query o l = .fails ∧ x = none) ∨
    (s.query o l = .ok none ∧ x = some [0x7F800000#32, 0xFFFFFFFF#32, 0#32, 0#32]) ∨
    ∃ h, s.query o l = .ok (some h) ∧ x = some [BitVec.ofNat 32 h.t, BitVec.ofNat 32 h.prim, BitVec.ofNat 32 h.u, BitVec.ofNat 32 h.v]
  else (s.sample o l = .fails ∧ x = none) ∨ ∃ ws, s.sample o l = .ok ws ∧ x = some ws

/-- The words of triangle i of a structure as the unit reads them (R263). -/
def HasTriangle (s : State) (o : LaneOp) (i : Nat) (words : List Nat) : Prop :=
  i < (if bitField o.record 8 2 = 0 then 1 else bitField o.record 192 32) ∧
  ∃ x, s.unitLoad o.eng ((bitField o.record 96 64 + 48 * i) % 2 ^ 64) 48 = .ok x ∧ words = (List.range 10).map fun j => x / 2 ^ (32 * j) % 2 ^ 32

end Sys2Proof.Claims

open Sys2Proof Sys2Proof.Machine Sys2Proof.Claims in
/-- RAYQ, RAYQA, TEX, TEXL and TEXG (R243, R245, R262, R265, R267, R268), outside transactions. With S empty nothing happens; an id that is not loaded
traps TENSOR_ID, a record of another format SHAPE_MISMATCH; a counter at 63 waits. Else each of the five completes: the operation takes the source registers of every lane, its
counter goes up by one and its four destination registers wait in the scoreboard. Its step is due behind the wave's earlier accesses and its earlier
operations of the class: every lane of S gets its four words, a lane whose read is not allowed a miss, or zeros, and an error is counted
against the launch; the counter goes down by one and the registers are free.

What the units compute (R264 to R267). A dead ray hits nothing. A leaf gives RAYQ the nearest of its triangles' hits, at equal t the one of the lower
`prim_id`, and a hit lies within [tmin, tmax]. The wrap modes repeat, mirror, clamp, or leave the texture. A bilinear tap names floor(x) and
floor(x) + 1 for x = u × n − 0.5, with weight round(frac(x) × 256, rne).
Points the manual leaves open are as log entries 60, 61, 62, 63, 64 say. -/
def Obligations.LaneUnits : Prop :=
  ((∀ (i : Instr) (s : State) (c : Ctx) (kind words cls : Nat) (formats : List Nat) (d a : Reg) (b : Selector),
      laneForm i = some (kind, words, cls, formats, d, a, b) → Issues i anyType s c → c.txLanes = 0#32 →
      (c.S = 0#32 → ∃ (t : State) (w : Wave), exec i s = .next t ∧ Completed c c.cur.next t w ∧ WritesNone c.w w) ∧
      (c.S ≠ 0#32 → (c.s.context c.g.ctx).tensors.find? b.toNat = none → exec i s = .next (c.raise ⟨0x21, 0, b.toNat, c.act⟩)) ∧
      (∀ r, c.S ≠ 0#32 → (c.s.context c.g.ctx).tensors.find? b.toNat = some r → knownFormat (bitField r 0 8) →
        (bitField r 0 8 ∉ formats → exec i s = .next (c.raise ⟨0x20, 0, b.toNat, c.act⟩)) ∧
        (bitField r 0 8 ∈ formats → 63 ≤ Tab.get 0 c.w.counts cls → ∃ w', OnlyCursors c c.w w' [] ∧ exec i s = .next ({ c with w := w' }.waits .engine)) ∧
        (∀ n, bitField r 0 8 ∈ formats → Tab.get 0 c.w.counts cls < 63 → d = .v n →
          ∃ (t : State) (w w' : Wave) (u : State) (o : LaneOp), exec i s = .next t ∧ Completed { c with s := u, w := w' } c.cur.next t w ∧ WritesNone c.w w ∧
            u = { c.s with serial := c.s.serial + 1, laneOps := c.s.laneOps ++ [o],
                           agenda := c.s.agenda ++ [.event (if kind ≤ 1 then .rayComplete o.id else .texComplete o.id)] } ∧
            o = { id := c.s.serial + 1, g := c.gk, w := c.wi, kind := kind, dest := n.val, lanes := c.S, args := o.args, record := r, mode := c.mode,
                  ctx := c.g.ctx, tag := c.tag } ∧
            (∀ l j, l < 32 → j < words → Tab.get 0#32 o.args (l * 8 + j) = c.valAt a j l) ∧
            OnlyCursors c { c.w with counts := w'.counts, scoreboard := w'.scoreboard } w' [] ∧ Tab.get 0 w'.counts cls = Tab.get 0 c.w.counts cls + 1 ∧
            (∀ k, k ≠ cls → Tab.get 0 w'.counts k = Tab.get 0 c.w.counts k) ∧
            w'.scoreboard = c.w.scoreboard ++ [⟨o.id, [.v n.val, .v (n.val + 1), .v (n.val + 2), .v (n.val + 3)], c.S, []⟩] ∧ w.scoreboard = w'.scoreboard))) ∧
    (∀ (s : State) (o : LaneOp) (g : Group) (w : Wave) (step : Instr) (miss : List Word) (cls : Nat),
      (s.laneOps.find? fun x => x.id == o.id) = some o → s.groups.find? o.g = some g → g.waves[o.w]? = some w → s.refused = [] → (∃ x ∈ w.scoreboard, x.id = o.id) →
      (step, miss, cls) = (if o.kind ≤ 1 then (.rayComplete o.id, [0x7F800000#32, 0xFFFFFFFF#32, 0#32, 0#32], 2) else (.texComplete o.id, [0#32, 0#32, 0#32, 0#32], 3)) →
      let due := s.earlierDone o.g o.w o.id = true ∧ ∀ x ∈ s.laneOps, x.g = o.g → x.w = o.w → x.id < o.id → ¬(x.kind ≤ 1 ↔ o.kind ≤ 1)
      (¬due → exec step s = .next (s.repost step)) ∧
      (due → ∀ f : Nat → Option (List Word), (∀ l, l < 32 → o.lanes.getLsbD l = true → LaneAnswer s o l (f l)) →
        ∃ (t : State) (w' : Wave), exec step s = .next t ∧ t = { s with groups := t.groups, launches := t.launches, laneOps := s.laneOps.filter fun x => x.id ≠ o.id } ∧
          Performed { s with launches := t.launches, laneOps := t.laneOps } t o.g o.w g w' ∧
          w' = { w with v := w'.v, dead := w'.dead, poison := w'.poison, counts := w'.counts, scoreboard := w.scoreboard.filter fun x => x.id ≠ o.id } ∧
          Tab.get 0 w'.counts cls = Tab.get 0 w.counts cls - 1 ∧ (∀ k, k ≠ cls → Tab.get 0 w'.counts k = Tab.get 0 w.counts k) ∧
          (∀ r l, l < 32 → Tab.get 0#32 w'.v (vKey r l) = if o.dest ≤ r ∧ r < o.dest + 4 ∧ o.lanes.getLsbD l = true
            then ((f l).getD miss).getD (r - o.dest) 0#32 else Tab.get 0#32 w.v (vKey r l)) ∧
          ∀ k, t.launches.find? k = (s.launches.find? k).map fun (x : Launch) =>
            if g.launch = some k ∧ ((List.range 32).any fun l => o.lanes.getLsbD l && (f l).isNone) = true then
              { x with tally := if cls = 2 then { x.tally with rayErrors := x.tally.rayErrors + 1 } else { x.tally with texErrors := x.tally.texErrors + 1 } }
            else x))) ∧
  ((∀ (s : State) (o : LaneOp) (l : Nat), o.kind ≤ 1 → (∃ j, j < 8 ∧ fmtF32.value false (Tab.get 0#32 o.args (l * 8 + j)).toNat = .nan) →
      s.query o l = .ok none) ∧
    (∀ (r : Ray) (vs : List Nat) (prim : Nat) (h : Hit), r.triangle vs prim = some h → h.prim = prim ∧
      (f32 h.t).less (f32 r.tmin) = false ∧ (f32 r.tmax).less (f32 h.t) = false) ∧
    (∀ (s : State) (o : LaneOp) (r : Ray) (is : List Nat) (h : Hit), s.leaf o r false none is = .ok (some h) →
      (∃ i words, i ∈ is ∧ HasTriangle s o i words ∧ r.triangle (words.take 9) (words.getD 9 0) = some h) ∧
      ∀ i words h', i ∈ is → HasTriangle s o i words → r.triangle (words.take 9) (words.getD 9 0) = some h' →
        (f32 h'.t).less (f32 h.t) = false ∧ ((f32 h'.t).same (f32 h.t) = true → h.prim ≤ h'.prim)) ∧
    (∀ (n : Nat) (i : Int), 0 < n →
      (∃ j, wrapIndex 0 n i = some j ∧ j < n ∧ ((j : Int) - i) % n = 0) ∧
      (∃ j, wrapIndex 1 n i = some j ∧ j < n ∧ (((j : Int) - i) % (2 * n) = 0 ∨ ((j : Int) + 1 + i) % (2 * n) = 0)) ∧
      (∃ j, wrapIndex 2 n i = some j ∧ j < n ∧ ((0 ≤ i ∧ i < n) → (j : Int) = i) ∧ (i < 0 → j = 0) ∧ ((n : Int) ≤ i → j = n - 1)) ∧
      wrapIndex 3 n i = if 0 ≤ i ∧ i < n then some i.toNat else none) ∧
    (∀ (n a b : Nat) (neg : Bool), 0 < b →
      let x : Int := 2 * (if neg then -((a * n : Nat) : Int) else ((a * n : Nat) : Int)) - b
      ∃ (f : Int) (α : Nat), taps true n (.fin neg a b) = [(f, 256 - α), (f + 1, α)] ∧ 2 * b * f ≤ x ∧ x < 2 * b * (f + 1) ∧
        let error := (2 * b * (α : Int) - 256 * (x - 2 * b * f)).natAbs
        error ≤ b ∧ (error = b → α % 2 = 0)))

/-! ## Row 0xD: the system instructions (R380 to R403) -/

namespace Sys2Proof.Claims

open Machine

/-- The row's instructions other than RDTIME, RDSR, TRET and WRSR of `srseed` act outside transactions and futures (R403). -/
def Alone (c : Ctx) : Prop := c.txLanes = 0#32 ∧ (c.tag = 0 ∨ c.firmware = true)

/-- The width and the value of a special register that is neither `linkstat` nor reserved (R382). -/
def specialOf (c : Ctx) : Nat → Option (Nat × Nat)
  | 0x01 => some (1, c.w.fmask.toNat)
  | 0x02 => some (1, c.w.srseed.toNat)
  | 0x03 => some (1, match c.w.tx with | some t => t.depth | none => 0)
  | 0x04 => some (1, if c.slotB then 1 else 0)
  | 0x05 => some (1, c.g.gidX)
  | 0x06 => some (1, c.g.gidY)
  | 0x07 => some (1, c.g.gidZ)
  | 0x08 => some (1, c.g.gridX)
  | 0x09 => some (1, c.g.gridY)
  | 0x0A => some (1, c.g.gridZ)
  | 0x0B => some (1, c.gk / 384)
  | 0x0C => some (1, c.gk / 384 * 256 + c.gk / 16 % 24)
  | 0x0D => some (1, c.g.ctx)
  | 0x40 => some (1, (c.s.die c.die).schedmask.toNat)
  | 0x41 => some (2, (c.s.die c.die).trapbase.toNat)
  | 0x42 => some (1, if c.w.pacecheck then 1 else 0)
  | 0x43 => some (1, (c.s.die c.die).faultHead.toNat)
  | 0x44 => some (1, (c.s.die c.die).faultTail.toNat)
  | 0x45 => some (1, (c.s.die 0).schedmask.toNat)
  | 0x46 => some (1, (c.s.die 1).schedmask.toNat)
  | 0x47 => some (1, (c.s.die 2).schedmask.toNat)
  | 0x48 => some (1, (c.s.die 3).schedmask.toNat)
  | 0x49 => some (2, (c.s.die c.die).faultBase.toNat)
  | 0x4B => some (1, 0)
  | _ => none

/-- The die of a write of `schedmask` or `schedmask0` to `schedmask3` (R382). -/
def maskDie (c : Ctx) (b : Selector) : Option Nat :=
  if b = 0x40#8 then some c.die else if 0x45 ≤ b.toNat ∧ b.toNat ≤ 0x48 then some (b.toNat - 0x45) else none

/-- From s to u the registers of die d become x, and those of every other die stay. -/
def DieBecomes (s u : State) (d : Nat) (x : Die) : Prop := u.die d = x ∧ ∀ k, k ≠ d → u.die k = s.die k

/-- A group operation's handle names a core and a slot (R392). -/
def handleParts (h : Word) : Nat × Nat × Nat := (h.toNat / 2 ^ 12 % 4, h.toNat / 2 ^ 7 % 32, h.toNat % 16)

/-- A handle is legal. -/
def HandleLegal (h : Word) : Prop := h.toNat / 2 ^ 14 = 0 ∧ h.toNat / 2 ^ 4 % 8 = 0 ∧ 1 ≤ h.toNat / 2 ^ 7 % 32 ∧ h.toNat / 2 ^ 7 % 32 ≤ 23

/-- The group key that a legal handle names. -/
def keyOf (h : Word) : Nat := ((handleParts h).1 * 24 + (handleParts h).2.1) * 16 + (handleParts h).2.2

/-- An instruction of the row that writes status x has completed as c leaves it. -/
def Answers (i : Instr) (s : State) (c : Ctx) (d : Reg) (x : Word) : Prop :=
  ∃ (t : State) (w : Wave), exec i s = .next t ∧ Completed c c.cur.next t w ∧ WritesRun c.w w d 1 0xFFFFFFFF#32 fun _ _ => x

/-- The same, and the device then acts. -/
def AnswersThen (i : Instr) (s : State) (c : Ctx) (d : Reg) (x : Word) (f : State → State) : Prop :=
  ∃ (t : State) (w : Wave), exec i s = .next (f t) ∧ Completed c c.cur.next t w ∧ WritesRun c.w w d 1 0xFFFFFFFF#32 fun _ _ => x

/-- A field of the 64 bytes at an offset of a wave's save slot (R356). -/
def savedField (w : Wave) (base lo n : Nat) : Nat :=
  bytesNat ((List.range 64).map fun j => Tab.get 0#8 w.save (base + j)) / 2 ^ lo % 2 ^ n

end Sys2Proof.Claims

open Sys2Proof Sys2Proof.Machine Sys2Proof.Claims in
/-- Time and special registers (R72, R382 to R387). RDTIME writes the chip cycle counter, RDSR the selected register as it stands; neither writes
anything else. WRSR waits until the wave's earlier accesses are performed and replaces the register: `srseed` reseeds all 32 lanes, also in a
transaction; `schedmask` takes bits 23 to 1; a `faultq_head` outside the range up to `faultq_tail` is ignored; `fwwake` latches an event for
each die whose bit is set.
Points the manual leaves open are as log entries 68, 69 say. -/
def Obligations.SpecialRegisters : Prop :=
  ∀ (s : State) (c : Ctx),
    (∀ (d : Reg), Issues (.rdtime d) anyType s c → ∃ (t : State) (w : Wave), exec (.rdtime d) s = .next t ∧ Completed c c.cur.next t w ∧
      WritesRun c.w w d 2 0xFFFFFFFF#32 (halves fun _ => BitVec.ofNat 64 c.s.clk)) ∧
    (∀ (d : Reg) (b : Selector) (n x : Nat), Issues (.rdsr d b) anyType s c → specialOf c b.toNat = some (n, x) →
      ∃ (t : State) (w : Wave), exec (.rdsr d b) s = .next t ∧ Completed c c.cur.next t w ∧
        WritesRun c.w w d n 0xFFFFFFFF#32 (halves fun _ => BitVec.ofNat 64 x)) ∧
    (∀ (d : Reg), Issues (.rdsr d 0x4A#8) anyType s c → (∀ k, k < 4 → (c.s.die k).link < 4) →
      ∃ (t : State) (w : Wave) (x : Word), exec (.rdsr d 0x4A#8) s = .next t ∧ Completed c c.cur.next t w ∧
        (WritesRun c.w w d 1 0xFFFFFFFF#32 fun _ _ => x) ∧ x.toNat < 2 ^ 16 ∧
        ∀ k, k < 4 → x.toNat / 4 ^ k % 4 = (c.s.die k).link ∧ x.getLsbD (8 + k) = (c.s.die k).bypass ∧ x.getLsbD (12 + k) = (c.s.die k).ready) ∧
    (∀ (a : Reg) (b : Selector), Issues (.wrsr a b) anyType s c → (b = 0x02#8 ∨ Alone c) →
      (c.txLanes = 0#32 → c.settled = false → c.p.wait ∉ [Wait.engine, .front] → exec (.wrsr a b) s = .next (c.waits .fence)) ∧
      ((c.txLanes = 0#32 → c.settled = true) → ∀ v : Wave, v = (if c.txLanes = 0#32 then c.acquire.w else c.w) →
        let x := c.val a 0
        let completes := fun (w' : Wave) (u : State) => ∃ (t : State) (w : Wave), exec (.wrsr a b) s = .next t ∧
          Completed { c with s := u, w := w' } c.cur.next t w ∧ WritesNone c.w w
        (b = 0x02#8 → ∃ w', completes w' c.s ∧ w' = { v with srseed := x, generator := w'.generator } ∧
          ∀ l, l < 32 → w'.generatorOf l = let g := x ^^^ (0x9E3779B9#32 * BitVec.ofNat 32 (l + 1)); if g = 0#32 then 1#32 else g) ∧
        (b = 0x41#8 → ∃ u, completes v u ∧ u = { c.s with dies := u.dies } ∧ DieBecomes c.s u c.die { c.s.die c.die with trapbase := c.val64 a 0 }) ∧
        (b = 0x42#8 → completes { v with pacecheck := x.getLsbD 0 } c.s) ∧
        (b = 0x43#8 → ∃ u, completes v u ∧ u = { c.s with dies := u.dies } ∧
          DieBecomes c.s u c.die { c.s.die c.die with faultHead :=
            if (x - (c.s.die c.die).faultHead).toNat ≤ ((c.s.die c.die).faultTail - (c.s.die c.die).faultHead).toNat then x else (c.s.die c.die).faultHead }) ∧
        (b = 0x49#8 → ∃ u, completes v u ∧ u = { c.s with dies := u.dies } ∧ DieBecomes c.s u c.die { c.s.die c.die with faultBase := c.val64 a 0 }) ∧
        (b = 0x4B#8 → ∃ u, completes v u ∧ u = { c.s with dies := u.dies } ∧
          ∀ k, u.die k = if k < 4 ∧ x.getLsbD k = true then { c.s.die k with event := true } else c.s.die k) ∧
        (∀ k, maskDie c b = some k → ∃ u, completes v u ∧ DieBecomes c.s u k { c.s.die k with schedmask := x &&& 0x00FFFFFE#32 } ∧
          u = { c.s with dies := u.dies, gangs := u.gangs, contexts := u.contexts, power := u.power, agenda := u.agenda } ∧
          ∀ (j : Nat) (y : Gang), c.s.gangs.find? j = some y → ∃ z, u.gangs.find? j = some z ∧ z = { y with evicted := z.evicted, evictAge := z.evictAge } ∧
            (y.placed = true → (∃ (gk : Nat) (g : Group), (gk, g) ∈ c.s.groups ∧ g.launch = some y.launch ∧ g.gang = y.index ∧ gk / 384 = k ∧
              (c.s.die k).schedmask.getLsbD (gk / 16 % 24) = true ∧ (x &&& 0x00FFFFFE#32).getLsbD (gk / 16 % 24) = false) → z.evicted = true))))

open Sys2Proof Sys2Proof.Machine Sys2Proof.Claims in
/-- TLBINV, IRQ, HALTG, RESUMEG, GSAVE, GLOAD and PARK (R389 to R394, R402), once the wave's earlier accesses are performed; until then they
wait. TLBINV drops the translations of the range and every copy of their lines. IRQ sends its vector, or sets the pending bit of a masked one. A handle
that is not legal traps ILLEGAL_OPERAND; no group gives status 2, a group that is not halted 3. A halted group resumes; a group that is halted has every
wave's frame with cause DEBUG_HALT, sub-cause 1 and `halted`. GSAVE stores the image of a halted group and answers once its stores are performed. PARK takes a latched event, or waits.
Points the manual leaves open are as log entries 35, 65, 67, 70, 72 say. -/
def Obligations.SystemOperations : Prop :=
  (∀ (i : Instr) (s : State) (c : Ctx) (d a b : Reg) (v : Selector), Issues i anyType s c → Alone c →
    (i ∈ [Instr.tlbinv a b, .irq v, .haltg d a, .resumeg d a, .gsave d a b, .gload d a b] → c.settled = false → c.p.wait ∉ [Wait.engine, .front] → exec i s = .next (c.waits .fence)) ∧
    (i = .park →
      ((c.s.die c.die).event = false → exec i s = .next (c.waits .park)) ∧
      ((c.s.die c.die).event = true → ∃ (t : State) (w : Wave) (u : State), exec i s = .next t ∧ Completed { c with s := u } c.cur.next t w ∧ WritesNone c.w w ∧
        u = { c.s with dies := u.dies } ∧ DieBecomes c.s u c.die { c.s.die c.die with event := false })) ∧
    (c.settled = true → ∀ e : Ctx, e = c.acquire →
      (i = .irq v → ∃ (t : State) (w : Wave) (u : State), exec i s = .next t ∧ Completed { e with s := u } c.cur.next t w ∧ WritesNone c.w w ∧
        u = { c.s with msixSent := u.msixSent, msixPending := u.msixPending } ∧
        if c.s.msixMasked v.toNat then u.msixSent = c.s.msixSent ∧ ∀ k, k ∈ u.msixPending ↔ k = v.toNat ∨ k ∈ c.s.msixPending
        else u.msixPending = c.s.msixPending ∧ u.msixSent = c.s.msixSent ++ [v.toNat]) ∧
      (i = .tlbinv a b →
        let va := (c.val64 a 0).toNat
        let x := (c.val b 0).toNat
        let size := x % 2 ^ 6
        let asid := x / 2 ^ 16
        (x / 2 ^ 6 % 2 ^ 10 ≠ 0 ∨ size < 12 ∨ 57 < size → exec i s = .next (e.raise ⟨0x03, 3, 0, c.act⟩)) ∧
        (x / 2 ^ 6 % 2 ^ 10 = 0 → 12 ≤ size → size ≤ 57 →
          (canonical va = false → exec i s = .next (e.raise ⟨0x12, 1, va, c.act⟩)) ∧
          (canonical va = true → c.s.guestDirty = [] →
            let hit := fun (k : Nat) => (asid = 0xFFFF ∨ k / 2 ^ 45 = asid) ∧ k % 2 ^ 45 * 4096 / 2 ^ size = va / 2 ^ size
            ∃ (t : State) (w : Wave) (u : State), exec i s = .next t ∧ Completed { e with s := u } c.cur.next t w ∧ WritesNone c.w w ∧
              u = { c.s with tlb := u.tlb, remap := u.remap, lines := u.lines, leases := u.leases, guestCopies := u.guestCopies, unwritten := u.unwritten,
                               nearOld := u.nearOld } ∧
              (∀ k, u.unwritten.find? k = none ∨ u.unwritten.find? k = c.s.unwritten.find? k) ∧
              (∀ k, (hit k → u.tlb.find? k = none) ∧ (¬hit k → u.tlb.find? k = c.s.tlb.find? k)) ∧
              ∀ k (tr : Translation), hit k → (k, tr) ∈ c.s.tlb → ∀ j core tag, j < 32 → core < 128 →
                let line := memPlace 0 (tr.pa (k % 2 ^ 45 * 4096)) / 128 + j
                line < 2 ^ 45 → u.leases.find? ((tag * 2 ^ 45 + line) * 128 + core) = none ∧ (u.line line).guests = [] ∧ (u.line line).owner = none ∧
                  ∀ i, i < 128 → u.unwritten.find? (line * 128 + i) = none))) ∧
      (i ∈ [Instr.haltg d a, .resumeg d a, .gsave d a b, .gload d a b] →
        (¬HandleLegal (c.val a 0) → exec i s = .next (e.raise ⟨0x03, 2, 0, c.act⟩)) ∧
        (HandleLegal (c.val a 0) →
          (i ≠ .gload d a b → (∀ g, c.s.groups.find? (keyOf (c.val a 0)) = some g → g.retired = true) → Answers i s e d (2#32 <<< 24)) ∧
          (∀ g, c.s.groups.find? (keyOf (c.val a 0)) = some g → g.retired = false →
            (i = .haltg d a → g.halted = true → Answers i s e d 0#32) ∧
            (i = .haltg d a → g.halted = false → AnswersThen i s e d 0#32 fun t => t.haltGroup (keyOf (c.val a 0)) 1 none) ∧
            (i = .resumeg d a ∨ i = .gsave d a b → g.halted = false → Answers i s e d (3#32 <<< 24)) ∧
            (i = .resumeg d a → g.halted = true → AnswersThen i s e d 0#32 fun t => t.resumeGroup (keyOf (c.val a 0))) ∧
            (i = .gsave d a b → g.halted = true → (c.val64 b 0).toNat % 256 = 0 → c.p.wait = .front → c.s.quiet c.gk c.wi = true → Answers i s e d 0#32) ∧
            (i = .gsave d a b → g.halted = true → (c.val64 b 0).toNat % 256 = 0 → c.p.wait = .front → c.s.quiet c.gk c.wi = false →
              exec i s = .next (e.waits .front)) ∧
            (i = .gsave d a b → g.halted = true → (c.val64 b 0).toNat % 256 = 0 → c.p.wait = .none → c.tag = 0 → c.s.groupQuiet (keyOf (c.val a 0)) = true →
              ∀ f : Nat → Translation,
              let va := (c.val64 b 0).toNat
              (∀ k, k < g.imageBytes → Storage c 1 (va + k) (f ((va + k) / 4096)) ∧ (f ((va + k) / 4096)).write = true ∧ 12 ≤ (f ((va + k) / 4096)).bits) →
              ∃ (u : State) (new : List PostedWrite) (x : Group), exec i s = .next ({ e with s := u }.waits .front) ∧ u.mem = c.s.mem ∧
                u.posted = c.s.posted ++ new ∧ (c.s.flushGroup (keyOf (c.val a 0))).groups.find? (keyOf (c.val a 0)) = some x ∧
                ∀ k y, k < g.imageBytes → ((c.s.flushGroup (keyOf (c.val a 0))).image (keyOf (c.val a 0)) x)[k]? = some y →
                  ∃ p ∈ new, p.g = c.gk ∧ p.w = c.wi ∧ (memPlace 0 ((f ((va + k) / 4096)).pa (va + k)), y) ∈ p.bytes)) ∧
          (i = .gsave d a b → (c.val64 b 0).toNat % 256 ≠ 0 → (∃ g, c.s.groups.find? (keyOf (c.val a 0)) = some g ∧ g.retired = false ∧ g.halted = true) →
            exec i s = .next (e.raise ⟨0x10, 256, (c.val64 b 0).toNat, c.act⟩)) ∧
          (i = .gload d a b → (c.val64 b 0).toNat % 256 ≠ 0 → exec i s = .next (e.raise ⟨0x10, 256, (c.val64 b 0).toNat, c.act⟩)) ∧
          (i = .gload d a b → (c.val64 b 0).toNat % 256 = 0 → ∀ f : Nat → Translation,
            let va := (c.val64 b 0).toNat
            let at_ := fun (k : Nat) => memPlace 0 ((f ((va + k) / 4096)).pa (va + k))
            let byte := fun (k : Nat) => c.memByte (at_ k)
            let open_ := fun (n : Nat) => ∀ k, k < n → Storage c 1 (va + k) (f ((va + k) / 4096)) ∧ (f ((va + k) / 4096)).read = true ∧
              12 ≤ (f ((va + k) / 4096)).bits ∧ capBlocks (c.s.line (lineOf (at_ k))) c.gk c.wi = false
            let size := bytesNat ((List.range 8).map fun j => byte (40 + j))
            (open_ 256 → size < 256 ∨ 2 ^ 23 < size → ∃ x, Answers i s { e with s := { c.s with tlb := x } } d (5#32 <<< 24)) ∧
            (256 ≤ size → size ≤ 2 ^ 23 → open_ size → ∃ x,
              let l := { c.s with tlb := x }.loadImage ((List.range size).map byte) ((handleParts (c.val a 0)).1 * 24 + (handleParts (c.val a 0)).2.1)
              l.2.1 ∈ [0, 4, 5] ∧
              Answers i s { e with s := l.1 } d (BitVec.ofNat 32 (l.2.1 * 2 ^ 24 +
                (if l.2.1 = 0 then l.2.2 / 384 * 2 ^ 12 + l.2.2 / 16 % 24 * 2 ^ 7 + l.2.2 % 16 else 0))))))))) ∧
  (∀ (s : State) (gk : Nat) (g : Group), s.groups.find? gk = some g → g.tag < 16 → bitsOf (s.context g.ctx).traceCfg.toNat 0 5 < 12 →
    (∀ w ∈ g.waves, w.handler = none ∧ w.tx = none) →
    ∃ g', (s.haltGroup gk 1 none).groups.find? gk = some g' ∧ g'.halted = true ∧ (s.haltGroup gk 1 none).mem = s.mem ∧
      (∀ k, k ≠ gk → (s.haltGroup gk 1 none).groups.find? k = s.groups.find? k) ∧
      ∀ (wi : Nat) (w : Wave) (p : Path), g.waves[wi]? = some w → w.live ≠ 0#32 → w.slot (w.slotA.isNone) = some p →
        ∃ w', g'.waves[wi]? = some w' ∧ w' = { w with save := w'.save, cap0 := w'.cap0, cap1 := w'.cap1 } ∧
          savedField w' 0 0 32 = p.pc.toNat ∧ savedField w' 0 64 32 = p.mask.toNat ∧ savedField w' 0 160 8 = 0x42 ∧ savedField w' 0 168 8 = 1 ∧
          savedField w' 0 189 1 = 1 ∧ savedField w' 0 192 24 = p.mode.toNat ∧
          (∀ j, j < 4 → savedField w' 0 (256 + 32 * j) 32 = (Tab.get 0#32 w.k (28 + j)).toNat) ∧
          ∀ j, 64 ≤ j → Tab.get 0#8 w'.save j = Tab.get 0#8 w.save j) ∧
  (∀ (s : State) (gk : Nat) (g : Group) (wi : Nat) (w : Wave) (p : Path), s.groups.find? gk = some g → g.waves[wi]? = some w → w.handler = none → w.unplaced = none →
    w.live ≠ 0#32 → w.slot (savedField w 0 179 1 = 1) = some p → savedField w 0 187 1 = 0 → savedField w 0 160 8 = 0x42 →
    ∃ g' w' p', (s.resumeGroup gk).groups.find? gk = some g' ∧ g'.halted = false ∧ g'.waves[wi]? = some w' ∧
      w'.slot (savedField w 0 179 1 = 1) = some p' ∧ p'.pc.toNat = savedField w 0 0 32 ∧ p'.mode.toNat = savedField w 0 192 24 ∧ p'.mask = p.mask ∧
      (∀ j, j < 4 → Tab.get 0#32 w'.k (28 + j) = BitVec.ofNat 32 (savedField w 0 (256 + 32 * j) 32)) ∧ w'.v = w.v ∧ w'.q = w.q)

open Sys2Proof Sys2Proof.Machine Sys2Proof.Claims in
/-- Die maintenance (R395 to R400), once the wave's earlier accesses are performed. An operation on the wave's own die, but for HOMEBYP, returns 2, one that the
die's state does not accept 1, and nothing changes. LINKQ quiesces a die that is up, once no write that it found on the link is left there, or after 2,000 clk. LINKUP brings a quiesced die up; a die in reset trains, and then is up
with its firmware starting, or in reset with status 3. FLUSHD leaves the die no lease, copy or dirty line. HOMEBYP turns the bypass on, once no
lease of a line homed there is left, and with no byte elsewhere touched, or off. DIERST resets the die: state 2, its other registers cleared, no group left.
Points the manual leaves open are as log entries 73, 74 say. -/
def Obligations.DieMaintenance : Prop :=
  (∀ (i : Instr) (s : State) (c : Ctx) (d : Reg) (a b : Selector), Issues i anyType s c → Alone c →
    let x := c.s.die b.toNat
    let after := fun (u : State) (status : Word) => u = { c.s with dies := u.dies } ∧ Answers i s { c.acquire with s := u } d status
    (i ∈ [Instr.linkq d b, .linkup d b, .dierst d b, .flushd d b, .homebyp d a b] → c.settled = false → c.p.wait ∉ [Wait.engine, .front] → exec i s = .next (c.waits .fence)) ∧
    (c.settled = true → ∀ e : Ctx, e = c.acquire →
      (i ∈ [Instr.linkq d b, .linkup d b, .dierst d b, .flushd d b] → b.toNat = c.die → Answers i s e d 2#32) ∧
      (b.toNat ≠ c.die →
        (i = .linkq d b →
          let (mark, limit) := x.closing.getD (c.s.serial, c.s.clk + 2000)
          (x.link ≠ 0 → Answers i s e d 1#32) ∧
          (x.link = 0 → c.s.onLink b.toNat mark = false ∨ limit ≤ c.s.clk → ∃ u, after u 0#32 ∧ DieBecomes c.s u b.toNat { x with link := 1, closing := none }) ∧
          (x.link = 0 → c.s.onLink b.toNat mark = true → c.s.clk < limit →
            ∃ u, u = { c.s with dies := u.dies } ∧ DieBecomes c.s u b.toNat { x with closing := some (mark, limit) } ∧ exec i s = .next ({ e with s := u }.waits .engine))) ∧
        (i = .linkup d b →
          (x.link = 1 → ∃ u, after u 0#32 ∧ DieBecomes c.s u b.toNat { x with link := 0 }) ∧
          (x.link = 2 → ∃ u, u = { c.s with dies := u.dies } ∧ DieBecomes c.s u b.toNat { x with link := 3 } ∧ exec i s = .next ({ e with s := u }.waits .engine)) ∧
          (x.link = 3 → c.p.wait = .engine →
            (∃ u, u = { c.s with dies := u.dies, agenda := c.s.agenda ++ [.event (.firmwareBoot b.toNat)] } ∧
              DieBecomes c.s u b.toNat { x with link := 0 } ∧ Answers i s { e with s := u } d 0#32) ∨
            ∃ u, after u 3#32 ∧ DieBecomes c.s u b.toNat { x with link := 2 }) ∧
          (x.link ∉ [1, 2] → (x.link = 3 → c.p.wait ≠ .engine) → Answers i s e d 1#32)) ∧
        (i = .flushd d b →
          (x.link ≠ 0 ∨ c.s.userOn b.toNat = true → Answers i s e d 1#32) ∧
          (x.link = 0 → c.s.userOn b.toNat = false → ∃ u, Answers i s { e with s := u } d 0#32 ∧
            u = { c.s with mem := u.mem, groups := u.groups, lines := u.lines, leases := u.leases, guestCopies := u.guestCopies, guestDirty := u.guestDirty, unwritten := u.unwritten,
                             nearOld := u.nearOld } ∧
            (∀ line core, core < 128 → core / 24 = b.toNat → u.leases.find? (line * 128 + core) = none) ∧
            (∀ k, k / 2 ^ 56 = b.toNat → u.guestCopies.find? k = none ∧ k ∉ u.guestDirty) ∧
            (∀ k, homeDie (lineOf k) = b.toNat → u.unwritten.find? k = none) ∧
            (c.s.guestDirty = [] → ∀ place, u.byteAt place = c.s.byteAt place) ∧
            ∀ line, b.toNat ∉ (u.line line).guests ∧ ∀ o, (u.line line).owner = some o → o / 24 ≠ b.toNat)) ∧
        (i = .dierst d b → (x.link ≠ 1 → Answers i s e d 1#32) ∧ (x.link = 1 → AnswersThen i s e d 0#32 fun t => t.resetDie b.toNat))) ∧
      (i = .homebyp d a b → b = 0#8 →
        let y := c.s.die a.toNat
        (y.link ≠ 0 ∨ y.ready = false → Answers i s e d 1#32) ∧
        (y.link = 0 → y.ready = true → ∃ u, after u 0#32 ∧ DieBecomes c.s u a.toNat { y with bypass := false })) ∧
      (i = .homebyp d a b → b ≠ 0#8 →
        let y := c.s.die a.toNat
        (y.bypass = true → Answers i s e d 0#32) ∧
        (y.bypass = false → (c.s.recallHome a.toNat).homeLeased a.toNat = true → ∃ u, u = { c.s with dies := u.dies, lines := u.lines, nearOld := u.nearOld } ∧
          DieBecomes c.s u a.toNat { y with switching := true } ∧ exec i s = .next ({ e with s := u }.waits .engine)) ∧
        (y.bypass = false → (c.s.recallHome a.toNat).homeLeased a.toNat = false → ∃ u, Answers i s { e with s := u } d 0#32 ∧
          u.die a.toNat = { y with bypass := true, switching := false } ∧
          (∀ line core, line % 4 = a.toNat → core < 128 → u.leases.find? (line * 128 + core) = none) ∧
          (∀ place, lineOf place % 4 ≠ a.toNat → u.byteAt place = c.s.byteAt place) ∧
          (c.s.guestDirty = [] → ∀ place, place < 2 ^ 60 → u.byteAt place = c.s.byteAt place ∨ ∃ z, (place, z) ∈ c.s.nearOld ∧ u.byteAt place = z) ∧
          ∀ place, lineOf place % 4 = a.toNat → u.unwritten.find? place = none)))) ∧
  (∀ (s : State) (d : Nat), d < 4 →
    (s.resetDie d).die d = { link := 2, bypass := (s.die d).bypass } ∧ (∀ k, k / 384 = d → (s.resetDie d).groups.find? k = none) ∧
    (s.resetDie d).trust.measures.find? (1 + d) = none)

/-! ## Steps of the home slices and of the host port (R100 to R105, R196, R419 to R425, R430, R431) -/

namespace Sys2Proof.Claims

open Machine

/-- A step of the device that is not due: nothing has happened, and it is looked at again a clk later. -/
def LooksAgain (i : Instr) (s : State) : Prop := exec i s = .next { s with timers := s.timers ++ [(s.clk + 1, .event i)] }

/-- A step of the device that has nothing to act on. -/
def DoesNothing (i : Instr) (s : State) : Prop := exec i s = .next s

/-- From s to t, line n becomes l, and every other line stays. -/
def LineBecomes (s t : State) (n : Nat) (l : Line) : Prop := t.line n = l ∧ ∀ k, k ≠ n → t.line k = s.line k

/-- A step of the device changes line n to l, and nothing else but what is due next. -/
def OnlyLine (i : Instr) (s : State) (n : Nat) (l : Line) : Prop :=
  ∃ t, exec i s = .next t ∧ t = { s with lines := t.lines, agenda := t.agenda } ∧ LineBecomes s t n l

/-- A step takes line n from its owner, or gives it to another one: the line becomes l, and what near atomics had replaced there is forgotten. -/
def OwnerChanges (i : Instr) (s : State) (n : Nat) (l : Line) : Prop :=
  ∃ t, exec i s = .next t ∧ t = { s with lines := t.lines, nearOld := t.nearOld } ∧ LineBecomes s t n l ∧
    ∀ place, t.nearOld.find? place = if place / 128 = n then none else s.nearOld.find? place

/-- A write of a party of die d (4: no die) would perform at the line now: no cap, no lease, no owner, no guest, the controller's state is E, no tag
that holds a version commits, the way to the home is open (R420, R423, R428, R398). -/
def LineFree (s : State) (n d : Nat) : Prop :=
  let l := s.line n
  l.cap = none ∧ l.exp ≤ s.clk ∧ l.owner = none ∧ l.guests = [] ∧ l.shared = false ∧ s.committing n = false ∧ s.homeHeld n d = false

/-- Line n is one of the trunk. -/
def TrunkLine (n : Nat) : Prop := n < 2 ^ 45

/-- The byte that a list of (place, byte) pairs leaves at a place: the last one's. -/
def lastByte (bytes : List (Nat × Byte)) (place : Nat) : Option Byte := (bytes.reverse.find? fun x => x.1 == place).map (·.2)

/-- A posted write of trunk bytes of one line of the own card's GDDR that follows every write which it has to follow (R186, R421). -/
structure InTurn (s : State) (p : PostedWrite) (line : Nat) : Prop where
  known : (s.posted.find? fun x => x.id == p.id) = some p
  bytes : p.bytes ≠ [] ∧ ∀ x ∈ p.bytes, x.1 < 2 ^ 52 ∧ x.1 / 128 = line
  own : ∀ x ∈ p.bytes, ∃ off, s.reach x.1 = .gddr s.ownCard off
  plain : p.page = .plain ∧ p.back = none
  first : ∀ x ∈ s.posted.takeWhile fun x => x.id ≠ p.id, x.g = p.g → x.w = p.w → p.ordered = false ∧ x.line ≠ line
  replicas : p.ordered = true → ∀ r ∈ s.lags, r.g = p.g → r.w = p.w → p.id ≤ r.id

end Sys2Proof.Claims

open Sys2Proof Sys2Proof.Machine Sys2Proof.Claims in
/-- Writes and caps at the home (R104, R196, R420, R421, R425). A posted write behind an earlier one of its party to the line, or a release behind
any, waits. In its turn it performs when the line is free of leases, owner, guests, caps and of requests before it: its bytes stand in memory, no other byte
has changed, and it is posted no more; otherwise memory stays and it comes again. In a region under software management a die's write goes to its own
copy. WBL and DROPL write back: what the home's cache holds of the line goes to memory, and DROPL drops the die's copy. The cap at the head of a free line's queue holds the line, from then on for its duration; at its end it expires and the line is released.
Points the manual leaves open are as log entries 24, 27, 33 say. -/
def Obligations.HomeWrites : Prop :=
  ∀ (s : State),
    (∀ (p : PostedWrite) (line : Nat), (s.posted.find? fun x => x.id == p.id) = some p → p.bytes ≠ [] → p.back = none → (∀ x ∈ p.bytes, x.1 / 128 = line) →
      (∃ x ∈ s.posted.takeWhile fun x => x.id ≠ p.id, x.g = p.g ∧ x.w = p.w ∧
        (p.ordered = true ∨ (x.back = none ∧ x.bytes ≠ [] ∧ ∀ b ∈ x.bytes, b.1 / 128 = line) ∨ ∃ drop, x.back = some (line, drop))) →
      LooksAgain (.homeWrite p.id) s) ∧
    (∀ (p : PostedWrite) (line : Nat), InTurn s p line → s.softLine line = false →
      (LineFree s line (partyDie p.g) → s.queueOf line = [] ∨ (s.queueOf line).head? = some (.write p.id) → (p.g = hostParty → s.guestDirty = []) →
        ∃ t, exec (.homeWrite p.id) s = .next t ∧ (∀ x ∈ t.posted, x.id ≠ p.id) ∧ (∀ x ∈ s.posted, x.id ≠ p.id → x ∈ t.posted) ∧
          ∀ place, place < 2 ^ 60 → t.byteAt place = (lastByte p.bytes place).getD (s.byteAt place)) ∧
      (s.clk < (s.line line).exp ∨ (s.line line).owner ≠ none ∨ (s.line line).guests ≠ [] ∨ (s.line line).shared = true →
        ∃ t, exec (.homeWrite p.id) s = .next t ∧ t.mem = s.mem ∧ t.posted = s.posted ∧ (s.clk + 1, .event (.homeWrite p.id)) ∈ t.timers)) ∧
    (∀ (p : PostedWrite) (line : Nat), InTurn s p line → s.softLine line = true → partyDie p.g < 4 → line % 4 ≠ partyDie p.g →
      ∃ t, exec (.homeWrite p.id) s = .next t ∧ t.mem = s.mem ∧ (∀ x ∈ t.posted, x.id ≠ p.id) ∧
        ∀ place b, lastByte p.bytes place = some b →
          t.guestCopies.find? (partyDie p.g * 2 ^ 56 + place) = some b.toNat ∧ (partyDie p.g * 2 ^ 56 + place) ∈ t.guestDirty) ∧
    (∀ (p : PostedWrite) (line : Nat) (drop : Bool), (s.posted.find? fun x => x.id == p.id) = some p → p.bytes = [] → p.back = some (line, drop) → TrunkLine line →
      (∃ off, s.reach (line * 128) = .gddr s.ownCard off) → p.ordered = false → (∀ x ∈ s.posted.takeWhile fun x => x.id ≠ p.id, x.g = p.g → x.w = p.w → x.line ≠ line) →
      (∀ place, place / 128 = line → (partyDie p.g * 2 ^ 56 + place) ∉ s.guestDirty) →
      ∃ t, exec (.homeWrite p.id) s = .next t ∧ t.mem = s.mem ∧ (∀ x ∈ t.posted, x.id ≠ p.id) ∧ (∀ place, place / 128 = line → t.unwritten.find? place = none) ∧
        ∀ place, place / 128 = line → t.guestCopies.find? (partyDie p.g * 2 ^ 56 + place) =
          if drop then none else s.guestCopies.find? (partyDie p.g * 2 ^ 56 + place)) ∧
    (∀ (line g w duration : Nat) (rest : List Request), TrunkLine line → s.queueOf line = .cap g w duration :: rest →
      (LineFree s line (partyDie g) → ∃ t, exec (.capHeld line) s = .next t ∧ t.mem = s.mem ∧ Comes t (.capExpiry line) ∧
        LineBecomes s t line { s.line line with cap := some ⟨g, w, s.clk + duration⟩, waiting := rest } ∧
        ∀ x y va, s.groups.find? g = some x → x.waves[w]? = some y → y.cap0 = .asked va line →
          ∃ x' y', t.groups.find? g = some x' ∧ x'.waves[w]? = some y' ∧ y'.cap0 = .held va line) ∧
      ((s.line line).cap ≠ none ∨ s.clk < (s.line line).exp ∨ (s.line line).owner ≠ none → ∃ t, exec (.capHeld line) s = .next t ∧
        t = { s with agenda := t.agenda, timers := t.timers } ∧ (s.clk + 1, .event (.capHeld line)) ∈ t.timers)) ∧
    (∀ (line : Nat) (h : CapHold), (s.line line).cap = some h →
      (s.clk < h.ends → LooksAgain (.capExpiry line) s) ∧
      (h.ends ≤ s.clk → ∃ t, exec (.capExpiry line) s = .next t ∧ t = { s with lines := t.lines, groups := t.groups, agenda := t.agenda } ∧
        LineBecomes s t line { s.line line with cap := none } ∧
        ∀ x y va, s.groups.find? h.g = some x → x.waves[h.w]? = some y → y.cap0 = .held va line →
          ∃ x' y', t.groups.find? h.g = some x' ∧ x'.waves[h.w]? = some y' ∧ y'.cap0 = .expired va))

open Sys2Proof Sys2Proof.Machine Sys2Proof.Claims in
/-- Leases, guests, owners, heat and replicas (R100, R102, R103, R420, R422). A core gets a lease of a line that no other core owns and no request waits for: its
expiry is the counter plus the class of the line's heat, 64 clk while the trunk line has versions; an owned line's owner is asked back. A lease that has run out is dropped, one that has
not is kept. A die becomes a guest, and goes once its latest lease has run out. A core owns a free line of heat below 2. The owner's recall leaves none. Heat falls by one when 4,096 clk have
passed. A die's replica takes a write once the die's leases have run out and older writes of its bytes have reached it, one die at a time.
Points the manual leaves open are as log entries 23, 26, 27 say. -/
def Obligations.LeaseSteps : Prop :=
  ∀ (s : State) (line : Nat), TrunkLine line →
    let l := s.line line
    (∀ core, core < 96 → s.lineClass line = .plain → s.bypassed line = false → s.softLine line = false → s.leased line core = false → l.cap = none → s.committing line = false →
      s.homeHeld line (core / 24) = false →
      (l.owner = none ∨ l.owner = some core → s.queueOf line = [] → ∃ t, exec (.leaseReadRequest core line) s = .next t ∧
        t = { s with lines := t.lines, leases := t.leases } ∧ s.clk < Tab.get 0 t.leases (line * 128 + core) ∧
        Tab.get 0 t.leases (line * 128 + core) = s.clk + (if s.hasVersions line then 64 else match l.heat with | 0 => 4096 | 1 => 1024 | 2 => 256 | _ => 64) ∧
        (∀ k, k ≠ line * 128 + core → t.leases.find? k = s.leases.find? k) ∧
        (line % 4 ≠ core / 24 → s.hasVersions line = false → core / 24 ∈ (t.line line).guests) ∧
        (line % 4 = core / 24 → Tab.get 0 t.leases (line * 128 + core) ≤ (t.line line).exp)) ∧
      (∀ o, l.owner = some o → o ≠ core → ∃ t, exec (.leaseReadRequest core line) s = .next t ∧ t = { s with agenda := t.agenda } ∧ Comes t (.ownershipRecall line))) ∧
    (∀ core, core < 128 →
      (s.leased line core = true → DoesNothing (.leaseExpiry core line) s) ∧
      (s.leased line core = false → ∃ t, exec (.leaseExpiry core line) s = .next t ∧ t = { s with leases := t.leases } ∧ t.leases.find? (line * 128 + core) = none ∧
        ∀ k, k ≠ line * 128 + core → t.leases.find? k = s.leases.find? k)) ∧
    (∀ die, die < 4 → line % 4 ≠ die → s.bypassed line = false → s.lineClass line = .plain → s.hasVersions line = false → l.cap = none → l.owner = none → s.queueOf line = [] →
      s.committing line = false → s.homeHeld line die = false → ∃ t, exec (.guestReadRequest die line) s = .next t ∧ t = { s with lines := t.lines } ∧
        LineBecomes s t line { l with guests := (t.line line).guests } ∧ ∀ k, k ∈ (t.line line).guests ↔ k = die ∨ k ∈ l.guests) ∧
    (∀ die, die ∈ l.guests →
      ((∃ core, core / 24 = die ∧ s.leased line core = true) → LooksAgain (.guestInvalidate die line) s) ∧
      ((∀ core, core / 24 = die → s.leased line core = false) → OnlyLine (.guestInvalidate die line) s line { l with guests := l.guests.erase die })) ∧
    (∀ core, l.heat < 2 → s.bypassed line = false → LineFree s line 4 → s.queueOf line = [] → OwnerChanges (.nearAtomicGrant core line) s line { l with owner := some core }) ∧
    OwnerChanges (.ownershipRecall line) s line { l with owner := none } ∧
    (0 < l.heat →
      (s.clk < l.heatAt + 4096 → LooksAgain (.heatDecay line) s) ∧
      (l.heatAt + 4096 ≤ s.clk → OnlyLine (.heatDecay line) s line { l with heat := l.heat - 1, heatAt := l.heatAt + 4096 })) ∧
    (∀ (r : ReplicaLag), (s.lags.find? fun x => x.id == r.id) = some r → r.place / 128 = line →
      ((∃ core, core / 24 = r.die ∧ s.leased line core = true) → LooksAgain (.replicaUpdate r.id r.die) s) ∧
      ((∃ x y, x ∈ s.lags.takeWhile (fun x => x.id ≠ r.id) ∧ y ∈ s.lags ∧ x.die = r.die ∧ y.id = r.id ∧ y.die = r.die ∧ y.place = x.place) →
        LooksAgain (.replicaUpdate r.id r.die) s) ∧
      ((∀ core, core / 24 = r.die → s.leased line core = false) → s.lagBehind r.id r.die = false → ∃ t, exec (.replicaUpdate r.id r.die) s = .next t ∧
        t = { s with lags := t.lags, launches := t.launches, groups := t.groups, contexts := t.contexts, agenda := t.agenda } ∧
        (s.groups.find? r.g = none → t = { s with lags := t.lags }) ∧ ∀ x, x ∈ t.lags ↔ x ∈ s.lags ∧ ¬(x.id = r.id ∧ x.die = r.die)) ∧
      ∀ x ∈ s.lags, x.id = r.id → x.die ≠ r.die → LooksAgain (.replicaUpdate r.id x.die) s)

open Sys2Proof Sys2Proof.Machine Sys2Proof.Claims in
/-- Other cards and the host (R423, R424, R430, R431). The own card's request for E leaves a line with no other holder, once no port to one of them retrains. A request of
another agent takes a line that is quiet: its bytes are then that agent's, no lease of it is left, and no byte elsewhere has changed; a line that is not quiet stays, and what
holds it is asked to go. SNPDATA leaves the line shared and replies its bytes, SNPCUR replies them; a cap on the line makes both wait. The host's read replies the bytes of memory, its write replaces them
where every line is free, and only them, and is posted where one is not; an access of the host over CXL leaves it a holder of the lines.
Points the manual leaves open are as log entries 37, 88 say. -/
def Obligations.OutsideAccesses : Prop :=
  ∀ (s : State) (line : Nat), TrunkLine line →
    let l := s.line line
    let bytes := (List.range 128).map fun i => s.byteAt (line * 128 + i)
    let taken := fun (i : Instr) (x : Line) =>
      (l.cap = none → l.owner = none → l.guests = [] → l.exp ≤ s.clk → ∃ t, exec i s = .next t ∧ LineBecomes s t line x ∧
        (∀ place, place / 128 ≠ line → t.byteAt place = s.byteAt place) ∧ (∀ core, core < 128 → t.leases.find? (line * 128 + core) = none) ∧
        t = { s with lines := t.lines, mem := t.mem, leases := t.leases, free := s.free + 1 }) ∧
      (l.cap ≠ none ∨ l.owner ≠ none ∨ l.guests ≠ [] ∨ s.clk < l.exp → ∃ t, exec i s = .next t ∧ t = { s with agenda := t.agenda, timers := t.timers } ∧
        (l.owner ≠ none → Comes t (.ownershipRecall line)) ∧ ∀ d ∈ l.guests, Comes t (.guestInvalidate d line))
    ((∀ c ∈ l.cards, c ≠ s.ownCard → s.peer c ≠ .retraining) → OnlyLine (.exclusiveRequest s.ownCard line) s line { l with shared := false, cards := [], host := false }) ∧
    ((∃ c ∈ l.cards, c ≠ s.ownCard ∧ s.peer c = .retraining) → LooksAgain (.exclusiveRequest s.ownCard line) s) ∧
    (∀ card, card ≠ s.ownCard → taken (.exclusiveRequest card line) { l with shared := true, cards := [card] }) ∧
    (∀ card, taken (.cardInvalidate card line) { l with cards := l.cards.erase card }) ∧
    taken (.snpinv line) { l with shared := false, host := false } ∧
    (l.exp ≤ s.clk → l.owner = none → l.cap = none → ∃ t, exec (.snpdata line) s = .next t ∧ t.hostReply = bytes ∧ t.mem = s.mem ∧ LineBecomes s t line { l with shared := true, host := true } ∧
      ∀ i, i < 128 → t.unwritten.find? (line * 128 + i) = none) ∧
    (s.clk < l.exp ∨ l.owner ≠ none ∨ l.cap ≠ none → ∃ t, exec (.snpdata line) s = .next t ∧ t = { s with agenda := t.agenda, timers := t.timers } ∧ (s.clk + 1, .snoop false line) ∈ t.timers) ∧
    (l.cap = none → exec (.snpcur line) s = .next { s with hostReply := bytes }) ∧
    (l.cap ≠ none → exec (.snpcur line) s = .next { s with timers := s.timers ++ [(s.clk + 1, .snoop true line)] }) ∧
    (∀ addr n, n ≤ 64 → addr + n ≤ Config.cardBytes →
      let pa := s.ownCard * 2 ^ 41 + addr
      let mine := fun (k : Nat) => pa / 128 ≤ k ∧ 128 * k < pa + n
      ((∀ k, mine k → (s.line k).cap = none ∧ s.committing k = false ∧ s.homeHeld k 4 = false ∧ s.queueOf k = []) → (∀ p ∈ s.posted, p.g ≠ hostParty) → ∀ value,
        (∃ t, exec (.hostBar2Read addr n) s = .next t ∧ t = { s with lines := t.lines, nearOld := t.nearOld, hostReply := (List.range n).map fun i => s.byteAt (pa + i) } ∧
          ∀ k, t.line k = if mine k then { s.line k with owner := none } else s.line k) ∧
        ∃ t, exec (.cxlMemAccess false addr n value) s = .next t ∧ t = { s with lines := t.lines, nearOld := t.nearOld, hostReply := (List.range n).map fun i => s.byteAt (pa + i) } ∧
          ∀ k, t.line k = if mine k then { s.line k with owner := none, shared := true, host := true } else s.line k) ∧
      ((∀ k, mine k → LineFree s k 4 ∧ s.queueOf k = []) → (∀ p ∈ s.posted, p.g ≠ hostParty) → s.guestDirty = [] → ∀ value : BitVec 512, ∀ i ∈ [Instr.hostBar2Write addr n value, .cxlMemAccess true addr n value], ∃ t, exec i s = .next t ∧
        (∀ place, place < 2 ^ 60 → t.byteAt place = if pa ≤ place ∧ place < pa + n then value.extractLsb' (8 * (place - pa)) 8 else s.byteAt place) ∧
        ∀ k, mine k → (t.line k).host = ((s.line k).host || i matches .cxlMemAccess _ _ _ _)) ∧
      ((∃ k, mine k ∧ (s.clk < (s.line k).exp ∨ (s.line k).owner ≠ none ∨ (s.line k).guests ≠ []) ∧ s.softLine k = false) → ∀ value : BitVec 512,
        ∃ (t : State) (new : List PostedWrite), exec (.hostBar2Write addr n value) s = .next t ∧
          t = { s with posted := s.posted ++ new, serial := t.serial, agenda := t.agenda } ∧ (∀ p ∈ new, p.g = hostParty ∧ p.ordered = true) ∧
          ∀ k, k < n → ∃ p ∈ new, (pa + k, value.extractLsb' (8 * k) 8) ∈ p.bytes))

/-! ## Fills, fault service, coherence regions, ends of results (R136, R148, R343, R363, R413 to R418, R425) -/

namespace Sys2Proof.Claims

open Machine

/-- No write of the front end and no node of a run waits for a page. -/
def NoneWaits (s : State) : Prop :=
  s.frontWrites = [] ∧ ∀ k (r : Run), (k, r) ∈ s.runs → ∀ n ∈ r.nodes, n.ready = true → n.launched = true ∨ n.done = true

/-- The fault entry with a number. -/
def faultOf (s : State) (id : Nat) : Option FaultEntry := s.faults.find? fun e => e.id == id

end Sys2Proof.Claims

open Sys2Proof Sys2Proof.Machine Sys2Proof.Claims in
/-- Walks, fills and the end of a fault's service (R136, R148, R363, R413, R414, R416 to R418, R425, R441). A walk that ends in a translation keeps it, one that ends in a fault keeps nothing. A fill
records the first name of its page, and a redirect keeps that name's translation. The end of a service takes the entry away; a failed one gives its result to each party, to
a path with the address at which it waits. The firmware fails an entry without a translation or a backing with result 1, one of a retired page with result 3; a page that
it has copied from host memory becomes resident, and its fault is resolved. An NVMe command that fails, or takes 1 s, fails its fault with result 2; after another one the firmware goes on. A region switch is taken while none runs; at its point, once no lease of another die's
copy runs, dirty bytes are written back in die order, no other byte changes but in a line under software management that another card holds, and the mode is the one asked for. A result is written back: its registers are free. A path that
sleeps looks at the counter.
A point the manual leaves open is as log entry 36 says. -/
def Obligations.FaultSteps : Prop :=
  ∀ (s : State),
    (∀ (die asid va : Nat), canonical va = true → va / 2 ^ 56 % 2 = 0 →
      (∀ n l b, s.translate asid va = .fault n l b → ∀ i ∈ [Instr.pageWalk asid va, .fillRequest die asid va, .fillRedirect die asid va], DoesNothing i s) ∧
      (∀ tr, s.translate asid va = .ok tr →
        let page := tr.pa va / 4096
        let keeps := fun (t : State) => t = { s with tlb := t.tlb, remap := t.remap } ∧ t.tlb.find? (asid * 2 ^ 45 + va / 4096) = some tr ∧
          ∀ k, k ≠ asid * 2 ^ 45 + va / 4096 → t.tlb.find? k = s.tlb.find? k
        (∃ t, exec (.pageWalk asid va) s = .next t ∧ keeps t ∧ t.remap = s.remap) ∧
        (∃ t, exec (.fillRequest die asid va) s = .next t ∧ keeps t ∧ (t.remap.find? page = some ((s.remap.find? page).getD ⟨asid, va / 4096⟩)) ∧
          ∀ k, k ≠ page → t.remap.find? k = s.remap.find? k) ∧
        (s.remap.find? page = none → DoesNothing (.fillRedirect die asid va) s) ∧
        (∀ x tx, s.remap.find? page = some x → s.translate x.asid (x.vpn * 4096) = .ok tx → ∃ t, exec (.fillRedirect die asid va) s = .next t ∧
          t = { s with tlb := t.tlb } ∧ t.tlb.find? (x.asid * 2 ^ 45 + x.vpn) = some tx))) ∧
    (∀ (id : Nat) (e : FaultEntry), faultOf s id = some e →
      (NoneWaits s → exec (.faultResolved id) s = .next { s with faults := s.faults.filter fun x => x.id ≠ id }) ∧
      (NoneWaits s → ∀ result, ∃ t, exec (.faultFailed id result) s = .next t ∧
        t = { s with faults := s.faults.filter fun x => x.id ≠ id, faultResults := t.faultResults, refused := t.refused } ∧
        (∀ g wi b, .path g wi b ∈ e.waiters →
          ⟨g, wi, b, result, ((e.addrs.find? fun x => x.1 == .path g wi b).map (·.2)).getD e.va⟩ ∈ t.faultResults) ∧
        (∀ w ∈ e.waiters, (∀ g wi b, w ≠ .path g wi b) → w ≠ .record → ⟨w, e.asid, e.va / 2 ^ e.bits, e.bits, result⟩ ∈ t.refused) ∧
        (∀ x ∈ s.faultResults, x ∈ t.faultResults) ∧ ∀ x ∈ s.refused, x ∈ t.refused) ∧
      ((s.die e.die).ready = true → (s.die e.die).failed = false → (s.die e.die).link < 2 →
        (e.service = .queued → let retired := ∃ x ∈ s.health.retiredPages, x.1 = e.asid ∧ x.2 * 4096 / 2 ^ e.bits = e.va / 2 ^ e.bits
          (∀ tr, s.walk e.asid e.va ≠ .ok tr) →
          (e.type = 1 ∨ (¬retired ∧ ∀ b, s.backing e = some b → s.physNat b 1 % 4 = 0 ∨ s.physNat b 1 % 4 = 3) →
            (s.serveFault id).agenda = s.agenda ++ [.event (.faultFailed id 1)]) ∧
          (e.type = 2 → retired → (s.serveFault id).agenda = s.agenda ++ [.event (.faultFailed id 3)])) ∧
        (∀ frame b, e.service = .host frame → s.backing e = some b → Memory.wf s.mem = true → frame % 2 ^ e.bits = 0 → frame + 2 ^ e.bits ≤ 2 ^ 51 →
          12 ≤ e.bits → e.bits ≠ 16 → e.leaf % 8 = 0 → e.leaf + 8 ≤ 2 ^ 52 → (e.leaf + 8 ≤ frame ∨ frame + 2 ^ e.bits ≤ e.leaf) →
          let src := 2 ^ 51 + s.physNat (b + 8) 8
          let x := s.physNat e.leaf 8
          let t := s.serveFault id
          src + 2 ^ e.bits ≤ 2 ^ 52 → x / 2 ^ 5 % 2 = 0 →
          t.agenda = s.agenda ++ [.event (.faultResolved id)] ∧ t.faults = s.faults ∧
            t.physNat e.leaf 8 = x - x / 2 ^ 12 % 2 ^ 40 * 2 ^ 12 + frame / 4096 * 4096 + 2 ^ 5 ∧
            (∀ i, i < 2 ^ e.bits → t.byteAt (frame + i) = s.byteAt (src + i)) ∧
            ∀ place, ¬(frame ≤ place ∧ place < frame + 2 ^ e.bits) → ¬(e.leaf ≤ place ∧ place < e.leaf + 8) → t.byteAt place = s.byteAt place)) ∧
      ((∀ frame done x, e.service ≠ .nvme frame done (some x)) → (∀ status, DoesNothing (.nvmeCompletion id status) s) ∧ DoesNothing (.nvmeTimeout id) s) ∧
      (∀ frame done x, e.service = .nvme frame done (some x) →
        (∀ status, status ≠ 0 → exec (.nvmeCompletion id status) s = .next { s with agenda := s.agenda ++ [.event (.faultFailed id 2)] }) ∧
        (∃ t, exec (.nvmeCompletion id 0) s = .next t ∧ t = { s with faults := t.faults, dies := t.dies, timers := s.timers ++ [(s.clk + 1, .service id)] } ∧
          faultOf t id = some { e with service := .nvme frame (done + min 131072 (2 ^ e.bits - done)) none } ∧
          DieBecomes s t e.die { s.die e.die with event := true }) ∧
        (x ≤ s.clk → exec (.nvmeTimeout id) s = .next { s with agenda := s.agenda ++ [.event (.faultFailed id 2)] }) ∧
        (s.clk < x → DoesNothing (.nvmeTimeout id) s))) ∧
    (∀ (id : Nat), faultOf s id = none → DoesNothing (.faultResolved id) s ∧ DoesNothing (.faultFailed id 1) s) ∧
    (∀ (value : BitVec 64),
      (s.window.region ≠ none ∨ value.getLsbD 0 = false → DoesNothing (.regionCmd value) s) ∧
      (s.window.region = none → value.getLsbD 0 = true → exec (.regionCmd value) s = .next
        { s with window := { s.window with region := some (value.toNat / 2 ^ 21 % 2 ^ 20, value.getLsbD 1) },
                 agenda := s.agenda ++ [.event .regionSwitchPoint] })) ∧
    (s.window.region = none → DoesNothing .regionSwitchPoint s) ∧
    (∀ r soft, s.window.region = some (r, soft) →
      let region := s.ownCard * 2 ^ 20 + r
      let within := fun (place : Nat) => place < 2 ^ 52 ∧ place / 2 ^ 21 = region
      let away := fun (place : Nat) => region ∈ s.softRegions ∧ ∃ x, (place / 128, x) ∈ s.lines ∧ x.cards ≠ []
      let leased := ∃ k e, (k, e) ∈ s.leases ∧ s.clk < e ∧ within (k / 128 * 128) ∧ k % 128 / 24 ≠ k / 128 % 4
      (leased → LooksAgain .regionSwitchPoint s) ∧
      (¬leased → ∃ t, exec .regionSwitchPoint s = .next t ∧ t.window = { s.window with region := none } ∧ t.agenda = s.agenda ∧ t.groups = s.groups ∧
        (∀ x, x ∈ t.softRegions ↔ (x = region ∧ soft = true) ∨ (x ∈ s.softRegions ∧ x ≠ region)) ∧
        (Tab.wf ({} : Line) s.lines = true → ∀ n, t.line n = if within (n * 128) then { s.line n with guests := [], cards := [], shared := (s.line n).host } else s.line n) ∧
        (∀ place, (¬within place ∨ (¬away place ∧ ∀ d, d < 4 → d * 2 ^ 56 + place ∉ s.guestDirty)) → t.byteAt place = s.byteAt place) ∧
        (∀ d place, d < 4 → within place → ¬away place → d * 2 ^ 56 + place ∈ s.guestDirty → (∀ d', d < d' → d' < 4 → d' * 2 ^ 56 + place ∉ s.guestDirty) →
          t.byteAt place = BitVec.ofNat 8 (Tab.get 0 s.guestCopies (d * 2 ^ 56 + place))) ∧
        ∀ d place, d < 4 → within place → t.guestCopies.find? (d * 2 ^ 56 + place) = none)) ∧
    (∀ (gk wi n : Nat) (g : Group) (w : Wave), s.groups.find? gk = some g → g.waves[wi]? = some w →
      ∃ t, exec (.resultWriteback gk wi n) s = .next t ∧ Performed s t gk wi g { w with scoreboard := w.scoreboard.filter fun x => x.id ≠ n }) ∧
    (∀ (gk wi : Nat) (slotB : Bool) (w : Wave) (p : Path), waveOf s gk wi = some w → w.slot slotB = some p →
      (p.wait = .sleep → exec (.sleepEnd gk wi slotB) s = .next { s with agenda := .issue gk wi slotB :: s.agenda }) ∧
      (p.wait ≠ .sleep → DoesNothing (.sleepEnd gk wi slotB) s))

/-! ## Queues and their packets (R330 to R338, R344, R345, R444, R445) -/

namespace Sys2Proof.Claims

open Machine

/-- From s to t the page of queue q becomes x, and every other queue's stays. -/
def QueueBecomes (s t : State) (q : Nat) (x : Queue) : Prop := t.queue q = x ∧ ∀ k, k ≠ q → t.queue k = s.queue k

/-- An entry of the error log of queue q, bound to context ctx (R337, R361): 32 bytes at the end of the log; it is counted, and the context's host interrupt is raised. -/
def logBytes (first type code sub addr clk : Nat) : List Byte :=
  natBytes 4 first ++ natBytes 1 type ++ natBytes 1 code ++ natBytes 2 sub ++ natBytes 8 addr ++ natBytes 8 clk ++ natBytes 8 0

/-- A step of a queue has logged an entry and done nothing else but what the entry's write and interrupt take: memory stands, the count is one up. -/
def Logs (i : Instr) (s : State) (q first type code sub addr : Nat) : Prop :=
  ∃ t, exec i s = .next t ∧ t = s.logError q first type code sub addr ∧ t.mem = s.mem ∧
    ((s.queue q).ctx ≠ 0 → (t.queue q).errlogCount = (s.queue q).errlogCount + 1#32 ∧
      (t.context (s.queue q).ctx).interrupts ≥ (s.context (s.queue q).ctx).interrupts + 1) ∧
    ((s.queue q).ctx = 0 → t = s)

/-- The slot of queue q that stands at its head has been read, and its packet is one of a type and a length (R334, R336). -/
def Fetched (s : State) (q : Nat) (slot : BitVec 2048) (type : Nat) (lengths : List Nat) : Prop :=
  (s.queue q).fetched = some slot ∧ slotType slot = type ∧ (lengths = [] ∨ slotLength slot ∈ lengths)

/-- Step i has dispatched the packet at the head of queue q: `head` has moved on, the slot is read no more, memory stands; and what holds besides. -/
def Dispatches (i : Instr) (s : State) (q : Nat) (also : State → Prop) : Prop :=
  ∃ t, exec i s = .next t ∧ (t.queue q).head = (s.queue q).head + 1#32 ∧ (t.queue q).fetched = none ∧ t.mem = s.mem ∧ also t

/-- Step i has rejected the packet at the head of queue q (R337): it counts as dispatched, and the log has its entry. -/
def Rejects (i : Instr) (s : State) (q : Nat) : Prop :=
  Dispatches i s q fun t => (s.queue q).ctx ≠ 0 → (t.queue q).errlogCount = (s.queue q).errlogCount + 1#32

/-- The packets of queue q that are under way, and one more with the number that the dispatch gives it. -/
def UnderWay (s t : State) (q : Nat) (p : Pending) : Prop := (t.queue q).pending = (s.queue q).pending ++ [(s.serial + 1, p)]

end Sys2Proof.Claims

open Sys2Proof Sys2Proof.Machine Sys2Proof.Claims in
/-- A queue's registers and slots (R330 to R335, R337, R338). A doorbell of a disabled queue, or beyond the ring, is logged with code 12 and leaves the queue; else `tail` takes the value. Enabling clears `head`,
`tail`, the log's count and the deficit; disabling clears `enable`, and both abandon the WAITs. An inline packet of another type or length is logged with code 2, into a disabled or a full ring with code 12; one behind posted writes of the host is posted behind them; else it
stands in slot `tail`, which moves on. The slot at `head` is looked at again while its lap byte is the other lap's, waits for earlier packets when it is serial, and else is read, or rejected with the code of its
first fault.
Points the manual leaves open are as log entries 75, 76 say. -/
def Obligations.QueueSteps : Prop :=
  ∀ (s : State) (q : Nat),
    let x := s.queue q
    let noWait := fun (l : List (Nat × Pending)) => l.filter fun p => match p.2 with | .wait _ _ _ => false | _ => true
    (∀ value : BitVec 32,
      (x.enable = false → Logs (.tailWrite q value) s q value.toNat 0 12 1 0) ∧
      (x.enable = true → 2 ^ x.logSlots < (value - x.head).toNat → Logs (.tailWrite q value) s q value.toNat 0 12 0 0) ∧
      (x.enable = true → (value - x.head).toNat ≤ 2 ^ x.logSlots → ∃ t, exec (.tailWrite q value) s = .next t ∧ t.mem = s.mem ∧
        QueueBecomes s t q { x with tail := value, tails := x.tails ++ [(value, s.clk)] } ∧ (value ≠ x.head → Comes t (.trailerRead q)))) ∧
    (∃ t, exec (.queueEnable q) s = .next t ∧ t = { s with queues := t.queues } ∧
      QueueBecomes s t q { x with enable := true, head := 0#32, tail := 0#32, errlogCount := 0#32, deficit := 0, tails := [], fetched := none, pending := noWait x.pending }) ∧
    (∃ t, exec (.queueDisable q) s = .next t ∧ t = { s with queues := t.queues } ∧
      QueueBecomes s t q { x with enable := false, fetched := none, pending := noWait x.pending }) ∧
    (∀ slot : BitVec 512, s.hostWaits = true → ∃ (t : State) (new : List PostedWrite), exec (.launchRegister q slot) s = .next t ∧
      t = { s with posted := s.posted ++ new, serial := t.serial, agenda := t.agenda } ∧ ∀ p ∈ new, p.g = hostParty ∧ p.ordered = true) ∧
    (∀ slot : BitVec 512, s.hostWaits = false →
      let type := slot.toNat / 2 ^ 496 % 2 ^ 8
      let length := slot.toNat / 2 ^ 480 % 2 ^ 8
      let i := Instr.launchRegister q slot
      (type ≠ 2 ∨ length ≠ 4 → Logs i s q x.tail.toNat type 2 0 0) ∧
      (type = 2 → length = 4 → x.enable = false → Logs i s q x.tail.toNat type 12 1 0) ∧
      (type = 2 → length = 4 → x.enable = true → 2 ^ x.logSlots ≤ (x.tail - x.head).toNat → Logs i s q x.tail.toNat type 12 2 0) ∧
      (type = 2 → length = 4 → x.enable = true → (x.tail - x.head).toNat < 2 ^ x.logSlots → ∀ tr,
        let va := (x.ringBase.toNat + 256 * (x.tail.toNat % 2 ^ x.logSlots)) % 2 ^ 64
        va / 2 ^ 56 = 0 → s.fill x.ctx va 12 = .ok tr → tr.write = true →
        ∃ t, exec i s = .next t ∧ t.mem = s.mem ∧ QueueBecomes s t q { x with tail := x.tail + 1#32, tails := x.tails ++ [(x.tail + 1#32, s.clk)] } ∧
          ∀ b ∈ placed (s.physPlace (tr.pa va)) (natBytes 60 slot.toNat) ++ placed (s.physPlace (tr.pa va + 252))
            (natBytes 4 (slot.toNat / 2 ^ 480 % 2 ^ 24 + 2 ^ 24 * (if x.tail.toNat / 2 ^ x.logSlots % 2 = 0 then 0x5A else 0xA5))),
            ∃ p ∈ t.posted, s.serial < p.id ∧ b ∈ p.bytes)) ∧
    (x.enable = false ∨ x.tail = x.head ∨ x.fetched ≠ none → DoesNothing (.trailerRead q) s) ∧
    (x.enable = true → x.tail ≠ x.head → x.fetched = none → ∀ tr,
      let va := (x.ringBase.toNat + 256 * (x.head.toNat % 2 ^ x.logSlots)) % 2 ^ 64
      let b := fun (i : Nat) => s.waveByte 0 frontParty 0 (memPlace 0 (tr.pa va + i))
      let slot := BitVec.ofNat 2048 (bytesNat ((List.range 256).map b))
      va % 256 = 0 → tr.pa va % 256 = 0 → 12 ≤ tr.bits → va / 2 ^ 56 = 0 → (∀ i, i < 256 → s.fill x.ctx (va + i) 12 = .ok tr) → tr.read = true →
      s.lineHeld (tr.pa va / 128) = false → s.lineHeld (tr.pa va / 128 + 1) = false →
      let lap := (b 255).toNat
      (lap ≠ (if x.head.toNat / 2 ^ x.logSlots % 2 = 0 then 0x5A else 0xA5) →
        exec (.trailerRead q) s = .next { s with timers := s.timers ++ [(s.clk + 256, .event (.trailerRead q))] }) ∧
      (lap = (if x.head.toNat / 2 ^ x.logSlots % 2 = 0 then 0x5A else 0xA5) →
        (slot.toNat / 2 ^ 2028 % 2 ^ 4 = 0 → x.pending ≠ [] → LooksAgain (.trailerRead q) s) ∧
        (slot.toNat / 2 ^ 2028 % 2 ^ 4 ≠ 0 ∨ x.pending = [] →
          ((slotType slot = 5 ∨ 12 < slotType slot ∨ slotType slot = 0 ∨ 1 < slotOrder slot ∨ 9 < slotFence slot) → Rejects (.trailerRead q) s q) ∧
          (slotFault slot = none → ∃ t, exec (.trailerRead q) s = .next t ∧ t.mem = s.mem ∧ QueueBecomes s t q { x with fetched := some slot } ∧
            t.agenda = s.agenda ++ [.event (packetStep q (slotType slot) (slotLength slot))]))))

open Sys2Proof Sys2Proof.Machine Sys2Proof.Claims in
/-- Packets that act on memory, accounts and tensors (R227, R232, R240, R335, R336, R337, R444, R445). A packet with a field out of range, or at an address that cannot be reached, is rejected; else it is dispatched.
NOP completes at once. SIGNAL posts its value as a release, COMMIT the status of FCOMMIT; both complete when the queue's writes are performed. WAIT polls every 256 clk until its condition holds. COPY posts part
after part of its bytes and completes when all are written. ACCOUNT_OPEN opens an account, up to 16, charged the clk since its doorbell; ACCOUNT_CLOSE ends it, writes its record as a release and completes
when that is performed. TENSOR_DEF loads a legal record.
Points the manual leaves open are as log entries 22, 75, 76, 77 say. -/
def Obligations.PacketSteps : Prop :=
  ∀ (s : State) (q : Nat),
    let x := s.queue q
    let field := fun (slot : BitVec 2048) byte n => slotField slot byte n
    let reaches := fun (va : Nat) (tr : Translation) => s.frontAccess (.packet q) x.ctx va 2 false true = .ok tr (tr.pa va) ∧ s.bar0Offset (tr.pa va) = none
    let fails := fun (va : Nat) => ∃ cause, s.frontAccess (.packet q) x.ctx va 2 false true = .fails cause
    let posts := fun (t : State) (tr : Translation) (va : Nat) (bytes : List Byte) (release : Bool) (irq : Option Nat) =>
      ∃ p ∈ t.posted, s.serial < p.id ∧ p.g = frontParty ∧ p.w = 1 + q ∧ p.ordered = release ∧ p.irq = irq ∧ p.bytes = placed (s.physPlace (tr.pa va)) bytes
    (∀ slot, Fetched s q slot 0x01 [] → Dispatches (.nopPacket q) s q fun t => (t.queue q).pending = x.pending) ∧
    (∀ slot, Fetched s q slot 0x06 [2] →
      let va := field slot 0 8
      (va % 4 ≠ 0 ∨ 1 < field slot 12 1 ∨ fails va → Rejects (.signalPacket q) s q) ∧
      (va % 4 = 0 → field slot 12 1 ≤ 1 → ∀ tr, reaches va tr → tr.pa va % 4 = 0 → Dispatches (.signalPacket q) s q fun t => UnderWay s t q .writes ∧
        posts t tr va (natBytes 4 (field slot 8 4)) true (if field slot 12 1 = 1 then some x.ctx else none) ∧ Comes t (.signalPacket q))) ∧
    (∀ i ∈ [Instr.signalPacket q, .commitPacket q, .accountClose q], x.fetched = none →
      let ends := fun (p : Nat × Pending) => (p.2 = .writes ∧ s.quiet frontParty (1 + q) = true) ∨ ∃ ctx, p.2 = .account ctx ∧ s.recordOpen ctx 3 p.1 = false
      ((∃ p ∈ x.pending, p.2 = .writes ∨ ∃ ctx, p.2 = .account ctx) → (∀ p ∈ x.pending, ¬ends p) → LooksAgain i s) ∧
      ((∃ p ∈ x.pending, ends p) → ∃ t, exec i s = .next t ∧ t.mem = s.mem ∧
        QueueBecomes s t q { x with pending := (t.queue q).pending } ∧ ∀ p, p ∈ (t.queue q).pending ↔ p ∈ x.pending ∧ ¬ends p)) ∧
    (∀ slot, Fetched s q slot 0x07 [2] →
      let va := field slot 0 8
      (va % 4 ≠ 0 ∨ 2 < field slot 12 1 ∨ (∃ cause a, s.frontRead (.packet q) x.ctx va 4 = .fails cause a) → Rejects (.waitPacket q) s q) ∧
      (va % 4 = 0 → field slot 12 1 ≤ 2 → ∀ bs, s.frontRead (.packet q) x.ctx va 4 = .ok bs → Dispatches (.waitPacket q) s q fun t =>
        UnderWay s t q (.wait va (BitVec.ofNat 32 (field slot 8 4)) (field slot 12 1)) ∧ Comes t (.waitPoll q))) ∧
    (∀ mark va value cond bs, x.pending = [(mark, .wait va value cond)] → s.frontRead (.packet q) x.ctx va 4 = .ok bs →
      let holds := match cond with | 0 => bytesNat bs = value.toNat | 1 => value.toNat ≤ bytesNat bs | _ => bytesNat bs ≠ value.toNat
      (holds → ∃ t, exec (.waitPoll q) s = .next t ∧ t.mem = s.mem ∧ QueueBecomes s t q { x with pending := [] }) ∧
      (¬holds → exec (.waitPoll q) s = .next { s with timers := s.timers ++ [(s.clk + 256, .event (.waitPoll q))] })) ∧
    (∀ slot, Fetched s q slot 0x08 [3] →
      let src := field slot 0 8
      let dst := field slot 8 8
      let n := field slot 16 4
      (7 < field slot 20 1 → Rejects (.copyPacket q) s q) ∧
      (field slot 20 1 ≤ 7 → s.frontProbe (.packet q) x.ctx true false (blockParts 4096 src n) = none →
        s.frontProbe (.packet q) x.ctx false true (blockParts 4096 dst n) = none → Dispatches (.copyPacket q) s q fun t =>
          UnderWay s t q (.copy x.ctx src dst n 0) ∧ Comes t (.copyPacket q))) ∧
    (∀ mark ctx src dst n done, x.fetched = none → x.pending = [(mark, .copy ctx src dst n done)] →
      let part := min (n - done) (min (128 - (src + done) % 128) (128 - (dst + done) % 128))
      let a := (src + done) % 2 ^ 64
      let b := (dst + done) % 2 ^ 64
      (done < n → ∀ bs tr, s.frontRead (.copy q) ctx a part = .ok bs → s.frontAccess (.copy q) ctx b 6 false true = .ok tr (tr.pa b) → tr.pa b % 128 = b % 128 → s.bar0Offset (tr.pa b) = none →
        ∃ t, exec (.copyPacket q) s = .next t ∧ t.mem = s.mem ∧ QueueBecomes s t q { x with pending := [(mark, .copy ctx src dst n (done + part))] } ∧
          bs.length = part ∧ posts t tr b bs false none ∧ Comes t (.copyPacket q)) ∧
      (n ≤ done → s.quiet frontParty (1 + q) = false → LooksAgain (.copyPacket q) s) ∧
      (n ≤ done → s.quiet frontParty (1 + q) = true → ∃ t, exec (.copyPacket q) s = .next t ∧ t.mem = s.mem ∧ QueueBecomes s t q { x with pending := [] })) ∧
    (∀ slot, Fetched s q slot 0x09 [2] →
      (field slot 0 8 % 64 ≠ 0 ∨ 16 ≤ x.accounts.length → Rejects (.accountOpen q) s q) ∧
      (field slot 0 8 % 64 = 0 → x.accounts.length < 16 →
        let opened := ((x.tails.find? fun t => (t.1 - x.head).toNat ≠ 0 && decide ((t.1 - x.head).toNat < 2 ^ 31)).map (·.2)).getD s.clk
        Dispatches (.accountOpen q) s q fun t => (t.queue q).accounts = x.accounts ++
          [{ addr := field slot 0 8, stamp := min (field slot 8 8) opened, opened := opened, mark := s.serial + 1, queue := s.clk - opened }])) ∧
    (∀ slot, Fetched s q slot 0x0A [1] →
      let addr := field slot 0 8
      (addr % 64 ≠ 0 ∨ (∀ a ∈ x.accounts, a.addr ≠ addr) → Rejects (.accountClose q) s q) ∧
      (addr % 64 = 0 → ∀ a, (x.accounts.find? fun y => y.addr == addr) = some a → Dispatches (.accountClose q) s q fun t =>
        (t.queue q).accounts = x.accounts.erase a ∧ UnderWay s t q (.account x.ctx) ∧ Comes t (.accountClose q) ∧
        ∀ tr, (∀ f ∈ s.frontWrites, f.asid ≠ x.ctx) → s.frontAccess .record x.ctx addr 2 false true = .ok tr (tr.pa addr) → tr.pa addr % 64 = 0 → s.bar0Offset (tr.pa addr) = none → ∃ p ∈ t.posted, s.serial < p.id ∧ p.g = frontParty ∧ p.w = 0 ∧ p.ordered = true ∧
          p.bytes = placed (s.physPlace (tr.pa addr)) (natBytes 8 a.stamp ++ natBytes 8 s.clk ++ natBytes 8 (a.opened - a.stamp) ++ natBytes 8 a.queue ++ natBytes 8 a.front ++
            natBytes 8 a.fault ++ natBytes 8 a.io ++ natBytes 8 a.exec))) ∧
    (∀ slot, Fetched s q slot 0x0B [2] →
      let va := field slot 8 8
      let tag := field slot 0 4
      let status := s.commitStatus x.ctx tag
      (va % 4 ≠ 0 ∨ fails va → Rejects (.commitPacket q) s q) ∧
      (va % 4 = 0 → ∀ tr, reaches va tr → tr.pa va % 4 = 0 → Dispatches (.commitPacket q) s q fun t => UnderWay s t q .writes ∧
        posts t tr va (natBytes 4 status) true none ∧ Comes t (.commitPacket q) ∧
        t.tag tag = if status = 0 then { s.tag tag with state := .committed, committing := true, commitAt := s.clk + 66, committer := none } else s.tag tag)) ∧
    (∀ slot, Fetched s q slot 0x0C [2] →
      let va := field slot 0 8
      (va % 64 ≠ 0 ∨ (∃ cause a, s.frontRead (.packet q) x.ctx va 64 = .fails cause a) → Rejects (.tensorDef q) s q) ∧
      (va % 64 = 0 → ∀ bs, s.frontRead (.packet q) x.ctx va 64 = .ok bs →
        let r : TRecord := BitVec.ofNat 512 (bytesNat bs)
        (r.check ≠ 0 → Rejects (.tensorDef q) s q) ∧
        (r.check = 0 → Dispatches (.tensorDef q) s q fun t => (t.context x.ctx).tensors.find? (field slot 8 1) = some r)))

/-! ## Launches, graphs, placement, retirement (R14, R16, R37, R38, R108, R116, R305, R339 to R348, R352, R353) -/

namespace Sys2Proof.Claims

open Machine

/-- A launch record passes its checks, needs no team table and is no co-resident grid's (R340). -/
def Launchable (s : State) (ctx : Nat) (packet : Bool) (r : LaunchRecord) : Prop :=
  s.recordFault ctx packet r = none ∧ r.teamCount = 0 ∧ r.coresident = false

/-- The numbers of the groups of gang k of a grid (R13, R14). -/
def groupsOfGang (r : LaunchRecord) (k : Nat) : List Nat :=
  (List.range (min r.gang (r.gridX * r.gridY * r.gridZ - k * r.gang))).map fun i => k * r.gang + i

/-- In t launch id of record r has begun for queue q: it has a gang for every `gang` groups of the grid, in order, waiting behind the queue's others (R14, R334). -/
def Begins (s t : State) (q id : Nat) (l : Launch) : Prop :=
  let n := (l.record.gridX * l.record.gridY * l.record.gridZ + l.record.gang - 1) / l.record.gang
  (∃ gids, gids.length = n ∧ t.launches.find? id = some { l with gangs := gids } ∧ (t.queue q).gangs = (s.queue q).gangs ++ gids ∧
    ∀ k, k < n → ∃ i, gids[k]? = some i ∧ t.gangs.find? i = some { launch := id, index := k, groups := groupsOfGang l.record k })

/-- A write of the front end that stands posted, with its bytes in place. -/
def FrontPosted (s t : State) (place : Nat) (bytes : List Byte) (release : Bool) : Prop :=
  ∃ p ∈ t.posted, s.serial < p.id ∧ p.g = frontParty ∧ p.w = 0 ∧ p.ordered = release ∧ p.bytes = placed place bytes

/-- A group has ended and nothing that its waves issued is under way. -/
def GroupOver (s : State) (gk : Nat) (g : Group) : Prop :=
  g.retired = false ∧ (∀ w ∈ g.waves, w.live = 0#32 ∧ w.matOps = []) ∧ (∀ p ∈ s.posted, p.g ≠ gk) ∧ (∀ r ∈ s.lags, r.g ≠ gk) ∧
    (∀ o ∈ s.copies, o.g ≠ gk) ∧ ∀ o ∈ s.laneOps, o.g ≠ gk

end Sys2Proof.Claims

open Sys2Proof Sys2Proof.Machine Sys2Proof.Claims in
/-- Launch and graph packets (R339, R340, R344, R345). A packet with a field out of range is rejected, and so is a launch whose record fails a check; a launch that passes begins: its gangs wait in the queue, in order. A short LAUNCH
takes parameter pointer, completion record and grid from the packet. GRAPH_LOAD of a running slot waits, a graph that fails a check is rejected, and else the nodes are loaded. GRAPH_RUN waits for a running graph, is rejected for
an empty slot, and else its run begins.
Points the manual leaves open are as log entries 75, 78, 79 say. -/
def Obligations.LaunchPackets : Prop :=
  ∀ (s : State) (q : Nat) (slot : BitVec 2048),
    let x := s.queue q
    let launches := fun (i : Instr) (r : LaunchRecord) =>
      ((s.recordFault x.ctx true r).isSome = true → Rejects i s q) ∧
      (Launchable s x.ctx true r → Dispatches i s q fun t => UnderWay s t q (.launch (s.serial + 2)) ∧
        Begins s t q (s.serial + 2) { ctx := x.ctx, queue := q, slot := x.head, record := r, fence := slotFence slot, params := r.param, completion := r.completion, mark := s.serial + 1 })
    (Fetched s q slot 0x02 [16] →
      (slotField slot 32 8 % 16 ≠ 0 ∨ slotField slot 64 8 % 64 ≠ 0 → Rejects (.launchPacket q) s q) ∧
      (slotField slot 32 8 % 16 = 0 → slotField slot 64 8 % 64 = 0 → launches (.launchPacket q) (parseRecord (slot.toNat % 2 ^ 1024)))) ∧
    (Fetched s q slot 0x02 [4] →
      (slotField slot 0 8 % 128 ≠ 0 ∨ slotField slot 16 8 % 64 ≠ 0 → Rejects (.launchShort q) s q) ∧
      (slotField slot 0 8 % 128 = 0 → slotField slot 16 8 % 64 = 0 → ∀ raw, s.frontRead (.packet q) x.ctx (slotField slot 0 8) 128 = .ok raw → raw.length = 128 →
        launches (.launchShort q) { parseRecord (bytesNat raw) with
          gridX := slotField slot 24 4, gridY := slotField slot 28 2, gridZ := slotField slot 30 2, param := slotField slot 8 8, completion := slotField slot 16 8 })) ∧
    (Fetched s q slot 0x04 [2] →
      let va := slotField slot 0 8
      let n := slotField slot 8 2
      let g := slotField slot 10 1
      (va % 128 ≠ 0 ∨ n = 0 ∨ 4096 < n ∨ 63 < g → Rejects (.graphLoad q) s q) ∧
      (va % 128 = 0 → 1 ≤ n → n ≤ 4096 → g ≤ 63 →
        ((s.graph x.ctx g).run ≠ none → LooksAgain (.graphLoad q) s) ∧
        ((s.graph x.ctx g).run = none → ∀ bs, s.frontRead (.packet q) x.ctx va (128 * n) = .ok bs →
          let ns := (List.range n).map fun i => parseRecord (bytesNat ((bs.drop (128 * i)).take 128))
          ((∃ r ∈ ns, s.recordFault x.ctx false r ≠ none) ∨ graphFault ns ≠ none → Rejects (.graphLoad q) s q) ∧
          ((∀ r ∈ ns, s.recordFault x.ctx false r = none) → graphFault ns = none → Dispatches (.graphLoad q) s q fun t => t.graph x.ctx g = { nodes := ns })))) ∧
    (Fetched s q slot 0x03 [2] →
      let g := slotField slot 0 1
      let record := slotField slot 8 8
      (63 < g ∨ record % 64 ≠ 0 → Rejects (.graphRun q) s q) ∧
      (g ≤ 63 → record % 64 = 0 →
        ((s.graph x.ctx g).run ≠ none → LooksAgain (.graphRun q) s) ∧
        ((s.graph x.ctx g).run = none → (s.graph x.ctx g).nodes = [] → Rejects (.graphRun q) s q) ∧
        ((s.graph x.ctx g).run = none → (s.graph x.ctx g).nodes ≠ [] → Dispatches (.graphRun q) s q fun t => UnderWay s t q (.run (s.serial + 2)) ∧
          (t.graph x.ctx g).run = some (s.serial + 2) ∧ (t.graph x.ctx g).nodes = (s.graph x.ctx g).nodes ∧
          ∃ r, t.runs.find? (s.serial + 2) = some r ∧ r.ctx = x.ctx ∧ r.slot = g ∧ r.queue = q ∧ r.packet = x.head ∧ r.completion = record ∧ r.mark = s.serial + 1)))

open Sys2Proof Sys2Proof.Machine Sys2Proof.Claims in
/-- Placement, retirement, completion, forks and deferred effects (R12, R16, R37, R38, R108, R116, R305, R342, R343, R345 to R348, R352 to R354). The gang that is next and fits is placed: all its groups start on the cores that have room, in the first hive that
fits after the last die, and its queue drops it; one that is not next, or comes before 4 clk have passed since the last placement, is looked at again; a GLOAD that may issue in the clk comes first (R394). A group that is over retires, is charged and counted; one that is not waits. The early trigger waits for what was issued before the early points, and then happens once.
A launch without gangs writes its completion record, with `signal` last and as a release; once that has been performed it is gone, and its packet has completed. The fork that has waited longest takes the lowest free tags once there are enough, others wait:
it posts each tag into its block, and once those writes have been performed the tags are the run's. At the join's deadline the fork's live futures are squashed with reason 1. A committed tag's deferred effects leave the queue in order.
Points the manual leaves open are as log entries 9, 47, 48, 79 say. -/
def Obligations.LaunchSteps : Prop :=
  ∀ (s : State),
    (∀ gang x, s.gangs.find? gang = some x → s.gangSaved x = false →
      (s.gangWaits x = false → DoesNothing (.gangPlacement gang) s) ∧
      (s.gangWaits x = true →
        (s.clk < s.placeFrom → LooksAgain (.gangPlacement gang) s) ∧
        (s.placeFrom ≤ s.clk → ∀ g w b, s.loadReady = some (g, w, b) →
          exec (.gangPlacement gang) s = .next { s with agenda := .issue g w b :: .event (.gangPlacement gang) :: s.agenda }) ∧
        (∀ level q n fit g y, s.loadReady = none → s.placingLevel = some level → s.nextPlacing (s.visitOrder level) = some (q, n) → s.fitting q = some fit → s.waitingGang q = some (g, y) →
          (g ≠ gang → LooksAgain (.gangPlacement gang) s)) ∧
        (∀ level q n cores die l, s.placeFrom ≤ s.clk → s.loadReady = none → s.placingLevel = some level → s.nextPlacing (s.visitOrder level) = some (q, n) → s.waitingGang q = some (gang, x) →
          s.fitting q = some (.fresh [(gang, x)] [cores] die) → s.launches.find? x.launch = some l → l.queue = q → l.record.coresident = false → cores.Nodup → cores.length = x.groups.length → x.restarts = [] →
          (∀ core ∈ cores, ∃ i, i < 16 ∧ s.groups.find? (core * 16 + i) = none) →
          ∃ t : State, exec (.gangPlacement gang) s = .next t ∧ t.mem = s.mem ∧ t.lastDie = die ∧ t.placeFrom = s.clk + 4 ∧ t.gangs.find? gang = some { x with placed := true, evicted := false, evictAge := 0 } ∧
            (t.queue q).gangs = (s.queue q).gangs.erase gang ∧
            ∀ (j linear core : Nat), x.groups[j]? = some linear → cores[j]? = some core → ∃ i g, i < 16 ∧ s.groups.find? (core * 16 + i) = none ∧ t.groups.find? (core * 16 + i) = some g ∧
              g.ctx = l.ctx ∧ g.tag = l.tag ∧ g.launch = some x.launch ∧ g.gang = x.index ∧ g.linear = linear ∧ g.gidX = linear % l.record.gridX ∧
              g.gidY = linear / l.record.gridX % l.record.gridY ∧ g.gidZ = linear / (l.record.gridX * l.record.gridY) ∧ g.scratch = [] ∧ g.halted = false ∧
              g.waves.length = (l.record.lanes + 31) / 32 ∧ ∀ wi (w : Wave), g.waves[wi]? = some w → w.n = l.record.regs ∧ w.v = [] ∧ w.slotB = none ∧ w.stack = [] ∧ w.live = w.lanes ∧
                (∀ b, b < 32 → w.lanes.getLsbD b = decide (32 * wi + b < l.record.lanes)) ∧ Tab.get 0#32 w.k 0 = BitVec.ofNat 32 l.params ∧ Tab.get 0#32 w.k 1 = BitVec.ofNat 32 (l.params / 2 ^ 32) ∧
                ∃ p, w.slotA = some p ∧ p.pc = BitVec.ofNat 32 l.record.entry ∧ p.mask = w.lanes ∧ p.mode = 0x000200#24))) ∧
    (∀ gk g, s.groups.find? gk = some g →
      ((∃ w ∈ g.waves, w.live ≠ 0#32) ∨ g.retired = true → DoesNothing (.groupRetire gk) s) ∧
      (g.retired = false → (∀ w ∈ g.waves, w.live = 0#32) → (∃ wi p, wi < g.waves.length ∧ p ∈ s.posted ∧ p.g = gk ∧ p.w = wi) → LooksAgain (.groupRetire gk) s) ∧
      (GroupOver s gk g → g.launch = none → ∃ t, exec (.groupRetire gk) s = .next t ∧ t.mem = s.mem ∧ t.groups.find? gk = none ∧ ∀ k, k ≠ gk → t.groups.find? k = s.groups.find? k) ∧
      (GroupOver s gk g → ∀ id l gid (x : Gang), g.launch = some id → s.launches.find? id = some l → l.teams = [] →
        List.find? (fun (y : Nat × Gang) => y.2.launch == id && y.2.index == g.gang) s.gangs = some (gid, x) →
        (x.groups = [g.linear] → l.gangs = [gid] → l.node = none → ∃ t, exec (.groupRetire gk) s = .next t ∧ t.mem = s.mem ∧ t.groups.find? gk = none ∧ t.gangs.find? gid = none ∧
          Comes t (.completionSignal id)) ∧
        (x.groups.erase g.linear ≠ [] → ∃ t l', exec (.groupRetire gk) s = .next t ∧ t.mem = s.mem ∧ t.groups.find? gk = some { g with retired := true } ∧ t.gangs.find? gid = some { x with groups := x.groups.erase g.linear } ∧
          t.launches.find? id = some l' ∧ l' = { l with tally := l'.tally } ∧ l'.tally.ended = s.clk ∧
          l'.tally.coreCycles = l.tally.coreCycles + (match g.first with | some a => s.clk - a | none => 0) ∧
          ∀ wi (w : Wave), g.waves[wi]? = some w → w.fmask ≠ 0#32 → (g.linear, wi, w.fmask) ∈ l'.tally.fmasks))) ∧
    (∀ id l, s.launches.find? id = some l →
      (l.triggered = true → DoesNothing (.earlyTrigger id) s) ∧
      (l.triggered = false → (∃ e ∈ l.earlyWaves, ∃ gk g, s.groupOf id e.1 = some (gk, g) ∧ s.waveQuiet gk e.2.1 e.2.2 = false) → LooksAgain (.earlyTrigger id) s) ∧
      (l.triggered = false → (∀ e ∈ l.earlyWaves, ∀ gk g, s.groupOf id e.1 = some (gk, g) → s.waveQuiet gk e.2.1 e.2.2 = true) → l.node = none →
        ∃ t, exec (.earlyTrigger id) s = .next t ∧ t = { s with launches := t.launches } ∧ t.launches.find? id = some { l with triggered := true } ∧
          ∀ k, k ≠ id → t.launches.find? k = s.launches.find? k) ∧
      (l.gangs = [] → (l.node = none ∨ l.ending ≠ none) →
        (l.written = true →
          (s.recordOpen l.ctx 1 id = true → ∃ t : State, exec (.completionSignal id) s = .next t ∧ t = { s with dies := t.dies, timers := s.timers ++ [(s.clk + 1, .event (.completionSignal id))] }) ∧
          (s.recordOpen l.ctx 1 id = false → ∃ t, exec (.completionSignal id) s = .next t ∧ t.mem = s.mem ∧ t.posted = s.posted ∧ t.launches.find? id = none ∧
            (t.queue l.queue).pending = (s.queue l.queue).pending.filter fun p => p.1 ≠ l.mark)) ∧
        (l.written = false → l.completion = 0 → ∃ t, exec (.completionSignal id) s = .next t ∧ t.mem = s.mem ∧ t.posted = s.posted ∧ t.launches.find? id = some { l with written := true } ∧
          Comes t (.completionSignal id)) ∧
        (∀ tr, l.written = false → l.completion % 64 = 0 → 0 < l.completion → l.completion / 2 ^ 56 = 0 → (∀ k, k < 64 → s.fill l.ctx (l.completion + k) 12 = .ok tr) → 12 ≤ tr.bits → tr.read = true → tr.write = true → l.tally.fmasks = [] → s.frontWrites = [] →
          s.lineHeld (tr.pa l.completion / 128) = false → (∀ k, k < 64 → s.bar0Offset (tr.pa l.completion + k) = none) →
          let x := l.tally
          let (signal, code) := l.ending.getD (1, 0)
          ∃ t, exec (.completionSignal id) s = .next t ∧ t.mem = s.mem ∧ t.launches.find? id = some { l with written := true } ∧
            FrontPosted s t (s.physPlace (tr.pa l.completion + 4)) (natBytes 4 code ++ natBytes 8 0 ++ natBytes 8 (x.started.getD 0) ++ natBytes 8 x.ended ++ natBytes 8 x.coreCycles) false ∧
            FrontPosted s t (s.physPlace (tr.pa l.completion + 44))
              (natBytes 4 0 ++ natBytes 2 x.copyErrors ++ natBytes 2 x.rayErrors ++ natBytes 2 x.texErrors ++ natBytes 2 x.idemRestarts ++ natBytes 8 0) false ∧
            FrontPosted s t (s.physPlace (tr.pa l.completion)) (natBytes 4 signal) true))) ∧
    (∀ run r node x, s.runs.find? run = some r → r.node? node 0 = some x →
      let rec_ := (s.nodesOf r).getD node {}
      let free := (List.range 16).filter fun t => t ≠ 0 && (s.tag t).state = .free
      ((run, node) ∉ s.forkWaits → DoesNothing (.forkTakeTags run node) s) ∧
      ((run, node) ∈ s.forkWaits → s.forkWaits.head? ≠ some (run, node) ∨ free.length < rec_.futures ∨ s.forkLive r.ctx = true → LooksAgain (.forkTakeTags run node) s) ∧
      (s.forkWaits.head? = some (run, node) → rec_.futures ≤ free.length → s.forkLive r.ctx = false →
        (r.taking = [] → rec_.futures = 1 → ∀ tr tag, free.head? = some tag → x.param % 4 = 0 → x.param < 2 ^ 56 →
          s.frontAccess (.node run node 0) r.ctx x.param 2 false true = .ok tr (tr.pa x.param) → s.reach (tr.pa x.param) ≠ .nothing →
          (∀ card place, s.reach (tr.pa x.param) = .gddr card place → card = s.ownCard) →
          ∃ t, exec (.forkTakeTags run node) s = .next t ∧ t.mem = s.mem ∧ t.tags = s.tags ∧ t.runs.find? run = some { r with taking := [tag] } ∧ Comes t (.forkTakeTags run node) ∧
            ∃ p ∈ t.posted, s.serial < p.id ∧ p.g = frontParty ∧ p.w = forkWave run ∧ p.bytes = placed (s.physPlace (tr.pa x.param)) (natBytes 4 tag)) ∧
        (r.taking ≠ [] → s.quiet frontParty (forkWave run) = false → LooksAgain (.forkTakeTags run node) s) ∧
        (r.taking ≠ [] → s.quiet frontParty (forkWave run) = true → ∃ t, exec (.forkTakeTags run node) s = .next t ∧ t.mem = s.mem ∧ (t.context r.ctx).forkTags = r.taking ∧
          ∀ tag ∈ r.taking, (t.tag tag).ctx = r.ctx ∧ (t.tag tag).run = run ∧ (t.tag tag).state ≠ .free))) ∧
    (∀ run r node, s.runs.find? run = some r →
      let rec_ := (s.nodesOf r).getD node {}
      (s.clk + rec_.deadline < r.latchAt → LooksAgain (.joinDeadline run node) s) ∧
      (r.latchAt ≤ s.clk + rec_.deadline → ∃ t, exec (.joinDeadline run node) s = .next t ∧ t.mem = s.mem ∧
        ∀ tag ∈ r.tags, 1 ≤ tag → tag ≤ 15 → (s.tag tag).run = run → (s.tag tag).state = .live → (t.tag tag).state = .squashed ∧ (t.tag tag).reason = 1)) ∧
    (∀ ctx tag e rest, (s.tag tag).state = .committed → (s.tag tag).committing = false → (s.tag tag).ctx = ctx → (s.tag tag).effects = e :: rest →
      (s.quiet frontParty 0 = false → LooksAgain (.deferredEffect ctx tag) s) ∧
      (s.quiet frontParty 0 = true →
        (∀ va bytes tr, e = .store va bytes → bytes ≠ [] → s.frontAccess (.effect tag) ctx va 2 false true = .ok tr (tr.pa va) → ∃ t, exec (.deferredEffect ctx tag) s = .next t ∧ t.mem = s.mem ∧
          (t.tag tag).effects = rest ∧ FrontPosted s t (s.physPlace (tr.pa va)) bytes true) ∧
        (∀ va bytes cause, e = .store va bytes → s.frontAccess (.effect tag) ctx va 2 false true = .fails cause → ∃ t, exec (.deferredEffect ctx tag) s = .next t ∧ t.mem = s.mem ∧
          (t.tag tag).effects = rest ∧ ((s.queue (s.tag tag).queue).ctx ≠ 0 → (t.queue (s.tag tag).queue).errlogCount = (s.queue (s.tag tag).queue).errlogCount + 1#32)) ∧
        (∀ va head, e = .flip va head → va % 32 ≠ 0 → ∃ t, exec (.deferredEffect ctx tag) s = .next t ∧ t.mem = s.mem ∧ (t.tag tag).effects = rest ∧
          t.head head = { s.head head with badFlips := (s.head head).badFlips + 1 }) ∧
        (∀ id param, e = .glaunch id param → (s.graph ctx (id.toNat / 2 ^ 26)).run = none → ∃ t, exec (.deferredEffect ctx tag) s = .next t ∧ t.mem = s.mem ∧ (t.tag tag).effects = rest)))

/-! ## Commands of a context, its deadlines, watchdogs and samples (R151, R235, R361, R365 to R378, R384) -/

namespace Sys2Proof.Claims

open Machine

/-- The control block of a context has taken command v and not ended it (R366, R368). -/
def Taken (s : State) (ctx v : Nat) : Prop := ctx ≠ 0 ∧ (s.context ctx).cmdStatus = 1 ∧ (s.context ctx).cmd = v

/-- A command has ended with a status; memory stands. -/
def Ends (i : Instr) (s : State) (ctx status : Nat) (also : State → Prop) : Prop :=
  ∃ t, exec i s = .next t ∧ (t.context ctx).cmdStatus = status ∧ (t.context ctx).cmd = 0 ∧ t.mem = s.mem ∧ also t

/-- A user group that `arg0` of a context names (R368). -/
def Names (s : State) (ctx : Nat) (g : Group) : Prop :=
  g.ctx = ctx ∧ g.launch ≠ none ∧ g.retired = false ∧ ((s.context ctx).arg0 = 0xFFFFFFFFFFFFFFFF#64 ∨ g.linear = (s.context ctx).arg0.toNat)

/-- In t a context has been reset (R371): no group of it is resident, its live futures are squashed with reason 5, its launches end with signal 3, its queues are disabled with one entry more in their logs. -/
structure IsReset (s t : State) (ctx : Nat) : Prop where
  mem : t.mem = s.mem
  groups : ∀ k g, (k, g) ∈ t.groups → g.ctx ≠ ctx
  state : (t.context ctx).stopped = false ∧ (t.context ctx).preempting = false ∧ (t.context ctx).saved = []
  tags : ∀ tag, 1 ≤ tag → tag ≤ 15 → (s.tag tag).ctx = ctx → (s.tag tag).state = .live ∨ (s.tag tag).state = .sealed →
    (t.tag tag).state = .squashed ∧ (t.tag tag).reason = 5
  queues : ∀ q, q < 256 → (s.queue q).ctx = ctx → (t.queue q).enable = false ∧ (t.queue q).pending = [] ∧ (t.queue q).errlogCount = (s.queue q).errlogCount + 1#32
  launches : ∀ id l, s.launches.find? id = some l → l.ctx = ctx → l.tag = 0 → l.ending = none → l.written = false →
    ∃ l', t.launches.find? id = some l' ∧ l'.ending = some (3, 0) ∧ l'.gangs = [] ∧ Comes t (.completionSignal id)

end Sys2Proof.Claims

open Sys2Proof Sys2Proof.Machine Sys2Proof.Claims in
/-- Commands of a context (R366 to R377). A write of `ctx_cmd` while a command runs is ignored; else the command is taken. Without a taken command a step does nothing. PREEMPT stops the placement and starts the deadlines, READMIT ends the stop, RESET resets. HALT and RESUME act on every group
named: status 2 when there is none, RESUME 3 when none is halted. SAVE is refused with 2 and 3, waits for operations, and writes the images. LOAD answers 5 for an image that cannot be read or is none of the context, 4 for a core that does not exist, else what the load gives. ATTACH and DETACH set and clear the
debugger, DETACH resumes what is halted. A context's creation gives its block the values at creation.
Points the manual leaves open are as log entries 82, 83, 85, 86 say. -/
def Obligations.ContextCommands : Prop :=
  ∀ (s : State) (ctx : Nat),
    let c := s.context ctx
    (∀ v (e : Instr), 1 ≤ ctx → ctx < 4096 → commandStep ctx v = some e → ∀ value : BitVec 64, value.toNat = v → s.hostWaits = false →
      (c.cmdStatus = 1 → DoesNothing (.registerWrite (0x100000 + 256 * ctx) 4 value) s) ∧
      (c.cmdStatus ≠ 1 → ∃ t, exec (.registerWrite (0x100000 + 256 * ctx) 4 value) s = .next t ∧ t = { s with contexts := t.contexts, agenda := .event e :: s.agenda } ∧
        t.context ctx = { c with cmdStatus := 1, cmd := v } ∧ Taken t ctx v ∧ ∀ k, k ≠ ctx → t.context k = s.context k)) ∧
    (∀ v (i : Instr), (v, i) ∈ [(2, Instr.readmitCmd ctx), (3, .resetCmd ctx), (4, .haltCmd ctx), (5, .resumeCmd ctx), (6, .saveCmd ctx), (7, .loadCmd ctx), (8, .attachCmd ctx), (9, .detachCmd ctx)] →
      ¬Taken s ctx v → DoesNothing i s) ∧
    (Taken s ctx 1 → c.saveCapable = false → Ends (.preemptCmd ctx) s ctx 0 fun t => (t.context ctx).stopped = true ∧ Comes t (.d1Deadline ctx) ∧ Comes t (.d2Deadline ctx) ∧
      (s.holdsCores ctx = true → (t.context ctx).preempting = true) ∧ t.groups = s.groups) ∧
    (Taken s ctx 2 → Ends (.readmitCmd ctx) s ctx 0 fun t => (t.context ctx).stopped = false ∧ t.groups = s.groups) ∧
    (Taken s ctx 3 → Ends (.resetCmd ctx) s ctx 0 fun t => IsReset s t ctx) ∧
    (∀ i v, (i, v) ∈ [(Instr.haltCmd ctx, 4), (.resumeCmd ctx, 5), (.saveCmd ctx, 6)] → Taken s ctx v → (∀ k g, (k, g) ∈ s.groups → ¬Names s ctx g) → Ends i s ctx 2 fun _ => True) ∧
    (Taken s ctx 4 → (∃ k g, s.groups.find? k = some g ∧ Names s ctx g) → ∃ t, exec (.haltCmd ctx) s = .next t ∧ (t.context ctx).cmdStatus = 0 ∧ t.mem = s.mem ∧
      ∀ k g, s.groups.find? k = some g → Names s ctx g → ∃ g', t.groups.find? k = some g' ∧ g'.halted = true) ∧
    (Taken s ctx 5 → (∃ k g, s.groups.find? k = some g ∧ Names s ctx g) →
      ((∀ k g, (k, g) ∈ s.groups → Names s ctx g → s.groups.find? k = some g ∧ g.halted = false) → Ends (.resumeCmd ctx) s ctx 3 fun t => t.groups = s.groups) ∧
      ((∃ k g, s.groups.find? k = some g ∧ Names s ctx g ∧ g.halted = true) → Ends (.resumeCmd ctx) s ctx 0 fun t =>
        ∀ k g, s.groups.find? k = some g → Names s ctx g → ∃ g', t.groups.find? k = some g' ∧ g'.halted = false)) ∧
    (Taken s ctx 6 → (∃ k g, s.groups.find? k = some g ∧ Names s ctx g) →
      ((∃ k g, s.groups.find? k = some g ∧ Names s ctx g ∧ g.halted = false) → Ends (.saveCmd ctx) s ctx 3 fun t => t.groups = s.groups) ∧
      ((∀ k g, (k, g) ∈ s.groups → Names s ctx g → s.groups.find? k = some g ∧ g.halted = true) →
        ((∃ k g, s.groups.find? k = some g ∧ Names s ctx g ∧ s.groupQuiet k = false) → LooksAgain (.saveCmd ctx) s) ∧
        ((∀ k g, (k, g) ∈ s.groups → Names s ctx g → s.groups.find? k = some g ∧ s.groupQuiet k = true) → Ends (.saveCmd ctx) s ctx 0 fun _ => True))) ∧
    (Taken s ctx 7 →
      ((∃ cause a, s.frontRead .record ctx c.arg1.toNat 256 = .fails cause a) → Ends (.loadCmd ctx) s ctx 5 fun t => t.groups = s.groups) ∧
      (∀ header, s.frontRead .record ctx c.arg1.toNat 256 = .ok header → fieldAt header 36 4 ≠ ctx ∨ fieldAt header 40 8 < 256 ∨ 2 ^ 23 < fieldAt header 40 8 →
        Ends (.loadCmd ctx) s ctx 5 fun t => t.groups = s.groups) ∧
      (∀ header bytes, s.frontRead .record ctx c.arg1.toNat 256 = .ok header → fieldAt header 36 4 = ctx → 256 ≤ fieldAt header 40 8 → fieldAt header 40 8 ≤ 2 ^ 23 →
        s.frontRead .record ctx c.arg1.toNat (fieldAt header 40 8) = .ok bytes →
        let die := c.arg2.toNat / 2 ^ 8 % 2 ^ 8
        let core := c.arg2.toNat % 2 ^ 8
        (4 ≤ die ∨ 24 ≤ core → Ends (.loadCmd ctx) s ctx 4 fun t => t.groups = s.groups) ∧
        (die < 4 → core < 24 → ∃ t, exec (.loadCmd ctx) s = .next t ∧ (t.context ctx).cmdStatus = (s.loadImage bytes (die * 24 + core)).2.1 ∧ (t.context ctx).cmd = 0 ∧
          t.groups = (s.loadImage bytes (die * 24 + core)).1.groups))) ∧
    (Taken s ctx 8 → ∃ t, exec (.attachCmd ctx) s = .next t ∧ t = { s with contexts := t.contexts, dies := t.dies } ∧
      t.context ctx = { c with attached := true, cmdStatus := 0, cmd := 0 }) ∧
    (Taken s ctx 9 → Ends (.detachCmd ctx) s ctx 0 fun t => (t.context ctx).attached = false ∧
      ∀ k g, s.groups.find? k = some g → g.ctx = ctx → g.halted = true → ∃ g', t.groups.find? k = some g' ∧ g'.halted = false) ∧
    (∀ saves, ctx ≠ 0 → ∃ t, exec (.contextCreation ctx saves) s = .next t ∧ t = { s with contexts := t.contexts } ∧ t.context ctx = { saveCapable := (t.context ctx).saveCapable } ∧
      (saves = false → (t.context ctx).saveCapable = false) ∧ ∀ k, k ≠ ctx → t.context k = s.context k)

open Sys2Proof Sys2Proof.Machine Sys2Proof.Claims in
/-- Slices, deadlines, watchdogs and samples (R151, R361, R365, R369, R371, R374, R378). A slice ends once the context has held cores for 1,024 clk a unit while another context's gang waited: its placement stops. At D1 the gangs of a pre-empted context whose waves all stand in idempotent regions are discarded
and queued again; at D2 a context with a gang still resident is reset; both wait while a group of the context is halted. A phase older than the watchdog's limit is logged once. A core's sample is written every interval.
Points the manual leaves open are as log entries 80, 81, 84 say. -/
def Obligations.ContextTimers : Prop :=
  ∀ (s : State) (ctx : Nat),
    let c := s.context ctx
    (c.slice = 0#32 ∨ c.stopped = true ∨ s.competitors ctx = [] → DoesNothing (.sliceExpiry ctx) s) ∧
    (c.slice ≠ 0#32 → c.stopped = false → s.competitors ctx ≠ [] →
      (c.heldAge < 1024 * c.slice.toNat → LooksAgain (.sliceExpiry ctx) s) ∧
      (1024 * c.slice.toNat ≤ c.heldAge → ∃ t, exec (.sliceExpiry ctx) s = .next t ∧ t.mem = s.mem ∧ t.groups = s.groups ∧ (t.context ctx).stopped = true ∧ (t.context ctx).heldAge = 0 ∧
        (t.context ctx).sliceFor = s.competitors ctx ∧ Comes t (.d1Deadline ctx) ∧ Comes t (.d2Deadline ctx) ∧ (c.saveCapable = true → Comes t (.preemptCmd ctx)))) ∧
    (s.deadlineAhead ctx = false → DoesNothing (.d1Deadline ctx) s ∧ DoesNothing (.d2Deadline ctx) s) ∧
    (s.deadlineAhead ctx = true → s.contextHalted ctx = true → LooksAgain (.d1Deadline ctx) s ∧ LooksAgain (.d2Deadline ctx) s) ∧
    (c.preempting = true → c.d1Done = false → c.saveCapable = false → s.contextHalted ctx = false → 1400 * c.d1.toNat ≤ c.preemptAge → ∃ t, exec (.d1Deadline ctx) s = .next t ∧ t.mem = s.mem ∧
      ∀ gid x l, s.gangs.find? gid = some x → s.launches.find? x.launch = some l → l.ctx = ctx → l.record.coresident = false → x.placed = true →
        (s.discardable x = true → (∀ k g, (k, g) ∈ t.groups → ¬(g.launch = some x.launch ∧ g.gang = x.index)) ∧
          ∃ y, t.gangs.find? gid = some y ∧ y = { x with placed := false, evicted := false, evictAge := 0, restarts := y.restarts } ∧ (l.queue < 256 → (s.queues.find? l.queue).isSome = true → gid ∈ (t.queue l.queue).gangs)) ∧
        (s.discardable x = false → t.gangs.find? gid = some x)) ∧
    (s.deadlineAhead ctx = true → s.contextHalted ctx = false → ctx ≠ 0 →
      let age := 1400 * c.d2.toNat
      let due := ∃ gid x l, s.gangs.find? gid = some x ∧ s.launches.find? x.launch = some l ∧ l.ctx = ctx ∧ x.placed = true ∧ ((c.preempting = true ∧ age ≤ c.preemptAge) ∨ (x.evicted = true ∧ age ≤ x.evictAge))
      (s.gangsDue ctx age true = [] → LooksAgain (.d2Deadline ctx) s) ∧
      (due → ∃ t, exec (.d2Deadline ctx) s = .next t ∧ IsReset s t ctx)) ∧
    (∀ launch team l tm, s.launches.find? launch = some l → s.team launch team = some tm → l.ctx = ctx →
      let limit := 1024 * c.wdLimit.toNat
      (tm.arrived = [] ∨ tm.logged = true → DoesNothing (.watchdogExpiry launch team) s) ∧
      (tm.arrived ≠ [] → tm.logged = false →
        (limit = 0 ∨ tm.age < limit → LooksAgain (.watchdogExpiry launch team) s) ∧
        (limit ≠ 0 → limit ≤ tm.age → ∃ t, exec (.watchdogExpiry launch team) s = .next t ∧ t.mem = s.mem ∧ t.team launch team = some { tm with logged := true } ∧
          ((s.queue l.queue).ctx ≠ 0 → (t.queue l.queue).errlogCount = (s.queue l.queue).errlogCount + 1#32)))) ∧
    (∀ core,
      let at_ := Tab.get (0, 0) c.sampled core
      (c.traceCfg.getLsbD 9 = false ∨ s.wavesOn ctx core = [] → DoesNothing (.traceSample ctx core) s) ∧
      (c.traceCfg.getLsbD 9 = true → s.wavesOn ctx core ≠ [] →
        (s.clk < at_.1 + 256 * (c.traceCfg.toNat / 2 ^ 16) → LooksAgain (.traceSample ctx core) s) ∧
        (at_.1 + 256 * (c.traceCfg.toNat / 2 ^ 16) ≤ s.clk → ∃ t, exec (.traceSample ctx core) s = .next t ∧ t.mem = s.mem ∧ (t.context ctx).tracePut = c.tracePut + 32#32 ∧
          Tab.get (0, 0) (t.context ctx).sampled core = (s.clk, at_.2 + 1) ∧ Comes t (.traceSample ctx core))))

/-! ## The card: display, ports, errors, power, boot (R231, R318, R331, R350, R391, R400, R432 to R451) -/

namespace Sys2Proof.Claims

open Machine

/-- From s to t so many error records have been written (R435): the ring's count is up by them; memory stands. -/
def Records (s t : State) (n : Nat) : Prop := t.device.errPut = s.device.errPut + BitVec.ofNat 32 n ∧ t.mem = s.mem
def OneRecord (s t : State) : Prop := t.device.errPut = s.device.errPut + 1#32 ∧ t.mem = s.mem

/-- From s to t port p becomes x, and every other port stays. -/
def PortBecomes (s t : State) (p : Nat) (x : Port) : Prop := t.port p = x ∧ ∀ k, k ≠ p → t.port k = s.port k

/-- From s to t the power state of die d becomes x, and every other die's stays. -/
def PowerBecomes (s t : State) (d : Nat) (x : Power) : Prop := t.powerOf d = x ∧ ∀ k, k ≠ d → t.powerOf k = s.powerOf k

/-- From s to t a latch point begins to scan out rows lo to hi of the surface x, each line as memory stands from now on. -/
def Scans (s t : State) (head ctx : Nat) (x : BitVec 256) (lo hi : Nat) : Prop :=
  if lo < hi then (t.head head).scan = some { ctx := ctx, surface := x, mark := s.writes, row := lo, line := 0, stop := hi } ∧ t.agenda = s.agenda ++ [.scanout head]
  else (t.head head).scan = none ∧ t.agenda = s.agenda

end Sys2Proof.Claims

open Sys2Proof Sys2Proof.Machine Sys2Proof.Claims in
/-- Display and ports (R231, R306, R350, R432, R433). At a latch point the newest request performed 128 clk ago is scanned out, and the older ones are dropped and counted; in vblank mode the whole surface, in slice mode 32 rows a point. A line is scanned out as memory stood at one moment since the
latch point, as a whole; a point is put off while one that a join's deadline was measured by is near (the model's choice, log entries 48 and 87). A port that is up retrains when it loses lock or at the eighth replay of a flit, with a record; it comes up again, or, when every port of its
peer has retrained for the link window, the peer is down: its ports are, posted writes to it are lost and their waves note the card.
Points the manual leaves open are as log entries 87, 89 say. -/
def Obligations.PortSteps : Prop :=
  ∀ (s : State),
    (∀ head mode,
      let h := s.head head
      let ready := h.requests.filter fun r => decide (r.at? + 128 ≤ s.clk)
      let early := ∃ x ∈ h.latches, x.1 ≤ s.clk ∧ s.clk < x.2
      let latched := fun (t : State) (a : Head) => (∀ k, k ≠ head → t.head k = s.head k) ∧
        t.head head = { a with latchMode := mode % 2, latches := h.latches.filter fun x => decide (s.clk < x.2), scan := (t.head head).scan, slice := (t.head head).slice, frame := (t.head head).frame } ∧
        ∀ ctx x, a.surface = some (ctx, x) →
          (mode % 2 = 0 → Scans s t head ctx x 0 (surfaceHeight x) ∧ (t.head head).frame = []) ∧
          (mode % 2 = 1 → h.slice = 0 → Scans s t head ctx x 0 0 ∧ (t.head head).frame = []) ∧
          (mode % 2 = 1 → h.slice ≠ 0 → Scans s t head ctx x (32 * (h.slice - 1)) (min (32 * h.slice) (surfaceHeight x)) ∧ (t.head head).frame = h.frame)
      (early → exec (.latchPoint head mode) s = .next { s with timers := s.timers ++ [(s.clk + 1, .latch head mode)] }) ∧
      (¬early → ready = [] → ∃ t, exec (.latchPoint head mode) s = .next t ∧ t = { s with heads := t.heads, agenda := t.agenda } ∧ latched t h) ∧
      (∀ older r, ¬early → ready = older ++ [r] → ∃ t, exec (.latchPoint head mode) s = .next t ∧ t = { s with heads := t.heads, dies := t.dies, agenda := t.agenda } ∧
        latched t { h with surface := some (r.ctx, r.surface), requests := h.requests.filter fun r => decide (s.clk < r.at? + 128), flipsDropped := h.flipsDropped + older.length })) ∧
    (∀ head x tr pa, (s.head head).scan = some x → x.mark ≤ s.writes →
      let va := surfaceLine x.surface x.row x.line
      s.frontAccess (.flip head) x.ctx va 1 true false = .ok tr pa →
        ∃ time, x.mark ≤ time ∧ time ≤ s.writes ∧ (s.scanout head).mem = s.mem ∧ ((s.scanout head).head head).frame.find? (va / 128) =
          some (bytesNat ((List.range 128).map fun i => byteAsOf time (memPlace 0 (pa + i)) (s.byteAt (memPlace 0 (pa + i))) s.past))) ∧
    (∀ port,
      let p := s.port port
      (p.state ≠ 1 → DoesNothing (.linkRetrain port) s ∧ DoesNothing (.flitReplay port) s) ∧
      (p.state = 1 → ∃ t, exec (.linkRetrain port) s = .next t ∧ OneRecord s t ∧ (s.clk + 1400 * s.window.linkWindow, .peer port) ∈ t.timers ∧ PortBecomes s t port { state := 2, replays := 0, since := s.clk }) ∧
      (p.state = 1 → p.replays + 1 < 8 → ∃ t, exec (.flitReplay port) s = .next t ∧ t = { s with ports := t.ports } ∧ PortBecomes s t port { p with replays := p.replays + 1 }) ∧
      (p.state = 1 → 8 ≤ p.replays + 1 → ∃ t, exec (.flitReplay port) s = .next t ∧ OneRecord s t ∧ PortBecomes s t port { state := 2, replays := 0, since := s.clk }) ∧
      (p.state = 2 → ∃ t, exec (.linkUp port) s = .next t ∧ t = { s with ports := t.ports } ∧ PortBecomes s t port { state := 1 }) ∧
      (p.state ≠ 2 → DoesNothing (.linkUp port) s)) ∧
    (∀ port, port < 4 →
      let card := s.window.fabricCfg.toNat / 2 ^ (8 + 2 * port) % 4
      let led := fun (k : Nat) => k < 4 ∧ s.window.fabricCfg.toNat / 2 ^ (16 + k) % 2 = 1 ∧ s.window.fabricCfg.toNat / 2 ^ (8 + 2 * k) % 4 = card
      let gone := fun (k : Nat) => (s.port k).state = 2 ∧ (s.port k).since + 1400 * s.window.linkWindow ≤ s.clk
      ((¬led port ∨ ∃ k, led k ∧ ¬gone k) → DoesNothing (.peerDown port) s) ∧
      (led port → (∀ k, led k → gone k) → ∃ t, exec (.peerDown port) s = .next t ∧ (∀ k, led k → t.port k = { s.port k with state := 3 }) ∧ (∀ k, ¬led k → t.port k = s.port k) ∧
        ∀ p ∈ s.posted, ∀ place b rest, p.bytes = (place, b) :: rest → s.awayCard place = some card → p.id ≤ s.serial → p ∉ t.posted ∧
          ∀ w, waveOf s p.g p.w = some w → ∃ w', waveOf t p.g p.w = some w' ∧ card ∈ w'.lostPeers))

open Sys2Proof Sys2Proof.Machine Sys2Proof.Claims in
/-- Errors, ageing, power and temperature (R318, R362, R437, R439 to R443, R446, R447). A corrected error is counted in its hour and recorded; the third in an SRAM row has it spared, the third in a frame has the frame's page moved, once no write to it is on its way. An uncorrected one is held by the line, the register, the tile or the macro it lies in; found again in GDDR, it retires its frame, as the patrol does. A
re-plan is due every 1,000 powered hours, and takes out the worst core of a die that needs more than 60 mV; low slack raises the offset a step. The caps follow the temperature and the window; banks that have held nothing for 10 µs and units that are idle are gated.
Points the manual leaves open are as log entries 90, 91, 92, 93, 94 say. -/
def Obligations.HealthSteps : Prop :=
  ∀ (s : State),
    (∀ source die unit addr, source ≠ 5 →
      let key := rowKey source die unit addr
      let old := Tab.get (0, 0) s.health.corrected key
      let n := if old.1 = s.poweredHours then old.2 + 1 else 1
      ∃ t, exec (.eccCorrected source die unit addr) s = .next t ∧ OneRecord s t ∧ Tab.get (0, 0) t.health.corrected key = (s.poweredHours, n) ∧
        (n ≠ 3 → t.health.toSpare = s.health.toSpare) ∧ (n = 3 → Tab.get 0 s.health.sparesUsed (arrayKey source die unit) = 0 → s.health.toSpare = [] → t.health.toSpare = [key])) ∧
    (∀ die unit addr,
      let frame := addr % 2 ^ 52 / 4096
      let old := Tab.get (0, 0) s.health.corrected (2 ^ 60 + frame)
      let n := if old.1 = s.poweredHours then old.2 + 1 else 1
      ∃ t, exec (.eccCorrected 5 die unit addr) s = .next t ∧ Tab.get (0, 0) t.health.corrected (2 ^ 60 + frame) = (s.poweredHours, n) ∧ (n ≠ 3 → t.mem = s.mem) ∧
        (n = 3 → s.health.retiredFrames.length < 4096 → (frame ∈ t.health.retiredFrames ∨ (s.clk + 1, .migrate frame) ∈ t.timers) ∧
          (s.posted = [] → s.device.errCfg.getLsbD 8 = false → frame ∈ t.health.retiredFrames))) ∧
    (∀ source die unit addr,
      let i := Instr.eccUncorrected source die unit addr
      (source = 1 → isScratch addr = false → ∀ gk wi reg l w, reg < 256 → l < 32 → wi < 64 → addr = ((gk * 64 + wi) * 32 + l) * 256 + reg → waveOf s gk wi = some w →
        ∃ t w', exec i s = .next t ∧ t.mem = s.mem ∧ waveOf t gk wi = some w' ∧ w' = { w with poison := w'.poison } ∧ ∃ x ∈ w'.poison, x.reg = .v reg ∧ x.lanes = laneBit l) ∧
      (source = 6 → ∀ gk wi tile w, tile < 128 → wi < 64 → addr = (gk * 64 + wi) * 256 + tile → waveOf s gk wi = some w →
        ∃ t w', exec i s = .next t ∧ t.mem = s.mem ∧ waveOf t gk wi = some w' ∧ w' = { w with badTiles := w'.badTiles } ∧ tile ∈ w'.badTiles) ∧
      (source ∉ [0, 1, 5, 6] → ∃ t, exec i s = .next t ∧ OneRecord s t ∧ t.health.poisonedLines.find? (addr / 128) = some source) ∧
      (source = 5 → s.window.spillSize = 0 → s.mappings (addr % 2 ^ 52 / 4096) = [] → ∃ t, exec i s = .next t ∧ t.health.poisonedLines.find? (addr / 128) = some 5 ∧
        (s.health.poisonedLines.find? (addr / 128) = some 5 → s.health.retiredFrames.length < 4096 → addr % 2 ^ 52 / 4096 ∈ t.health.retiredFrames))) ∧
    (∀ line,
      let frame := line * 128 % 2 ^ 52 / 4096
      (s.health.poisonedLines.find? line ≠ some 5 ∨ frame ∈ s.health.retiredFrames → DoesNothing (.patrolScrub line) s) ∧
      (s.health.poisonedLines.find? line = some 5 → frame ∉ s.health.retiredFrames → s.health.retiredFrames.length < 4096 → ∃ t, exec (.patrolScrub line) s = .next t ∧ frame ∈ t.health.retiredFrames)) ∧
    (∀ die,
      let p := s.powerOf die
      (4 ≤ die → DoesNothing (.replan die) s ∧ DoesNothing (.lowSlack die) s) ∧
      (s.poweredHours < p.planned + 1000 → DoesNothing (.replan die) s) ∧
      (die < 4 → p.planned + 1000 ≤ s.poweredHours → ∃ t n k, exec (.replan die) s = .next t ∧ Records s t k ∧ 1 ≤ k ∧ k ≤ 24 ∧ n ≤ 12 ∧ (t.powerOf die).planned = s.poweredHours ∧
        if s.userOn die then (t.powerOf die).nextOffset = some n ∧ (t.powerOf die).offset = p.offset else (t.powerOf die).nextOffset = none ∧ (t.powerOf die).offset = n) ∧
      (die < 4 → p.offset < 12 → ∃ t, exec (.lowSlack die) s = .next t ∧ OneRecord s t ∧ PowerBecomes s t die { p with offset := p.offset + 1 }) ∧
      (die < 4 → 12 ≤ p.offset → ∃ t k, exec (.lowSlack die) s = .next t ∧ Records s t k ∧ 1 ≤ k ∧ k ≤ 24 ∧ (t.powerOf die).planned = s.poweredHours) ∧
      (∃ t, exec (.thermalLimit die) s = .next t ∧ t = { s with power := t.power } ∧ PowerBecomes s t die { p with thermal := true, vectorCap := 25, matrixCap := 50 }) ∧
      (p.thermal = true → ∃ t, exec (.temperatureDrop die) s = .next t ∧ t = { s with power := t.power } ∧ PowerBecomes s t die { p with thermal := false, vectorCap := 100, matrixCap := 100 }) ∧
      (p.thermal = false → DoesNothing (.temperatureDrop die) s) ∧
      (∃ t cap, exec (.governorWindow die) s = .next t ∧ t = { s with power := t.power, free := s.free + 1 } ∧ cap ∈ [100, 90, 75, 60] ∧
        PowerBecomes s t die (if p.thermal then p else { p with vectorCap := cap }))) ∧
    (∀ core bank,
      let due := Tab.get 0 s.bankFreed (core * 16 + bank) + 14000
      (s.bankHeld core bank = true ∨ core * 16 + bank ∉ s.awakeBanks → DoesNothing (.bankGate core bank) s) ∧
      (s.bankHeld core bank = false → core * 16 + bank ∈ s.awakeBanks →
        (s.clk < due → exec (.bankGate core bank) s = .next { s with timers := s.timers ++ [(due, .gate core bank)] }) ∧
        (due ≤ s.clk → exec (.bankGate core bank) s =
          .next { s with awakeBanks := s.awakeBanks.filter fun b => b ≠ core * 16 + bank, bankFreed := s.bankFreed.erase (core * 16 + bank) }))) ∧
    (∀ unit, unit < 100 →
      let busy := (unit < 96 ∧ ∃ k g, (k, g) ∈ s.groups ∧ k / 16 = unit) ∨ (96 ≤ unit ∧ ∃ p ∈ s.posted, partyDie p.g = unit - 96)
      (busy → DoesNothing (.powerGating unit) s) ∧
      (¬busy → ∃ t, exec (.powerGating unit) s = .next t ∧ t = { s with gatedUnits := t.gatedUnits } ∧ ∀ u, u ∈ t.gatedUnits ↔ u = unit ∨ u ∈ s.gatedUnits))

open Sys2Proof Sys2Proof.Machine Sys2Proof.Claims in
/-- Boot, attestation, management and device reset (R331, R400, R441, R448 to R451). A request over the management interface stages an image or reads a sensor. The base die boots a verified image before it is on the bus, and its four dies' boots follow; a compute die boots once its link is up, and is ready with its firmware group on core 0; an image
that does not verify leaves its die as it was, reported. A report is written when its destination can be reached. A device reset leaves every register at its reset value and keeps what flash holds.
Points the manual leaves open are as log entries 95, 96 say. -/
def Obligations.TrustSteps : Prop :=
  ∀ (s : State),
    (∀ subject image, subject < 5 → ∃ t, exec (.pldmRequest subject image) s = .next t ∧ t = { s with trust := t.trust } ∧ t.trust.staged.find? subject = some image ∧
      (∀ k, k ≠ subject → t.trust.staged.find? k = s.trust.staged.find? k) ∧ t.trust.images = s.trust.images) ∧
    (∀ subject image, 5 ≤ subject → ∃ t, exec (.pldmRequest subject image) s = .next t ∧ t = { s with free := s.free + 1, hostReply := t.hostReply } ∧ t.hostReply.length = 8 ∧
      (subject = 6 → t.hostReply = natBytes 8 s.health.retiredFrames.length)) ∧
    (∀ die, die ≤ 4 →
      let index := if die = 4 then 0 else 1 + die
      let image := (s.trust.staged.find? index).getD (Tab.get 0 s.trust.images index)
      let verified := Config.imageVerifies image = true ∧ Config.fusedVersion ≤ Config.imageVersion image
      (die = 4 → s.bar0 ≠ none → DoesNothing (.firmwareBoot die) s) ∧
      (die < 4 → (s.die die).link ≠ 0 ∨ (s.die die).ready = true ∨ s.bar0 = none → DoesNothing (.firmwareBoot die) s) ∧
      (die = 4 → s.bar0 = none → verified → ∃ t, exec (.firmwareBoot die) s = .next t ∧ t = { s with bar0 := some Config.bar0Base, trust := t.trust, agenda := t.agenda, timers := t.timers } ∧ (∀ d, d < 4 → (s.clk + 1400, .governor d) ∈ t.timers) ∧
        t.agenda = s.agenda ++ [.event (.firmwareBoot 0), .event (.firmwareBoot 1), .event (.firmwareBoot 2), .event (.firmwareBoot 3)] ∧ Tab.get 0 t.trust.images 0 = image ∧
        Tab.get 0#512 t.trust.measures 0 = Config.sha3 (natBytes 64 (Tab.get 0#512 s.trust.measures 0).toNat ++ natBytes 64 (Config.imageDigest image).toNat)) ∧
      (die = 4 → s.bar0 = none → ¬verified → ∃ t, exec (.firmwareBoot die) s = .next t ∧ t.bar0 = none ∧ t.management = s.management ++ [(3, 4)] ∧ t.trust.measures = s.trust.measures) ∧
      (die < 4 → (s.die die).link = 0 → (s.die die).ready = false → s.bar0 ≠ none →
        (verified → ∃ t g, exec (.firmwareBoot die) s = .next t ∧ t.mem = s.mem ∧ DieBecomes s t die { s.die die with ready := true, failed := false } ∧
          Tab.get 0#512 t.trust.measures index = Config.sha3 (natBytes 64 (Tab.get 0#512 s.trust.measures index).toNat ++ natBytes 64 (Config.imageDigest image).toNat) ∧
          t.groups.find? (die * 384) = some g ∧ g.ctx = 0 ∧ g.launch = none ∧ (∀ w ∈ g.waves, w.live = 0xFFFFFFFF#32 ∧ w.k = [] ∧ w.v = []) ∧ ∀ k, k ≠ die * 384 → t.groups.find? k = s.groups.find? k) ∧
        (¬verified → ∃ t, exec (.firmwareBoot die) s = .next t ∧ OneRecord s t ∧ (t.die die).failed = true ∧ (t.die die).ready = false ∧ t.groups = s.groups))) ∧
    (∀ value : BitVec 32,
      let d := s.device
      (value ≠ 1#32 → DoesNothing (.attCmd value) s) ∧
      (value = 1#32 → d.attStatus = 1 →
        (s.quiet frontParty 1024 = false → LooksAgain (.attCmd value) s) ∧
        (s.quiet frontParty 1024 = true → exec (.attCmd value) s = .next { s with device := { d with attStatus := 0 } })) ∧
      (value = 1#32 → d.attStatus ≠ 1 → s.reach d.attDest.toNat = .nothing → exec (.attCmd value) s = .next { s with device := { d with attStatus := 2 } }) ∧
      (value = 1#32 → d.attStatus ≠ 1 → d.attDest.toNat % 4096 = 0 → (∀ k, k < 3 → ∃ off, s.reach (d.attDest.toNat + 4096 * k) = .gddr s.ownCard off) →
        ∃ t, exec (.attCmd value) s = .next t ∧ t.mem = s.mem ∧ t.device = { d with attStatus := 1 } ∧ .event (.attCmd 1#32) ∈ t.agenda ∧
          ∀ x ∈ placed d.attDest.toNat (natBytes 32 d.attNonce.toNat), ∃ p ∈ t.posted, s.serial < p.id ∧ p.g = frontParty ∧ p.w = 1024 ∧ x ∈ p.bytes)) ∧
    (∃ t, exec .deviceReset s = .next t ∧ (∃ rest, t.agenda = .event (.firmwareBoot 4) :: rest) ∧
      t = { State.reset with agenda := t.agenda, timers := s.timers.filter fun x => x.2.outside, free := s.free + 1, serial := s.serial, mem := t.mem, health := t.health, power := t.power, trust := t.trust, management := s.management } ∧
      (∀ place, place < 2 ^ 52 → (∀ b, (place, b) ∉ s.mem) → t.byteAt place = 0#8) ∧ (∀ place, 2 ^ 52 ≤ place → t.byteAt place = 0#8) ∧
      t.health.retiredFrames = s.health.retiredFrames ∧ t.health.poisonedLines = [] ∧ t.trust.images = s.trust.images ∧ t.trust.staged = s.trust.staged ∧ t.trust.measures = [])

/-! ## Words, their causes, the step, the invariant, reset (R121 to R138, R331, R367, R411) -/

namespace Sys2Proof.Claims

open Machine

/-- The virtual address of a path's PC. -/
def pcAddress (c : Ctx) : Nat := c.code.base + c.p.pc.toNat

/-- The word at the PC of path c, the control word of its comb, the word behind it. -/
def wordAtPc (c : Ctx) : Word := c.s.codeWord c.codeAsid (pcAddress c)
def combWord (c : Ctx) : Word := c.s.codeWord c.codeAsid (c.code.base + c.p.pc.toNat / 32 * 32)
def wordBehind (c : Ctx) : Word := c.s.codeWord c.codeAsid (pcAddress c + 4)

/-- The comb slot of the PC. -/
def combSlot (c : Ctx) : Nat := c.p.pc.toNat / 4 % 8

/-- State s with the word of path c latched, which is what exec acts on. -/
def latched (s : State) (c : Ctx) : State :=
  s.withIssue c.gk c.wi c.slotB (wordAtPc c) (combWord c) (wordBehind c) c.p.pc.toNat

/-- Path c of slot b of wave (g, w) may issue, no cause and no failed fault waits for it, the page of its PC can be read, and it does not stand at the standard handler, which acts at its entry. -/
structure Fetches (s : State) (g w : Nat) (b : Bool) (c : Ctx) : Prop where
  path : s.ctxAt g w b = some c
  may : s.mayIssue g c.g c.w b = true
  raises : c.p.raises = none
  served : ∀ r ∈ s.faultResults, ¬(r.g = g ∧ r.w = w ∧ r.slotB = b)
  inSpace : pcAddress c < 2 ^ 64
  place : regionOf (pcAddress c) = .memory
  page : ∃ tr, s.fill c.codeAsid (pcAddress c) (controllerOf c.codeAsid (pcAddress c)) = .ok tr ∧ tr.read = true
  sound : c.errorWaits = none
  own : c.atStandardHandler = false

/-- The cause that the word of path c meets before its operands (R138, items 1 to 4, and 5 for a literal in slot 7). -/
def pcCause (c : Ctx) : Option (Nat × Nat) :=
  wordCause c.privileged (decide (c.p.comb ≠ some (BitVec.ofNat 32 (c.p.pc.toNat / 32 * 32)))) (wordAtPc c) (combWord c) (combSlot c)

/-- The opcode byte has a dash in the table of R135. -/
def NoInstruction (word : Word) : Prop :=
  let row := word.toNat / 2 ^ 28
  let col := word.toNat / 2 ^ 24 % 16
  14 ≤ row ∨ (row = 7 ∧ col = 15) ∨ (row = 9 ∧ 7 ≤ col) ∨ (row = 10 ∧ 11 ≤ col) ∨ (row = 11 ∧ 9 ≤ col) ∨ (row = 12 ∧ 5 ≤ col)

/-- An instruction that only a privileged wave executes (R135, R383). -/
def PrivilegedForm : Instr → Prop
  | .rdsr _ b => 0x40 ≤ b.toNat
  | .wrsr _ b => b ≠ 0x02#8
  | .tret | .tlbinv _ _ | .irq _ | .haltg _ _ | .resumeg _ _ | .gsave _ _ _ | .gload _ _ _ | .linkq _ _ | .linkup _ _
  | .dierst _ _ | .homebyp _ _ _ | .flushd _ _ | .park => True
  | _ => False

/-- A source that differs from lane to lane. -/
def PerLane (r : Reg) : Prop := (∃ n, r = .v n) ∨ r = .c 3

/-- What R130 and R132 refuse in field D and in a source field of row 0x1. -/
def BadTarget1 (d a b : Reg) : Prop := (∃ n, d = .k n ∧ (PerLane a ∨ PerLane b)) ∨ ∃ n : Fin 32, d = .c n ∧ n ≠ 0
def BadSource1 (r : Reg) : Prop := ∃ n : Fin 32, r = .c n ∧ 15 ≤ n.val

/-- A v or k register with an odd number. -/
def OddReg : Reg → Prop
  | .v n => n.val % 2 = 1
  | .k n => n.val % 2 = 1
  | .c _ => False

/-- Every entry of memory and of the homes' line table says something that an unlisted one would not, in rising order. -/
def Canonical (s : State) : Prop := Memory.wf s.mem = true ∧ Tab.wf ({} : Line) s.lines = true

end Sys2Proof.Claims

open Sys2Proof Sys2Proof.Machine Sys2Proof.Claims in
/-- A STEP RUNS THE DECODED INSTRUCTION. When it is a path's turn, or the picker takes it, and the word at its PC decodes to i and meets no
cause, step is exec of i at the state with the word latched (R121 to R123); a word that meets a cause raises it. A step of the device
that is due is exec of it; an instruction word cannot stand there. When a clk passes, what is to come at that clk is due.
Points the manual leaves open are as log entries 1, 4, 105 say. -/
def Obligations.StepRunsTheDecodedInstruction : Prop :=
  (∀ (s : State) (g w : Nat) (b : Bool) (c : Ctx) (i : Instr) (rest : List Turn), Fetches s g w b c →
    (decodeWord (wordAtPc c) = .ok i → pcCause c = none →
      (s.agenda = .issue g w b :: rest → step s = exec i ((latched { s with agenda := rest } c).noteStart g)) ∧
      (s.choose = some (g, w, b) → s.agenda = [] ∨ s.agenda = .pick :: rest →
        step s = exec i ((latched { s with agenda := s.agenda.tail, picker := s.picker + 1 } c).noteStart g)) ∧
      (∀ n, s.choose = some (g, w, b) → s.agenda = .idle n :: rest →
        step s = exec i ((latched { s with picker := s.picker + 1 } c).noteStart g))) ∧
    (∀ x y, pcCause c = some (x, y) → s.agenda = .issue g w b :: rest →
      ∃ c', (latched { s with agenda := rest } c).ctx? = some c' ∧ c'.p = c.p ∧ c'.w = c.w ∧ c'.g = c.g ∧
        c'.cur.word = wordAtPc c ∧ step s = .next (c'.raise ⟨x, y, 0, c.act⟩))) ∧
  (∀ (s : State) (i : Instr) (rest : List Turn), s.agenda = .event i :: rest →
    step s = if encode i = none then exec i { s with agenda := rest } else .next { s with agenda := rest }) ∧
  (∀ (s : State) (rest : List Turn) (x y : Nat) (slot : BitVec 512),
    let r := { s with agenda := rest }
    (s.agenda = .snoop true x :: rest → step s = exec (.snpcur x) r) ∧
    (s.agenda = .snoop false x :: rest → step s = exec (.snpdata x) r) ∧
    (s.agenda = .latch x y :: rest → step s = exec (.latchPoint x y) r) ∧
    (s.agenda = .gate x y :: rest → step s = exec (.bankGate x y) r) ∧
    (s.agenda = .launch x slot :: rest → step s = exec (.launchRegister x slot) r) ∧
    (s.agenda = .scanout x :: rest → step s = .next (r.scanout x)) ∧
    (s.agenda = .governor x :: rest → step s = .next ((r.govern x).after 1400 (.governor x))) ∧
    (s.agenda = .pipes x :: rest → step s = .next (r.gatePipes x)) ∧
    (s.agenda = .replan x :: rest → step s = .next ((r.replanDue x).after 5040000000000 (.replan x))) ∧
    (s.agenda = .migrate x :: rest → step s = .next (r.migrateSoon x)) ∧
    (s.agenda = .peer x :: rest → step s = .next (r.peerTurn x)) ∧
    (s.agenda = .service x :: rest → step s = .next (r.serveFault x)) ∧
    (s.agenda = .timeout x :: rest → step s = exec (.nvmeTimeout x) r)) ∧
  (∀ (s : State) (rest : List Turn), s.choose = none →
    (s.agenda = [] → step s = .next (s.tick 1)) ∧
    (s.agenda = .pick :: rest → step s = .next ({ s with agenda := rest }.tick 1)) ∧
    (∀ n, s.agenda = .idle n :: rest → step s = .next ({ s with agenda := if n ≤ 1 then rest else .idle (n - 1) :: rest }.tick 1))) ∧
  (∀ (s : State) (n : Nat), (s.tick n).clk = s.clk + n ∧ (s.tick n).timers = (s.timers.filter fun x => decide (s.clk + n < x.1)) ∧
    (s.tick n).agenda = s.agenda ++ (s.timers.filter fun x => decide (x.1 ≤ s.clk + n)).map fun x => x.2)

open Sys2Proof Sys2Proof.Machine Sys2Proof.Claims in
/-- The causes of a word in the order of R138: no instruction, a privileged one in a user wave, reserved bits of the comb's control word
at the first instruction executed in it, reserved parts of the word, the code of a literal's slot, a literal in slot 7.
A point the manual leaves open is as log entry 16 says. -/
def Obligations.WordCauses : Prop :=
  (∀ word, decodeWord word = .illegalOp ↔ NoInstruction word) ∧
  (∀ word, privilegedWord word = true ↔ 0xD0000000 ≤ word.toNat ∧ word.toNat < 0xE0000000 ∧ word.toNat / 2 ^ 24 ≠ 0xD0 ∧
    (word.toNat / 2 ^ 24 = 0xD1 → 0x40 ≤ word.toNat % 2 ^ 8) ∧ (word.toNat / 2 ^ 24 = 0xD2 → word.toNat % 2 ^ 8 ≠ 2)) ∧
  ∀ (privileged fresh : Bool) (word ctl : Word) (slot : Nat), 1 ≤ slot → slot ≤ 7 →
    (NoInstruction word → wordCause privileged fresh word ctl slot = some (0x01, 0)) ∧
    (¬NoInstruction word →
      (privilegedWord word = true ∧ privileged = false → wordCause privileged fresh word ctl slot = some (0x08, 0)) ∧
      (privilegedWord word = false ∨ privileged = true →
        (fresh = true ∧ ctl.toNat / 2 ^ 29 ≠ 0 → wordCause privileged fresh word ctl slot = some (0x02, 2)) ∧
        (fresh = false ∨ ctl.toNat / 2 ^ 29 = 0 →
          (∀ n, decodeWord word = .reservedField n → wordCause privileged fresh word ctl slot = some (0x02, n) ∧ (n = 1 ∨ n = 4) ∧
            (n = 4 ↔ word.toNat / 2 ^ 24 = 1)) ∧
          (∀ i, decodeWord word = .ok i →
            wordCause privileged fresh word ctl slot =
              if word.toNat / 2 ^ 24 = 2 ∧ slot < 7 ∧ ctl.toNat / 2 ^ (4 * slot) % 16 ≠ 0 then some (0x02, 3)
              else if word.toNat / 2 ^ 24 = 2 ∧ slot = 7 then some (0x03, 4) else none))))

open Sys2Proof Sys2Proof.Machine Sys2Proof.Claims in
/-- The causes that an instruction's operands meet, before anything of it is done (R24, R128 to R138, R163, R360, R383): a privileged
instruction in a user wave; operands that row 0x1, the pairs and the predicates refuse, the lowest field first (that order is the
model's choice, log entry 12); a register behind the window; a type that the entry does not have; an early read under the pace check.
Points the manual leaves open are as log entries 12, 13, 14, 15 say. -/
def Obligations.OperandCauses : Prop :=
  (∀ (s : State) (c : Ctx) (i : Instr), s.ctx? = some c → PrivilegedForm i → c.privileged = false →
    exec i s = .next (c.raise ⟨0x08, 0, 0, c.act⟩)) ∧
  (∀ (s : State) (c : Ctx) (i : Instr) (d a b : Reg) R, s.ctx? = some c → Row1 i = some (d, a, b, R) →
    (BadTarget1 d a b → exec i s = .next (c.raise ⟨0x03, 1, 0, c.act⟩)) ∧
    (¬BadTarget1 d a b → BadSource1 a → exec i s = .next (c.raise ⟨0x03, 2, 0, c.act⟩)) ∧
    (¬BadTarget1 d a b → ¬BadSource1 a → BadSource1 b → exec i s = .next (c.raise ⟨0x03, 3, 0, c.act⟩))) ∧
  (∀ (s : State) (c : Ctx) (n : Fin 192) (a b : Reg), s.ctx? = some c → (∀ m, a ≠ .c m) → (∀ m, b ≠ .c m) →
    ∀ i ∈ [Instr.add64 (.v n) a b, .sub64 (.v n) a b],
      (n.val % 2 = 1 → exec i s = .next (c.raise ⟨0x03, 1, 0, c.act⟩)) ∧
      (n.val % 2 = 0 → OddReg a → exec i s = .next (c.raise ⟨0x03, 2, 0, c.act⟩)) ∧
      (n.val % 2 = 0 → ¬OddReg a → OddReg b → exec i s = .next (c.raise ⟨0x03, 3, 0, c.act⟩))) ∧
  (∀ (s : State) (c : Ctx) (p q r : PredField), s.ctx? = some c →
    ∀ i ∈ [Instr.qand p q r, .qor p q r, .qxor p q r],
      (8 ≤ p.toNat → exec i s = .next (c.raise ⟨0x03, 1, 0, c.act⟩)) ∧
      (p.toNat < 8 → 8 ≤ q.toNat → exec i s = .next (c.raise ⟨0x03, 2, 0, c.act⟩)) ∧
      (p.toNat < 8 → q.toNat < 8 → 8 ≤ r.toNat → exec i s = .next (c.raise ⟨0x03, 3, 0, c.act⟩))) ∧
  (∀ (s : State) (c : Ctx) (i : Instr) (d a b : Fin 192) R, s.ctx? = some c → Row1 i = some (.v d, .v a, .v b, R) →
    (c.w.n ≤ d.val → exec i s = .next (c.raise ⟨0x04, d.val, 0, c.act⟩)) ∧
    (d.val < c.w.n → c.w.n ≤ a.val → exec i s = .next (c.raise ⟨0x04, a.val, 0, c.act⟩)) ∧
    (d.val < c.w.n → a.val < c.w.n → c.w.n ≤ b.val → exec i s = .next (c.raise ⟨0x04, b.val, 0, c.act⟩)) ∧
    (d.val < c.w.n → a.val < c.w.n → b.val < c.w.n → c.w.pacecheck = true →
      (∃ e ∈ c.p.inflight, 0 < e.left ∧ e.reg = .v a.val) → (∀ e ∈ c.p.inflight, 0 < e.left → e.reg = .v a.val) →
        exec i s = .next (c.raise ⟨0x06, a.val, 0, c.act⟩))) ∧
  (∀ (s : State) (c : Ctx) (i : Instr) (row : TypedRow), s.ctx? = some c → typedRow c i = some row → modeType c.mode < 16 →
    operandFault c.mode i = none → rangeFault c.w.n (namedRegs c.mode i) = none → row.legal.contains (modeType c.mode) = false →
      exec i s = .next (c.raise ⟨0x07, modeType c.mode, 0, c.act⟩))

open Sys2Proof Sys2Proof.Machine Sys2Proof.Claims in
/-- Words written out from the formats of R127 to R129 and the opcode map of R135 decode to the instructions they stand for. -/
def Obligations.WordsDecode : Prop :=
  decodeWord 0x00000000#32 = .ok .nop ∧
  decodeWord 0x01000200#32 = .ok (.mode 0x000200#24) ∧
  decodeWord 0x02050000#32 = .ok (.ldlit (.v 5)) ∧
  decodeWord 0x03FFFFFC#32 = .ok (.bra 0xFFFFFC#24) ∧
  decodeWord 0x0400C800#32 = .ok (.brx (.k 8)) ∧
  decodeWord 0x1007E3E1#32 = .ok (.iadd (.v 7) (.c 3) (.c 1)) ∧
  decodeWord 0x30010A0B#32 = .ok (.icmpeq 1#8 (.v 10) (.v 11)) ∧
  decodeWord 0x43060505#32 = .ok (.fma (.v 6) (.v 5) (.v 5)) ∧
  decodeWord 0x6408C403#32 = .ok (.ld32 (.v 8) (.k 4) (.v 3)) ∧
  decodeWord 0x70030601#32 = .ok (.fence 3#8 6#8 1#8) ∧
  decodeWord 0x80800010#32 = .ok (.tryT true 0x10#23) ∧
  decodeWord 0x85000002#32 = .ok (.barw 2#8) ∧
  decodeWord 0x91C2C300#32 = .ok (.fcommit (.k 2) (.k 3)) ∧
  decodeWord 0xA003C800#32 = .ok (.tdef 3#8 (.k 8)) ∧
  decodeWord 0xB1010305#32 = .ok (.mma 1#8 3#8 5#8) ∧
  decodeWord 0xC0081002#32 = .ok (.rayq (.v 8) (.v 16) 2#8) ∧
  decodeWord 0xD0C20000#32 = .ok (.rdtime (.k 2)) ∧
  decodeWord 0xD200C402#32 = .ok (.wrsr (.k 4) 2#8) ∧
  decodeWord 0x00000001#32 = .reservedField 1 ∧
  decodeWord 0x01000201#32 = .reservedField 4 ∧
  decodeWord 0x7F000000#32 = .illegalOp ∧
  decodeWord 0xE0000000#32 = .illegalOp

open Sys2Proof Sys2Proof.Machine Sys2Proof.Claims in
/-- DECODE AND ENCODE AGREE: the word of every instruction whose mode image, if it has one, is legal decodes to it, with every operand; a word
that decodes to an instruction is the word of exactly that one; the four bytes of a word, lowest first, give the word back (R8, R127 to R135). -/
def Obligations.DecodeEncodeAgree : Prop :=
  (∀ (i : Instr) (word : Word), encode i = some word → imageOk i = true → decodeWord word = .ok i) ∧
  (∀ (word : Word) (i : Instr), decodeWord word = .ok i → encode i = some word ∧ imageOk i = true) ∧
  (∀ word : Word, decodeBytes (wordBytes word) = decodeWord word) ∧
  (∀ (m : ModeImage) (i : Instr), wellFormed m i = true → ∃ word, encode i = some word ∧ decodeTableWord 32 word.toNat = some i)

open Sys2Proof Sys2Proof.Machine Sys2Proof.Claims in
/-- AN INVARIANT THAT EVERY STEP KEEPS: memory and the homes' lines stay in canonical form, whatever instruction runs, and no step stops
the machine: a trap, an abort and a wait are next states (R357, R207). -/
def Obligations.MemoryStaysCanonical : Prop :=
  ∀ s : State, Canonical s → ∃ t, step s = .next t ∧ Canonical t

open Sys2Proof Sys2Proof.Machine Sys2Proof.Claims in
/-- What device reset leaves (R331, R411, R353, R367, R133): every register of every queue page, the defaults of the base-die window, the
die at which placement starts, the block of a new context, the mode of a new path; and memory in canonical form, with nothing
listed (what an unlisted byte reads as is the model's choice, log entry 5).
Points the manual leaves open are as log entries 5, 7, 9 say. -/
def Obligations.ResetState : Prop :=
  Canonical State.reset ∧ State.reset.mem = [] ∧ State.reset.clk = 0 ∧ State.reset.groups = [] ∧
  (∀ q, q < 256 →
    ((State.reset.queue q).ringBase = 0#64 ∧ (State.reset.queue q).logSlots = 4 ∧ (State.reset.queue q).level = q / 64 ∧
      (State.reset.queue q).enable = false ∧ (State.reset.queue q).quantum = 65536#32 ∧ (State.reset.queue q).tail = 0#32 ∧
      (State.reset.queue q).head = 0#32 ∧ (State.reset.queue q).errlogBase = 0#64 ∧ (State.reset.queue q).errlogCount = 0#32 ∧
      (State.reset.queue q).ctx = 0)) ∧
  State.reset.window.spillSize = 2 * 2 ^ 30 ∧ State.reset.window.linkWindow = 2000 ∧
  (State.reset.lastDie + 1) % 4 = 0 ∧
  ({} : Context).slice = 0#32 ∧ ({} : Context).d1 = 200#32 ∧ ({} : Context).d2 = 2000#32 ∧ ({} : Context).wdLimit = 1367188#32 ∧
  ({} : Context).traceCfg = 0#32 ∧ ({} : Context).saveBase = 0#64 ∧ modeStart = 0x000200#24
end

