-- ==== Sys2Proof/Laws/Tab.lean ====
section
/-!
SUPPORT. Sys2Proof/Laws/Tab.lean: the laws of sparse tables: a read after a write, writes elsewhere, and the operations that keep the
canonical form.
-/

namespace Sys2Proof.Machine.Tab

variable {α : Type}

/-! ## Reads after writes -/

@[simp] theorem find?_nil (k : Nat) : find? ([] : Tab α) k = none := rfl
@[simp] theorem get_nil (d : α) (k : Nat) : get d ([] : Tab α) k = d := rfl

@[simp] theorem find?_set_self (t : Tab α) (k : Nat) (x : α) : find? (set t k x) k = some x := by
  induction t with
  | nil => simp [set, find?]
  | cons p t ih =>
    obtain ⟨a, y⟩ := p
    unfold set
    split
    · simp [find?]
    · split
      · simp [find?]
      · simp [find?, *]

theorem find?_set_other (t : Tab α) {k j : Nat} (x : α) (h : j ≠ k) : find? (set t k x) j = find? t j := by
  induction t with
  | nil => simp [set, find?, Ne.symm h]
  | cons p t ih =>
    obtain ⟨a, y⟩ := p
    unfold set
    split
    · simp [find?, Ne.symm h]
    · split
      · subst_vars; simp [find?, Ne.symm h]
      · simp [find?, ih]

@[simp] theorem find?_erase_self (t : Tab α) (k : Nat) : find? (erase t k) k = none := by
  induction t with
  | nil => rfl
  | cons p t ih =>
    obtain ⟨a, y⟩ := p
    unfold erase
    split
    · exact ih
    · simp [find?, *]

theorem find?_erase_other (t : Tab α) {k j : Nat} (h : j ≠ k) : find? (erase t k) j = find? t j := by
  induction t with
  | nil => rfl
  | cons p t ih =>
    obtain ⟨a, y⟩ := p
    unfold erase
    split
    · subst_vars; simp [find?, Ne.symm h, ih]
    · simp [find?, ih]

@[simp] theorem get_set_self (d : α) (t : Tab α) (k : Nat) (x : α) : get d (set t k x) k = x := by simp [get]

theorem get_set_other (d : α) (t : Tab α) {k j : Nat} (x : α) (h : j ≠ k) : get d (set t k x) j = get d t j := by
  simp [get, find?_set_other t x h]

theorem find?_mapVals (f : Nat → α → α) (t : Tab α) (k : Nat) : find? (mapVals f t) k = (find? t k).map (f k) := by
  induction t with
  | nil => rfl
  | cons p t ih =>
    obtain ⟨a, y⟩ := p
    simp only [mapVals, find?]
    split
    · subst_vars; rfl
    · exact ih

section
variable [DecidableEq α]

@[simp] theorem get_put_self (d : α) (t : Tab α) (k : Nat) (x : α) : get d (put d t k x) k = x := by
  unfold put
  split
  · simp [get, *]
  · simp [get]

theorem get_put_other (d : α) (t : Tab α) {k j : Nat} (x : α) (h : j ≠ k) : get d (put d t k x) j = get d t j := by
  unfold put
  split
  · simp [get, find?_erase_other t h]
  · simp [get, find?_set_other t x h]

theorem get_put (d : α) (t : Tab α) (k j : Nat) (x : α) : get d (put d t k x) j = if j = k then x else get d t j := by
  split
  · subst_vars; simp
  · exact get_put_other d t x ‹_›

theorem get_putAll_other (d : α) (ws : List (Nat × α)) (t : Tab α) (j : Nat) (h : ∀ w ∈ ws, w.1 ≠ j) :
    get d (putAll d t ws) j = get d t j := by
  induction ws generalizing t with
  | nil => rfl
  | cons w ws ih =>
    rw [putAll, ih _ fun w hw => h w (List.mem_cons_of_mem _ hw)]
    exact get_put_other d t _ (h w (List.mem_cons_self ..)).symm

end

/-! ## The canonical form -/

theorem sortedFrom_weaken {b c : Nat} (h : c ≤ b) : {t : Tab α} → sortedFrom b t → sortedFrom c t
  | [], _ => rfl
  | (a, x) :: t, ht => by
    simp only [sortedFrom, Bool.and_eq_true, decide_eq_true_eq] at *
    exact ⟨Nat.le_trans h ht.1, ht.2⟩

theorem sortedFrom_set {b k : Nat} (hk : b ≤ k) (x : α) : {t : Tab α} → sortedFrom b t → sortedFrom b (set t k x)
  | [], _ => by simp [set, sortedFrom, hk]
  | (a, y) :: t, ht => by
    simp only [sortedFrom, Bool.and_eq_true, decide_eq_true_eq] at ht
    unfold set
    split
    · simp only [sortedFrom, Bool.and_eq_true, decide_eq_true_eq]
      exact ⟨hk, by omega, ht.2⟩
    · split
      · subst_vars; simp only [sortedFrom, Bool.and_eq_true, decide_eq_true_eq]; exact ⟨hk, ht.2⟩
      · simp only [sortedFrom, Bool.and_eq_true, decide_eq_true_eq]
        exact ⟨ht.1, sortedFrom_set (by omega) x ht.2⟩

theorem sortedFrom_erase {b : Nat} (k : Nat) : {t : Tab α} → sortedFrom b t → sortedFrom b (erase t k)
  | [], _ => rfl
  | (a, y) :: t, ht => by
    simp only [sortedFrom, Bool.and_eq_true, decide_eq_true_eq] at ht
    unfold erase
    split
    · exact sortedFrom_weaken (by omega) (sortedFrom_erase k ht.2)
    · simp only [sortedFrom, Bool.and_eq_true, decide_eq_true_eq]
      exact ⟨ht.1, sortedFrom_erase k ht.2⟩

theorem sortedFrom_keep {b : Nat} (p : Nat → α → Bool) : {t : Tab α} → sortedFrom b t → sortedFrom b (keep p t)
  | [], _ => rfl
  | (a, y) :: t, ht => by
    simp only [sortedFrom, Bool.and_eq_true, decide_eq_true_eq] at ht
    unfold keep
    split
    · simp only [sortedFrom, Bool.and_eq_true, decide_eq_true_eq]
      exact ⟨ht.1, sortedFrom_keep p ht.2⟩
    · exact sortedFrom_weaken (by omega) (sortedFrom_keep p ht.2)

theorem sortedFrom_mapVals {b : Nat} (f : Nat → α → α) : {t : Tab α} → sortedFrom b t → sortedFrom b (mapVals f t)
  | [], _ => rfl
  | (a, y) :: t, ht => by
    simp only [sortedFrom, mapVals, Bool.and_eq_true, decide_eq_true_eq] at *
    exact ⟨ht.1, sortedFrom_mapVals f ht.2⟩

/-- A key below the bound of a sorted table is not listed. -/
theorem find?_below {b k : Nat} (hk : k < b) : {t : Tab α} → sortedFrom b t → find? t k = none
  | [], _ => rfl
  | (a, y) :: t, ht => by
    simp only [sortedFrom, Bool.and_eq_true, decide_eq_true_eq] at ht
    rw [find?, if_neg (by omega)]
    exact find?_below (by omega) ht.2

theorem find?_keep {b : Nat} (p : Nat → α → Bool) (k : Nat) : {t : Tab α} → sortedFrom b t →
    find? (keep p t) k = (find? t k).filter (p k)
  | [], _ => rfl
  | (a, y) :: t, ht => by
    simp only [sortedFrom, Bool.and_eq_true, decide_eq_true_eq] at ht
    simp only [keep, find?]
    have ih := find?_keep p k ht.2
    by_cases hp : p a y = true
    · rw [if_pos hp]
      by_cases ha : a = k
      · subst ha; simp [find?, Option.filter, hp]
      · simp [find?, ha, ih]
    · rw [if_neg hp, ih]
      by_cases ha : a = k
      · subst ha; rw [find?_below (Nat.lt_succ_self a) ht.2]; simp [Option.filter, hp]
      · simp [ha]

theorem mem_set {t : Tab α} {k : Nat} {x : α} {p : Nat × α} (h : p ∈ set t k x) : p = (k, x) ∨ p ∈ t := by
  induction t with
  | nil => simpa [set] using h
  | cons q t ih =>
    obtain ⟨a, y⟩ := q
    unfold set at h
    split at h
    · simpa using h
    · split at h
      · rcases List.mem_cons.1 h with h | h
        · exact .inl h
        · exact .inr (List.mem_cons_of_mem _ h)
      · rcases List.mem_cons.1 h with h | h
        · exact .inr (h ▸ List.mem_cons_self ..)
        · rcases ih h with h | h
          · exact .inl h
          · exact .inr (List.mem_cons_of_mem _ h)

theorem mem_erase {t : Tab α} {k : Nat} {p : Nat × α} (h : p ∈ erase t k) : p ∈ t := by
  induction t with
  | nil => exact h
  | cons q t ih =>
    obtain ⟨a, y⟩ := q
    unfold erase at h
    split at h
    · exact List.mem_cons_of_mem _ (ih h)
    · rcases List.mem_cons.1 h with h | h
      · exact h ▸ List.mem_cons_self ..
      · exact List.mem_cons_of_mem _ (ih h)

theorem mem_keep {q : Nat → α → Bool} {t : Tab α} {p : Nat × α} (h : p ∈ keep q t) : p ∈ t := by
  induction t with
  | nil => exact h
  | cons r t ih =>
    obtain ⟨a, y⟩ := r
    unfold keep at h
    split at h
    · rcases List.mem_cons.1 h with h | h
      · exact h ▸ List.mem_cons_self ..
      · exact List.mem_cons_of_mem _ (ih h)
    · exact List.mem_cons_of_mem _ (ih h)

section
variable [DecidableEq α] {d : α}

theorem wf_iff {t : Tab α} : wf d t ↔ sortedFrom 0 t ∧ ∀ p ∈ t, p.2 ≠ d := by simp [wf]

@[simp] theorem wf_nil : wf d ([] : Tab α) := rfl

theorem wf_put {t : Tab α} (k : Nat) (x : α) (h : wf d t) : wf d (put d t k x) := by
  rw [wf_iff] at *
  unfold put
  split
  · exact ⟨sortedFrom_erase k h.1, fun p hp => h.2 p (mem_erase hp)⟩
  · refine ⟨sortedFrom_set (Nat.zero_le k) x h.1, fun p hp => ?_⟩
    rcases mem_set hp with rfl | hp
    · assumption
    · exact h.2 p hp

theorem wf_putAll (ws : List (Nat × α)) {t : Tab α} (h : wf d t) : wf d (putAll d t ws) := by
  induction ws generalizing t with
  | nil => exact h
  | cons w ws ih => exact ih (wf_put w.1 w.2 h)

theorem wf_erase {t : Tab α} (k : Nat) (h : wf d t) : wf d (erase t k) := by
  rw [wf_iff] at *
  exact ⟨sortedFrom_erase k h.1, fun p hp => h.2 p (mem_erase hp)⟩

theorem wf_keep (q : Nat → α → Bool) {t : Tab α} (h : wf d t) : wf d (keep q t) := by
  rw [wf_iff] at *
  exact ⟨sortedFrom_keep q h.1, fun p hp => h.2 p (mem_keep hp)⟩

/-- Folding writes over any list keeps the form. -/
theorem wf_foldl_put {β : Type} (f : Tab α → β → Tab α) (hf : ∀ t b, wf d t → wf d (f t b)) (l : List β) {t : Tab α}
    (h : wf d t) : wf d (l.foldl f t) := by
  induction l generalizing t with
  | nil => exact h
  | cons b l ih => exact ih (hf t b h)

end

/-- Tables in canonical form that read alike are equal: equal contents are equal data. -/
theorem ext_of_wf {d : α} : {t u : Tab α} → {b : Nat} → sortedFrom b t → sortedFrom b u → (∀ p ∈ t, p.2 ≠ d) → (∀ p ∈ u, p.2 ≠ d) →
    (∀ k, get d t k = get d u k) → t = u
  | [], [], _, _, _, _, _, _ => rfl
  | (a, x) :: t, [], _, _, _, hx, _, h => absurd (by simpa [get, find?] using h a) (hx (a, x) (List.mem_cons_self ..))
  | [], (a, x) :: u, _, _, _, _, hx, h => absurd (by simpa [get, find?] using (h a).symm) (hx (a, x) (List.mem_cons_self ..))
  | (a, x) :: t, (c, y) :: u, b, ht, hu, dt, du, h => by
    simp only [sortedFrom, Bool.and_eq_true, decide_eq_true_eq] at ht hu
    have hac : a = c := by
      rcases Nat.lt_trichotomy a c with hlt | rfl | hlt
      · have := h a
        rw [get, get, find?, if_pos rfl, find?, if_neg (by omega), find?_below (by omega) hu.2] at this
        exact absurd this (dt _ (List.mem_cons_self ..))
      · rfl
      · have := h c
        rw [get, get, find?, if_neg (by omega), find?_below (by omega) ht.2, find?, if_pos rfl] at this
        exact absurd this.symm (du _ (List.mem_cons_self ..))
    subst hac
    have hxy : x = y := by simpa [get, find?] using h a
    subst hxy
    rw [ext_of_wf ht.2 hu.2 (fun p hp => dt p (List.mem_cons_of_mem _ hp)) (fun p hp => du p (List.mem_cons_of_mem _ hp)) fun k => ?_]
    by_cases hk : a = k
    · subst hk; rw [get, get, find?_below (Nat.lt_succ_self a) ht.2, find?_below (Nat.lt_succ_self a) hu.2]
    · have := h k
      simpa [get, find?, hk] using this

end Sys2Proof.Machine.Tab
end

