-- ==== Sys2Proof/Laws/Issue.lean ====
section
/-!
SUPPORT. Sys2Proof/Laws/Issue.lean: what the frame of every meaning (`issue`, `Ctx.finish`) does, said once: the statements about an
instruction's result rest on `issue_done`.
-/

namespace Sys2Proof.Claims

open Machine

/-- Context e' is the path c with an effect on the device, the group, registers and other parts of its wave, its lanes and its
mode; the transaction is as in c. -/
structure Effect (c e : Ctx) : Prop where
  gk : e.gk = c.gk
  wi : e.wi = c.wi
  slotB : e.slotB = c.slotB
  cur : e.cur = c.cur
  tx : e.w.tx = c.w.tx

theorem Effect.refl (c : Ctx) : Effect c c := ⟨rfl, rfl, rfl, rfl, rfl⟩

theorem mixEarly_nil (c b : Ctx) (clk : Nat) : c.mixEarly b clk [] = c := rfl

/-- The checkpoint of an instruction that has room. -/
theorem checkpoint_room {i : Instr} {c e : Ctx} (h : Room i c) (he : e.w.tx = c.w.tx) :
    ∃ tx, Ctx.checkpoint i c e = some { e with w := { e.w with tx := tx } } ∧ SameTx e.w { e.w with tx := tx } := by
  unfold Ctx.checkpoint
  cases ht : c.w.tx with
  | none =>
    rw [ht] at he
    refine ⟨none, ?_, .inl he.symm⟩
    simp only [he]
    rw [← he]
  | some t =>
    rw [ht] at he
    simp only [he]
    by_cases hm : (if (shape i).guard = true then c.resultLanes i else c.act) &&& t.members = 0#32
    · rw [if_pos hm]
      exact ⟨some t, by rw [← he], .inl he.symm⟩
    · rw [if_neg hm]
      rcases h t ht with h | h
      · exact absurd h hm
      · rw [if_neg (by omega)]
        refine ⟨_, rfl, .inr ⟨t, (t.shadowed c.w (writtenNames c.mode i)).shadow, he, ?_⟩⟩
        unfold Tx.shadowed
        generalize writtenNames c.mode i = names
        clear h hm ht he
        induction names generalizing t with
        | nil => rfl
        | cons n r ih =>
          simp only [List.foldl_cons]
          split
          · exact ih t
          · exact ih _

/-- What the scoreboard does when it takes results. -/
theorem scoreboard_eq (e b : Ctx) (names : List RegName) (lanes : LaneMask) :
    ∃ ser ag sb, e.scoreboard b names lanes =
        { e with s := { e.s with serial := ser, agenda := ag }, w := { e.w with scoreboard := sb } } ∧
      (ag = e.s.agenda ∨ ∃ n, ag = e.s.agenda ++ [.event (.resultWriteback e.gk e.wi n)]) := by
  unfold Ctx.scoreboard
  split
  · exact ⟨e.s.serial, e.s.agenda, e.w.scoreboard, rfl, .inl rfl⟩
  · exact ⟨_, _, _, rfl, .inr ⟨_, rfl⟩⟩

/-- The dead marks that an instruction sets are all that they change of a wave. -/
theorem marks_eq (written : Nat → LaneMask) (act : LaneMask) (l : List Nat) (w : Wave) :
    ∃ dead, l.foldl (fun (w : Wave) n =>
      { w with dead := w.dead.put 0#32 n (Tab.get 0#32 w.dead n ||| (act &&& ~~~written n)) }) w = { w with dead := dead } := by
  induction l generalizing w with
  | nil => exact ⟨_, rfl⟩
  | cons n l ih =>
    obtain ⟨d, hd⟩ := ih { w with dead := w.dead.put 0#32 n (Tab.get 0#32 w.dead n ||| (act &&& ~~~written n)) }
    exact ⟨d, hd⟩

/-- What the core's count of vector issue changes. -/
theorem noteVector_eq (s : State) (core : Nat) :
    ∃ v, s.noteVector core = { s with vector := v } ∧ ∀ k, k ≠ core → v.find? k = s.vector.find? k :=
  ⟨_, rfl, fun _ hk => Tab.find?_set_other _ _ hk⟩

theorem setPace_eq (w : Wave) (b : Bool) (t : Nat) : ∃ x y, w.setPace b t = { w with paceA := x, paceB := y } := by
  cases b <;> exact ⟨_, _, rfl⟩
theorem setYield_eq (w : Wave) (b y : Bool) : ∃ u v, w.setYield b y = { w with yieldA := u, yieldB := v } := by
  cases b <;> exact ⟨_, _, rfl⟩

/-- What retiring an instruction leaves of a context when no write comes out of order: registers stay as its effect left them. -/
theorem retire_eq (i : Instr) (c e : Ctx)
    (ho : ∀ clk, latency c.mode i = .fixed clk → writesEarly clk (writtenNames c.mode i) c.p.inflight = []) :
    ∃ ser ag sb dead xa xb ya yb fl vec p,
      Ctx.retire i c e =
        { e with s := { e.s with free := e.s.free + 1, serial := ser, agenda := ag, vector := vec },
                 w := { e.w with scoreboard := sb, dead := dead, paceA := xa, paceB := xb, yieldA := ya, yieldB := yb, flights := fl,
                                 lastB := c.slotB, issuedAt := e.s.clk + 1 },
                 p := p } ∧
      (ag = e.s.agenda ∨ ∃ n, ag = e.s.agenda ++ [.event (.resultWriteback e.gk e.wi n)]) ∧
      (∀ k, k ≠ c.core → vec.find? k = e.s.vector.find? k) ∧
      p.pc = e.p.pc ∧ p.mask = e.p.mask ∧ p.mode = e.p.mode := by
  unfold Ctx.retire
  extract_lets names lanes c₁ w₁ w₂ s₂
  have hc : ∃ ser ag sb, c₁ = { e with s := { e.s with serial := ser, agenda := ag }, w := { e.w with scoreboard := sb } } ∧
      (ag = e.s.agenda ∨ ∃ n, ag = e.s.agenda ++ [.event (.resultWriteback e.gk e.wi n)]) := by
    have same : ∃ ser ag sb, e = { e with s := { e.s with serial := ser, agenda := ag }, w := { e.w with scoreboard := sb } } ∧
        (ag = e.s.agenda ∨ ∃ n, ag = e.s.agenda ++ [.event (.resultWriteback e.gk e.wi n)]) := ⟨_, _, _, rfl, .inl rfl⟩
    simp only [c₁]
    cases hl : latency c.mode i with
    | fixed clk =>
      simp only [names, ho clk hl, mixEarly_nil]
      exact same
    | varying =>
      simp only
      split
      · exact same
      · exact scoreboard_eq ..
    | nothing => exact same
  have hw : ∃ dead, w₁ = { c₁.w with dead := dead } := by
    simp only [w₁]
    split
    · exact marks_eq (fun n => if names.contains (.v n) && !reportsLater i then lanes else 0#32) ..
    · exact ⟨_, rfl⟩
  obtain ⟨ser, ag, sb, hc, ha⟩ := hc
  obtain ⟨dead, hw⟩ := hw
  have hw2 : ∃ xa xb ya yb, w₂ = { w₁ with paceA := xa, paceB := xb, yieldA := ya, yieldB := yb } := by
    obtain ⟨x, y, h1⟩ := setPace_eq w₁ c.slotB (c₁.s.clk + 1 + paceOf c.cur.code + bankDelay c.mode i)
    obtain ⟨u, v, h2⟩ := setYield_eq (w₁.setPace c.slotB (c₁.s.clk + 1 + paceOf c.cur.code + bankDelay c.mode i)) c.slotB (i == .yield)
    exact ⟨x, y, u, v, by simp only [w₂]; rw [h2, h1]⟩
  have hs : ∃ vec, s₂ = { c₁.s with vector := vec } ∧ ∀ k, k ≠ c.core → vec.find? k = c₁.s.vector.find? k := by
    simp only [s₂]
    split
    · exact noteVector_eq ..
    · exact ⟨_, rfl, fun _ _ => rfl⟩
  obtain ⟨xa, xb, ya, yb, hw2⟩ := hw2
  obtain ⟨vec, hs, hv⟩ := hs
  clear_value c₁ w₁ w₂ s₂
  subst hs hw2 hw hc
  exact ⟨ser, ag, sb, dead, xa, xb, ya, yb, _, vec, _, rfl, ha, hv, rfl, rfl, rfl⟩

/-- What goes with the path's step to its next instruction: its slot may be ranked last. -/
theorem goOn_eq (c b : Ctx) (pc : Word) :
    ∃ ya yb, c.goOn b pc = { c with w := { c.w with yieldA := ya, yieldB := yb }, p := { c.p with pc := pc } } := by
  simp only [Ctx.goOn]
  split
  · cases b.slotB <;> exact ⟨_, _, rfl⟩
  · exact ⟨_, _, rfl⟩

theorem slot_setSlot_self (w : Wave) (b : Bool) (p : Option Path) : (w.setSlot b p).slot b = p := by cases b <;> rfl
theorem slot_setSlot_other (w : Wave) (b : Bool) (p : Option Path) : (w.setSlot b p).slot (!b) = w.slot (!b) := by cases b <;> rfl

/-- WHAT AN INSTRUCTION LEAVES WHOSE MEANING ANSWERS `.done e`: the machine as its effect e makes it, its path behind the instruction. -/
theorem finish_done {i : Instr} {legal : ModeImage → Bool} {s : State} {c e : Ctx} (h : Issues i legal s c) (he : Effect c e) :
    ∃ t w, Ctx.finish i c (.done e) = t ∧ Completed e c.cur.next t w ∧ w.v = e.w.v ∧ w.k = e.w.k ∧ w.q = e.w.q := by
  obtain ⟨tx, hc, ht⟩ := checkpoint_room h.room he.tx
  obtain ⟨ser, ag, sb, dead, xa, xb, ya, yb, fl, vec, p, hr, ha, hv, hpc, hpm, hpo⟩ :=
    retire_eq i c { e with w := { e.w with tx := tx } } h.inOrder
  obtain ⟨za, zb, hg⟩ := goOn_eq (Ctx.retire i c { e with w := { e.w with tx := tx } }) c c.cur.next
  rw [hr] at hg
  have hcore : coreOfGroup e.gk = c.core := congrArg coreOfGroup he.gk
  simp only [Ctx.finish, hc, hr, hg, Ctx.putPath, Ctx.putWave]
  refine ⟨_, _, rfl, ⟨⟨rfl, fun k hk => Tab.find?_set_other _ _ hk, fun k hk => hv k (hcore ▸ hk), ha⟩, Tab.find?_set_self .., ?_, ?_, ?_, ?_⟩, ?_⟩
  · cases e.slotB <;> rfl
  · rcases ht with ht | ⟨t, sh, h1, h2⟩
    · refine .inl ?_
      cases e.slotB <;> exact ht
    · refine .inr ⟨t, sh, h1, ?_⟩
      cases e.slotB <;> exact h2
  · exact slot_setSlot_other ..
  · exact ⟨_, slot_setSlot_self .., rfl, hpm, hpo⟩
  · cases e.slotB <;> exact ⟨rfl, rfl, rfl⟩

/-- The same for a whole instruction. -/
theorem issue_done {i : Instr} {legal : ModeImage → Bool} {s : State} {c e : Ctx} {body : Ctx → Res} (h : Issues i legal s c)
    (hb : body c = .done e) (he : Effect c e) :
    ∃ t w, issue i legal s body = .next t ∧ Completed e c.cur.next t w ∧ w.v = e.w.v ∧ w.k = e.w.k ∧ w.q = e.w.q := by
  obtain ⟨t, w, ht, hw⟩ := finish_done h he
  refine ⟨t, w, ?_, hw⟩
  simp only [issue, h.acts, h.clean, h.free, hb, ht, Bool.false_eq_true, if_false]

/-- An instruction whose effect is on registers alone. -/
theorem Completed.registers {c e : Ctx} {pc : Word} {t : State} {w : Wave} (h : Completed e pc t w) (hs : e.s = c.s) (hg : e.g = c.g)
    (he : Effect c e) (hp : e.p = c.p) (hw : SameWave c.w e.w) (ho : e.w.slot (!c.slotB) = c.w.slot (!c.slotB)) :
    Completed c pc t w := by
  obtain ⟨h1, h2, h3, h4, h5, h6⟩ := h
  refine ⟨?_, ?_, ?_, ?_, ?_, ?_⟩
  · rw [← he.gk, ← he.wi, ← hs]; exact h1
  · rw [← he.gk, ← he.wi, ← hg]; exact h2
  · unfold SameWave at *; rw [h3, hw]
  · unfold SameTx at *; rwa [← he.tx]
  · rw [← he.slotB] at ho ⊢; rw [h5, ho]
  · rw [← he.slotB]
    obtain ⟨p, a, b, m, o⟩ := h6
    exact ⟨p, a, b, m.trans (congrArg Path.mask hp), o.trans (congrArg Path.mode hp)⟩

end Sys2Proof.Claims
end

