-- ==== Sys2Proof/Laws/Memory.lean ====
section
/-!
SUPPORT. Sys2Proof/Laws/Memory.lean: the laws of memory: a byte reads as it was last written, every other byte as before, and every
operation that writes memory or the homes' line table keeps the canonical form.
-/

namespace Sys2Proof.Machine

/-! ## Read after write -/

theorem State.byteAt_mem {s : State} {place : Nat} (h : isScratch place = false) : s.byteAt place = Tab.get 0#8 s.mem place := by
  simp [State.byteAt, h]

theorem State.mem_setByte {s : State} {place : Nat} (b : Byte) (h : isScratch place = false) :
    (s.setByte place b).mem = s.mem.put 0#8 place b := by simp [State.setByte, h]

theorem State.mem_setByte_scratch {s : State} {place : Nat} (b : Byte) (h : isScratch place = true) : (s.setByte place b).mem = s.mem := by
  simp only [State.setByte, h, if_true]
  split <;> rfl

/-- A byte reads as it was last written. -/
theorem State.byteAt_setByte_self {s : State} {place : Nat} (b : Byte) (h : isScratch place = false) :
    (s.setByte place b).byteAt place = b := by
  rw [byteAt_mem h, mem_setByte b h, Tab.get_put_self]

/-- A write to a byte of memory leaves every other byte of memory as it was. -/
theorem State.byteAt_setByte_other {s : State} {place other : Nat} (b : Byte) (h : isScratch other = false) (ne : other ≠ place) :
    (s.setByte place b).byteAt other = s.byteAt other := by
  rw [byteAt_mem h, byteAt_mem h]
  cases hp : isScratch place with
  | true => rw [mem_setByte_scratch b hp]
  | false => rw [mem_setByte b hp, Tab.get_put_other _ _ _ ne]

/-- Bytes written elsewhere leave a byte of memory as it was. -/
theorem State.byteAt_setBytes_other {place : Nat} (h : isScratch place = false) :
    (ws : List (Nat × Byte)) → (∀ x ∈ ws, x.1 ≠ place) → (s : State) → (s.setBytes ws).byteAt place = s.byteAt place
  | [], _, _ => rfl
  | (p, b) :: r, hw, s => by
    rw [State.setBytes, byteAt_setBytes_other h r (fun x hx => hw x (List.mem_cons_of_mem _ hx)),
      byteAt_setByte_other b h (Ne.symm (hw (p, b) (List.mem_cons_self ..)))]

theorem State.line_setLine_self (s : State) (n : Nat) (l : Line) : (s.setLine n l).line n = l := Tab.get_put_self ..

theorem State.line_setLine_other (s : State) {n k : Nat} (l : Line) (h : k ≠ n) : (s.setLine n l).line k = s.line k :=
  Tab.get_put_other _ _ _ h

/-! ## The canonical form -/

theorem reset_memory_wf : Memory.wf State.reset.mem = true := rfl

theorem State.setByte_wf {s : State} (place : Nat) (b : Byte) (h : Memory.wf s.mem = true) : Memory.wf (s.setByte place b).mem = true := by
  cases hp : isScratch place with
  | true => rw [mem_setByte_scratch b hp]; exact h
  | false => rw [mem_setByte b hp]; exact Tab.wf_put _ _ h

theorem State.setBytes_wf : (ws : List (Nat × Byte)) → {s : State} → Memory.wf s.mem = true → Memory.wf (s.setBytes ws).mem = true
  | [], _, h => h
  | (p, b) :: r, _, h => setBytes_wf r (setByte_wf p b h)

theorem State.setByte_lines (s : State) (place : Nat) (b : Byte) : (s.setByte place b).lines = s.lines := by
  unfold State.setByte
  split
  · split <;> rfl
  · rfl

theorem State.setBytes_lines : (ws : List (Nat × Byte)) → (s : State) → (s.setBytes ws).lines = s.lines
  | [], _ => rfl
  | (p, b) :: r, s => by rw [State.setBytes, setBytes_lines r, setByte_lines]

theorem State.setLine_wf {s : State} (n : Nat) (l : Line) (h : Tab.wf ({} : Line) s.lines = true) :
    Tab.wf ({} : Line) (s.setLine n l).lines = true := Tab.wf_put _ _ h

theorem Tab.keep_pred {α : Type} {q : Nat → α → Bool} : {t : Tab α} → {p : Nat × α} → p ∈ Tab.keep q t → q p.1 p.2 = true
  | [], _, h => nomatch h
  | (k, x) :: t, p, h => by
    unfold Tab.keep at h
    split at h
    · rcases List.mem_cons.mp h with rfl | h
      · assumption
      · exact keep_pred h
    · exact keep_pred h

/-- A table whose entries have changed is canonical again once the entries that say nothing are gone. -/
theorem Tab.wf_mapKeep {α : Type} [DecidableEq α] {d : α} (f : Nat → α → α) {t : Tab α} (h : Tab.wf d t = true) :
    Tab.wf d ((t.mapVals f).keep fun _ x => !decide (x = d)) = true := by
  rw [Tab.wf_iff] at h ⊢
  refine ⟨Tab.sortedFrom_keep _ (Tab.sortedFrom_mapVals _ h.1), fun p hp => ?_⟩
  simpa using Tab.keep_pred hp

theorem State.releaseLineCaps_wf {s : State} (g w : Nat) (h : Tab.wf ({} : Line) s.lines = true) :
    Tab.wf ({} : Line) (s.releaseLineCaps g w).lines = true := Tab.wf_mapKeep _ h

theorem State.dropPosted_wf {s : State} (p : PostedWrite → Bool) (h : Tab.wf ({} : Line) s.lines = true) :
    Tab.wf ({} : Line) (s.dropPosted p).lines = true := Tab.wf_mapKeep _ h

theorem State.forgetDie_wf {s : State} (d : Nat) (slices : Bool) (h : Tab.wf ({} : Line) s.lines = true) :
    Tab.wf ({} : Line) (s.forgetDie d slices).lines = true := Tab.wf_mapKeep _ h

theorem State.returnLine_wf {s : State} (line : Nat) (h : Tab.wf ({} : Line) s.lines = true) :
    Tab.wf ({} : Line) (s.returnLine line).lines = true := State.setLine_wf _ _ h

theorem State.recallHome_wf {s : State} (d : Nat) (h : Tab.wf ({} : Line) s.lines = true) :
    Tab.wf ({} : Line) (s.recallHome d).lines = true := by
  unfold State.recallHome
  generalize (s.lines.keysWhere _) = ls
  induction ls generalizing s with
  | nil => exact h
  | cons l ls ih => exact ih (State.returnLine_wf l h)

theorem State.undoNear_wf {s : State} (lines : List Nat) (h : Memory.wf s.mem = true) : Memory.wf (s.undoNear lines).mem = true :=
  setBytes_wf _ h

theorem State.copyFrame_wf {s : State} (bits src dst : Nat) (h : Memory.wf s.mem = true) : Memory.wf (s.copyFrame bits src dst).mem = true :=
  setBytes_wf _ (Tab.wf_keep _ h)

theorem State.dropVersions_wf {s : State} (tag : Nat) (h : Memory.wf s.mem = true) (hl : Tab.wf ({} : Line) s.lines = true) :
    Memory.wf (s.dropVersions tag).mem = true ∧ Tab.wf ({} : Line) (s.dropVersions tag).lines = true :=
  ⟨Tab.wf_keep _ h, Tab.wf_keep _ hl⟩

/-- Bytes that chance has changed are canonical when they are written one by one. -/
theorem deviceReset_wf (s : State) : ∃ t, execDeviceReset s = .next t ∧ Memory.wf t.mem = true ∧ t.lines = [] := by
  refine ⟨_, rfl, ?_, rfl⟩
  refine Tab.wf_foldl_put _ (fun t b ht => ?_) _ rfl
  split
  · exact Tab.wf_put _ _ ht
  · exact ht

end Sys2Proof.Machine
end

