-- ==== Sys2Proof/Laws/Words.lean ====
section
/-!
SUPPORT. Sys2Proof/Laws/Words.lean: what the fields of a word of each format are (R127), and that a register field names its register
(R129): the lemmas by which `decodeWord` of an encoded instruction reduces.
-/

namespace Sys2Proof

theorem toNat_join {m n : Nat} (x : BitVec m) (y : BitVec n) : (x ++ y).toNat = x.toNat * 2 ^ n + y.toNat := by
  rw [BitVec.toNat_append, Nat.shiftLeft_eq, Nat.mul_comm, ← Nat.two_pow_add_eq_or_of_lt y.isLt]

theorem toNat_wordR (op d a b : BitVec 8) :
    (wordR op d a b).toNat = ((op.toNat * 2 ^ 8 + d.toNat) * 2 ^ 8 + a.toNat) * 2 ^ 8 + b.toNat := by
  show (((op ++ d) ++ a) ++ b).toNat = _
  simp only [toNat_join]

theorem toNat_wordJ (op : BitVec 8) (x : BitVec 24) : (wordJ op x).toNat = op.toNat * 2 ^ 24 + x.toNat := toNat_join op x

theorem toNat_wordTry (op : BitVec 8) (f : Bool) (x : BitVec 23) :
    (wordTry op f x).toNat = (op.toNat * 2 + f.toNat) * 2 ^ 23 + x.toNat := by
  show ((op ++ BitVec.ofBool f) ++ x).toNat = _
  rw [toNat_join, toNat_join, BitVec.toNat_ofBool, Nat.pow_one]

theorem extract_toNat (w : Word) (s n : Nat) : (w.extractLsb' s n).toNat = w.toNat / 2 ^ s % 2 ^ n := by
  rw [BitVec.extractLsb'_toNat, Nat.shiftRight_eq_div_pow]

theorem opcodeOf_wordR (op d a b : BitVec 8) : opcodeOf (wordR op d a b) = op := by
  apply BitVec.eq_of_toNat_eq
  rw [opcodeOf, extract_toNat, toNat_wordR]
  have := op.isLt; have := d.isLt; have := a.isLt; have := b.isLt; omega

theorem fieldD_wordR (op d a b : BitVec 8) : fieldD (wordR op d a b) = d := by
  apply BitVec.eq_of_toNat_eq
  rw [fieldD, extract_toNat, toNat_wordR]
  have := d.isLt; have := a.isLt; have := b.isLt; omega

theorem fieldA_wordR (op d a b : BitVec 8) : fieldA (wordR op d a b) = a := by
  apply BitVec.eq_of_toNat_eq
  rw [fieldA, extract_toNat, toNat_wordR]
  have := a.isLt; have := b.isLt; omega

theorem fieldB_wordR (op d a b : BitVec 8) : fieldB (wordR op d a b) = b := by
  apply BitVec.eq_of_toNat_eq
  rw [fieldB, extract_toNat, toNat_wordR]
  have := b.isLt; omega

theorem opcodeOf_wordJ (op : BitVec 8) (x : BitVec 24) : opcodeOf (wordJ op x) = op := by
  apply BitVec.eq_of_toNat_eq
  rw [opcodeOf, extract_toNat, toNat_wordJ]
  have := op.isLt; have := x.isLt; omega

theorem low24_wordJ (op : BitVec 8) (x : BitVec 24) : low24 (wordJ op x) = x := by
  apply BitVec.eq_of_toNat_eq
  rw [low24, extract_toNat, toNat_wordJ]
  have := x.isLt; omega

theorem opcodeOf_wordTry (op : BitVec 8) (f : Bool) (x : BitVec 23) : opcodeOf (wordTry op f x) = op := by
  apply BitVec.eq_of_toNat_eq
  rw [opcodeOf, extract_toNat, toNat_wordTry]
  have := op.isLt; have := x.isLt; have := f.toNat_le; omega

theorem low23_wordTry (op : BitVec 8) (f : Bool) (x : BitVec 23) : low23 (wordTry op f x) = x := by
  apply BitVec.eq_of_toNat_eq
  rw [low23, extract_toNat, toNat_wordTry]
  have := x.isLt; omega

theorem bit23_wordTry (op : BitVec 8) (f : Bool) (x : BitVec 23) : bit23 (wordTry op f x) = f := by
  rw [bit23, BitVec.getLsbD, Nat.testBit, Nat.shiftRight_eq_div_pow, toNat_wordTry]
  have hx := x.isLt
  have h : ((op.toNat * 2 + f.toNat) * 2 ^ 23 + x.toNat) / 2 ^ 23 = op.toNat * 2 + f.toNat := by omega
  rw [h]
  cases f <;> simp

theorem ofField_toField (r : Reg) : Reg.ofField r.toField = r := by
  cases r with
  | v n =>
    have h : (BitVec.ofNat 8 n.val).toNat = n.val := by have := n.isLt; simp; omega
    simp [Reg.ofField, Reg.toField, h, n.isLt]
  | k n =>
    have h : (BitVec.ofNat 8 (192 + n.val)).toNat = 192 + n.val := by have := n.isLt; simp; omega
    have := n.isLt
    have h1 : ¬192 + n.val < 192 := by omega
    have h2 : 192 + n.val < 224 := by omega
    simp [Reg.ofField, Reg.toField, h, h2]
  | c n =>
    have h : (BitVec.ofNat 8 (224 + n.val)).toNat = 224 + n.val := by have := n.isLt; simp; omega
    have h1 : ¬224 + n.val < 192 := by omega
    have h2 : ¬224 + n.val < 224 := by omega
    simp [Reg.ofField, Reg.toField, h, h1, h2]

end Sys2Proof
end

