-- ==== Sys2Proof/Laws/PerInstr.lean ====
section
/-!
SUPPORT. Sys2Proof/Laws/PerInstr.lean: the family RoundTrip: the word of an instruction decodes to that instruction, whatever its operands
are. One lemma per constructor; a step of the device has no word.
-/

namespace Sys2Proof.Laws.RoundTrip

open Sys2Proof

/-- The word of i, if it has one and its mode image is legal, decodes to i. -/
def Statement (i : Instr) : Prop := ∀ w, encode i = some w → imageOk i = true → decodeWord w = .ok i

theorem mode (image : BitVec 24) : Statement (.mode image) := by
  intro w h hm; cases h
  have hm : modeLegal image = true := hm
  simp [decodeWord, decodeRow0, opcodeOf_wordJ, low24_wordJ, hm]

theorem ldlit (d : Reg) : Statement (.ldlit d) := by
  intro w h _; cases h
  simp [decodeWord, decodeRow0, opcodeOf_wordR, fieldD_wordR, fieldA_wordR, fieldB_wordR, ofField_toField, unused]

theorem bra (disp : BitVec 24) : Statement (.bra disp) := by
  intro w h _; cases h
  simp [decodeWord, decodeRow0, opcodeOf_wordJ, low24_wordJ]

theorem brx (a : Reg) : Statement (.brx a) := by
  intro w h _; cases h
  simp [decodeWord, decodeRow0, opcodeOf_wordR, fieldD_wordR, fieldA_wordR, fieldB_wordR, ofField_toField, unused]

theorem call (disp : BitVec 24) : Statement (.call disp) := by
  intro w h _; cases h
  simp [decodeWord, decodeRow0, opcodeOf_wordJ, low24_wordJ]

theorem sleepuntil (a : Reg) : Statement (.sleepuntil a) := by
  intro w h _; cases h
  simp [decodeWord, decodeRow0, opcodeOf_wordR, fieldD_wordR, fieldA_wordR, fieldB_wordR, ofField_toField, unused]

theorem mark (id : BitVec 24) : Statement (.mark id) := by
  intro w h _; cases h
  simp [decodeWord, decodeRow0, opcodeOf_wordJ, low24_wordJ]

theorem idem (id : BitVec 24) : Statement (.idem id) := by
  intro w h _; cases h
  simp [decodeWord, decodeRow0, opcodeOf_wordJ, low24_wordJ]

theorem trap (b : Selector) : Statement (.trap b) := by
  intro w h _; cases h
  simp [decodeWord, decodeRow0, opcodeOf_wordR, fieldD_wordR, fieldA_wordR, fieldB_wordR, unused]

theorem iadd (d a b : Reg) : Statement (.iadd d a b) := by
  intro w h _; cases h
  simp [decodeWord, decodeRow1, opcodeOf_wordR, fieldD_wordR, fieldA_wordR, fieldB_wordR, ofField_toField]

theorem isub (d a b : Reg) : Statement (.isub d a b) := by
  intro w h _; cases h
  simp [decodeWord, decodeRow1, opcodeOf_wordR, fieldD_wordR, fieldA_wordR, fieldB_wordR, ofField_toField]

theorem imul (d a b : Reg) : Statement (.imul d a b) := by
  intro w h _; cases h
  simp [decodeWord, decodeRow1, opcodeOf_wordR, fieldD_wordR, fieldA_wordR, fieldB_wordR, ofField_toField]

theorem imulhi (d a b : Reg) : Statement (.imulhi d a b) := by
  intro w h _; cases h
  simp [decodeWord, decodeRow1, opcodeOf_wordR, fieldD_wordR, fieldA_wordR, fieldB_wordR, ofField_toField]

theorem nmulhi (d a b : Reg) : Statement (.nmulhi d a b) := by
  intro w h _; cases h
  simp [decodeWord, decodeRow1, opcodeOf_wordR, fieldD_wordR, fieldA_wordR, fieldB_wordR, ofField_toField]

theorem imad (d a b : Reg) : Statement (.imad d a b) := by
  intro w h _; cases h
  simp [decodeWord, decodeRow1, opcodeOf_wordR, fieldD_wordR, fieldA_wordR, fieldB_wordR, ofField_toField]

theorem shl (d a b : Reg) : Statement (.shl d a b) := by
  intro w h _; cases h
  simp [decodeWord, decodeRow1, opcodeOf_wordR, fieldD_wordR, fieldA_wordR, fieldB_wordR, ofField_toField]

theorem shr (d a b : Reg) : Statement (.shr d a b) := by
  intro w h _; cases h
  simp [decodeWord, decodeRow1, opcodeOf_wordR, fieldD_wordR, fieldA_wordR, fieldB_wordR, ofField_toField]

theorem sar (d a b : Reg) : Statement (.sar d a b) := by
  intro w h _; cases h
  simp [decodeWord, decodeRow1, opcodeOf_wordR, fieldD_wordR, fieldA_wordR, fieldB_wordR, ofField_toField]

theorem andW (d a b : Reg) : Statement (.andW d a b) := by
  intro w h _; cases h
  simp [decodeWord, decodeRow1, opcodeOf_wordR, fieldD_wordR, fieldA_wordR, fieldB_wordR, ofField_toField]

theorem orW (d a b : Reg) : Statement (.orW d a b) := by
  intro w h _; cases h
  simp [decodeWord, decodeRow1, opcodeOf_wordR, fieldD_wordR, fieldA_wordR, fieldB_wordR, ofField_toField]

theorem xorW (d a b : Reg) : Statement (.xorW d a b) := by
  intro w h _; cases h
  simp [decodeWord, decodeRow1, opcodeOf_wordR, fieldD_wordR, fieldA_wordR, fieldB_wordR, ofField_toField]

theorem imin (d a b : Reg) : Statement (.imin d a b) := by
  intro w h _; cases h
  simp [decodeWord, decodeRow1, opcodeOf_wordR, fieldD_wordR, fieldA_wordR, fieldB_wordR, ofField_toField]

theorem imax (d a b : Reg) : Statement (.imax d a b) := by
  intro w h _; cases h
  simp [decodeWord, decodeRow1, opcodeOf_wordR, fieldD_wordR, fieldA_wordR, fieldB_wordR, ofField_toField]

theorem nmin (d a b : Reg) : Statement (.nmin d a b) := by
  intro w h _; cases h
  simp [decodeWord, decodeRow1, opcodeOf_wordR, fieldD_wordR, fieldA_wordR, fieldB_wordR, ofField_toField]

theorem nmax (d a b : Reg) : Statement (.nmax d a b) := by
  intro w h _; cases h
  simp [decodeWord, decodeRow1, opcodeOf_wordR, fieldD_wordR, fieldA_wordR, fieldB_wordR, ofField_toField]

theorem popc (d a : Reg) : Statement (.popc d a) := by
  intro w h _; cases h
  simp [decodeWord, decodeRow2, opcodeOf_wordR, fieldD_wordR, fieldA_wordR, fieldB_wordR, ofField_toField, unused]

theorem clz (d a : Reg) : Statement (.clz d a) := by
  intro w h _; cases h
  simp [decodeWord, decodeRow2, opcodeOf_wordR, fieldD_wordR, fieldA_wordR, fieldB_wordR, ofField_toField, unused]

theorem brev (d a : Reg) : Statement (.brev d a) := by
  intro w h _; cases h
  simp [decodeWord, decodeRow2, opcodeOf_wordR, fieldD_wordR, fieldA_wordR, fieldB_wordR, ofField_toField, unused]

theorem bfx (d a b : Reg) : Statement (.bfx d a b) := by
  intro w h _; cases h
  simp [decodeWord, decodeRow2, opcodeOf_wordR, fieldD_wordR, fieldA_wordR, fieldB_wordR, ofField_toField]

theorem bfi (d a b : Reg) : Statement (.bfi d a b) := by
  intro w h _; cases h
  simp [decodeWord, decodeRow2, opcodeOf_wordR, fieldD_wordR, fieldA_wordR, fieldB_wordR, ofField_toField]

theorem add64 (d a b : Reg) : Statement (.add64 d a b) := by
  intro w h _; cases h
  simp [decodeWord, decodeRow2, opcodeOf_wordR, fieldD_wordR, fieldA_wordR, fieldB_wordR, ofField_toField]

theorem sub64 (d a b : Reg) : Statement (.sub64 d a b) := by
  intro w h _; cases h
  simp [decodeWord, decodeRow2, opcodeOf_wordR, fieldD_wordR, fieldA_wordR, fieldB_wordR, ofField_toField]

theorem mad64 (d a b : Reg) : Statement (.mad64 d a b) := by
  intro w h _; cases h
  simp [decodeWord, decodeRow2, opcodeOf_wordR, fieldD_wordR, fieldA_wordR, fieldB_wordR, ofField_toField]

theorem sel (d a b : Reg) : Statement (.sel d a b) := by
  intro w h _; cases h
  simp [decodeWord, decodeRow2, opcodeOf_wordR, fieldD_wordR, fieldA_wordR, fieldB_wordR, ofField_toField]

theorem mov (d a : Reg) : Statement (.mov d a) := by
  intro w h _; cases h
  simp [decodeWord, decodeRow2, opcodeOf_wordR, fieldD_wordR, fieldA_wordR, fieldB_wordR, ofField_toField, unused]

theorem movu (d a b : Reg) : Statement (.movu d a b) := by
  intro w h _; cases h
  simp [decodeWord, decodeRow2, opcodeOf_wordR, fieldD_wordR, fieldA_wordR, fieldB_wordR, ofField_toField]

theorem shuf (d a b : Reg) : Statement (.shuf d a b) := by
  intro w h _; cases h
  simp [decodeWord, decodeRow2, opcodeOf_wordR, fieldD_wordR, fieldA_wordR, fieldB_wordR, ofField_toField]

theorem shufx (d a b : Reg) : Statement (.shufx d a b) := by
  intro w h _; cases h
  simp [decodeWord, decodeRow2, opcodeOf_wordR, fieldD_wordR, fieldA_wordR, fieldB_wordR, ofField_toField]

theorem ballot (d a : Reg) : Statement (.ballot d a) := by
  intro w h _; cases h
  simp [decodeWord, decodeRow2, opcodeOf_wordR, fieldD_wordR, fieldA_wordR, fieldB_wordR, ofField_toField, unused]

theorem vany (d : PredField) (a : Reg) : Statement (.vany d a) := by
  intro w h _; cases h
  simp [decodeWord, decodeRow2, opcodeOf_wordR, fieldD_wordR, fieldA_wordR, fieldB_wordR, ofField_toField, unused]

theorem vall (d : PredField) (a : Reg) : Statement (.vall d a) := by
  intro w h _; cases h
  simp [decodeWord, decodeRow2, opcodeOf_wordR, fieldD_wordR, fieldA_wordR, fieldB_wordR, ofField_toField, unused]

theorem icmpeq (d : PredField) (a b : Reg) : Statement (.icmpeq d a b) := by
  intro w h _; cases h
  simp [decodeWord, decodeRow3, opcodeOf_wordR, fieldD_wordR, fieldA_wordR, fieldB_wordR, ofField_toField]

theorem icmpne (d : PredField) (a b : Reg) : Statement (.icmpne d a b) := by
  intro w h _; cases h
  simp [decodeWord, decodeRow3, opcodeOf_wordR, fieldD_wordR, fieldA_wordR, fieldB_wordR, ofField_toField]

theorem icmplt (d : PredField) (a b : Reg) : Statement (.icmplt d a b) := by
  intro w h _; cases h
  simp [decodeWord, decodeRow3, opcodeOf_wordR, fieldD_wordR, fieldA_wordR, fieldB_wordR, ofField_toField]

theorem icmple (d : PredField) (a b : Reg) : Statement (.icmple d a b) := by
  intro w h _; cases h
  simp [decodeWord, decodeRow3, opcodeOf_wordR, fieldD_wordR, fieldA_wordR, fieldB_wordR, ofField_toField]

theorem ncmplt (d : PredField) (a b : Reg) : Statement (.ncmplt d a b) := by
  intro w h _; cases h
  simp [decodeWord, decodeRow3, opcodeOf_wordR, fieldD_wordR, fieldA_wordR, fieldB_wordR, ofField_toField]

theorem ncmple (d : PredField) (a b : Reg) : Statement (.ncmple d a b) := by
  intro w h _; cases h
  simp [decodeWord, decodeRow3, opcodeOf_wordR, fieldD_wordR, fieldA_wordR, fieldB_wordR, ofField_toField]

theorem cmpeq (d : PredField) (a b : Reg) : Statement (.cmpeq d a b) := by
  intro w h _; cases h
  simp [decodeWord, decodeRow3, opcodeOf_wordR, fieldD_wordR, fieldA_wordR, fieldB_wordR, ofField_toField]

theorem cmpne (d : PredField) (a b : Reg) : Statement (.cmpne d a b) := by
  intro w h _; cases h
  simp [decodeWord, decodeRow3, opcodeOf_wordR, fieldD_wordR, fieldA_wordR, fieldB_wordR, ofField_toField]

theorem cmplt (d : PredField) (a b : Reg) : Statement (.cmplt d a b) := by
  intro w h _; cases h
  simp [decodeWord, decodeRow3, opcodeOf_wordR, fieldD_wordR, fieldA_wordR, fieldB_wordR, ofField_toField]

theorem cmple (d : PredField) (a b : Reg) : Statement (.cmple d a b) := by
  intro w h _; cases h
  simp [decodeWord, decodeRow3, opcodeOf_wordR, fieldD_wordR, fieldA_wordR, fieldB_wordR, ofField_toField]

theorem cmpun (d : PredField) (a b : Reg) : Statement (.cmpun d a b) := by
  intro w h _; cases h
  simp [decodeWord, decodeRow3, opcodeOf_wordR, fieldD_wordR, fieldA_wordR, fieldB_wordR, ofField_toField]

theorem qand (d a b : PredField) : Statement (.qand d a b) := by
  intro w h _; cases h
  simp [decodeWord, decodeRow3, opcodeOf_wordR, fieldD_wordR, fieldA_wordR, fieldB_wordR]

theorem qor (d a b : PredField) : Statement (.qor d a b) := by
  intro w h _; cases h
  simp [decodeWord, decodeRow3, opcodeOf_wordR, fieldD_wordR, fieldA_wordR, fieldB_wordR]

theorem qxor (d a b : PredField) : Statement (.qxor d a b) := by
  intro w h _; cases h
  simp [decodeWord, decodeRow3, opcodeOf_wordR, fieldD_wordR, fieldA_wordR, fieldB_wordR]

theorem qtov (d : Reg) (a : PredField) : Statement (.qtov d a) := by
  intro w h _; cases h
  simp [decodeWord, decodeRow3, opcodeOf_wordR, fieldD_wordR, fieldA_wordR, fieldB_wordR, ofField_toField, unused]

theorem vtoq (d : PredField) (a : Reg) : Statement (.vtoq d a) := by
  intro w h _; cases h
  simp [decodeWord, decodeRow3, opcodeOf_wordR, fieldD_wordR, fieldA_wordR, fieldB_wordR, ofField_toField, unused]

theorem addT (d a b : Reg) : Statement (.addT d a b) := by
  intro w h _; cases h
  simp [decodeWord, decodeRow4, opcodeOf_wordR, fieldD_wordR, fieldA_wordR, fieldB_wordR, ofField_toField]

theorem subT (d a b : Reg) : Statement (.subT d a b) := by
  intro w h _; cases h
  simp [decodeWord, decodeRow4, opcodeOf_wordR, fieldD_wordR, fieldA_wordR, fieldB_wordR, ofField_toField]

theorem mulT (d a b : Reg) : Statement (.mulT d a b) := by
  intro w h _; cases h
  simp [decodeWord, decodeRow4, opcodeOf_wordR, fieldD_wordR, fieldA_wordR, fieldB_wordR, ofField_toField]

theorem fma (d a b : Reg) : Statement (.fma d a b) := by
  intro w h _; cases h
  simp [decodeWord, decodeRow4, opcodeOf_wordR, fieldD_wordR, fieldA_wordR, fieldB_wordR, ofField_toField]

theorem fms (d a b : Reg) : Statement (.fms d a b) := by
  intro w h _; cases h
  simp [decodeWord, decodeRow4, opcodeOf_wordR, fieldD_wordR, fieldA_wordR, fieldB_wordR, ofField_toField]

theorem fnma (d a b : Reg) : Statement (.fnma d a b) := by
  intro w h _; cases h
  simp [decodeWord, decodeRow4, opcodeOf_wordR, fieldD_wordR, fieldA_wordR, fieldB_wordR, ofField_toField]

theorem minT (d a b : Reg) : Statement (.minT d a b) := by
  intro w h _; cases h
  simp [decodeWord, decodeRow4, opcodeOf_wordR, fieldD_wordR, fieldA_wordR, fieldB_wordR, ofField_toField]

theorem maxT (d a b : Reg) : Statement (.maxT d a b) := by
  intro w h _; cases h
  simp [decodeWord, decodeRow4, opcodeOf_wordR, fieldD_wordR, fieldA_wordR, fieldB_wordR, ofField_toField]

theorem absT (d a : Reg) : Statement (.absT d a) := by
  intro w h _; cases h
  simp [decodeWord, decodeRow4, opcodeOf_wordR, fieldD_wordR, fieldA_wordR, fieldB_wordR, ofField_toField, unused]

theorem negT (d a : Reg) : Statement (.negT d a) := by
  intro w h _; cases h
  simp [decodeWord, decodeRow4, opcodeOf_wordR, fieldD_wordR, fieldA_wordR, fieldB_wordR, ofField_toField, unused]

theorem clamp (d a b : Reg) : Statement (.clamp d a b) := by
  intro w h _; cases h
  simp [decodeWord, decodeRow4, opcodeOf_wordR, fieldD_wordR, fieldA_wordR, fieldB_wordR, ofField_toField]

theorem divT (d a b : Reg) : Statement (.divT d a b) := by
  intro w h _; cases h
  simp [decodeWord, decodeRow4, opcodeOf_wordR, fieldD_wordR, fieldA_wordR, fieldB_wordR, ofField_toField]

theorem sqrt (d a : Reg) : Statement (.sqrt d a) := by
  intro w h _; cases h
  simp [decodeWord, decodeRow4, opcodeOf_wordR, fieldD_wordR, fieldA_wordR, fieldB_wordR, ofField_toField, unused]

theorem rcp (d a : Reg) : Statement (.rcp d a) := by
  intro w h _; cases h
  simp [decodeWord, decodeRow4, opcodeOf_wordR, fieldD_wordR, fieldA_wordR, fieldB_wordR, ofField_toField, unused]

theorem rsq (d a : Reg) : Statement (.rsq d a) := by
  intro w h _; cases h
  simp [decodeWord, decodeRow4, opcodeOf_wordR, fieldD_wordR, fieldA_wordR, fieldB_wordR, ofField_toField, unused]

theorem exp2 (d a : Reg) : Statement (.exp2 d a) := by
  intro w h _; cases h
  simp [decodeWord, decodeRow4, opcodeOf_wordR, fieldD_wordR, fieldA_wordR, fieldB_wordR, ofField_toField, unused]

theorem log2 (d a : Reg) : Statement (.log2 d a) := by
  intro w h _; cases h
  simp [decodeWord, decodeRow5, opcodeOf_wordR, fieldD_wordR, fieldA_wordR, fieldB_wordR, ofField_toField, unused]

theorem sinpi (d a : Reg) : Statement (.sinpi d a) := by
  intro w h _; cases h
  simp [decodeWord, decodeRow5, opcodeOf_wordR, fieldD_wordR, fieldA_wordR, fieldB_wordR, ofField_toField, unused]

theorem cospi (d a : Reg) : Statement (.cospi d a) := by
  intro w h _; cases h
  simp [decodeWord, decodeRow5, opcodeOf_wordR, fieldD_wordR, fieldA_wordR, fieldB_wordR, ofField_toField, unused]

theorem fract (d a : Reg) : Statement (.fract d a) := by
  intro w h _; cases h
  simp [decodeWord, decodeRow5, opcodeOf_wordR, fieldD_wordR, fieldA_wordR, fieldB_wordR, ofField_toField, unused]

theorem floor (d a : Reg) : Statement (.floor d a) := by
  intro w h _; cases h
  simp [decodeWord, decodeRow5, opcodeOf_wordR, fieldD_wordR, fieldA_wordR, fieldB_wordR, ofField_toField, unused]

theorem ceil (d a : Reg) : Statement (.ceil d a) := by
  intro w h _; cases h
  simp [decodeWord, decodeRow5, opcodeOf_wordR, fieldD_wordR, fieldA_wordR, fieldB_wordR, ofField_toField, unused]

theorem trunc (d a : Reg) : Statement (.trunc d a) := by
  intro w h _; cases h
  simp [decodeWord, decodeRow5, opcodeOf_wordR, fieldD_wordR, fieldA_wordR, fieldB_wordR, ofField_toField, unused]

theorem rint (d a : Reg) : Statement (.rint d a) := by
  intro w h _; cases h
  simp [decodeWord, decodeRow5, opcodeOf_wordR, fieldD_wordR, fieldA_wordR, fieldB_wordR, ofField_toField, unused]

theorem cvt (d a : Reg) (b : Selector) : Statement (.cvt d a b) := by
  intro w h _; cases h
  simp [decodeWord, decodeRow5, opcodeOf_wordR, fieldD_wordR, fieldA_wordR, fieldB_wordR, ofField_toField]

theorem pack (d a b : Reg) : Statement (.pack d a b) := by
  intro w h _; cases h
  simp [decodeWord, decodeRow5, opcodeOf_wordR, fieldD_wordR, fieldA_wordR, fieldB_wordR, ofField_toField]

theorem unpacklo (d a : Reg) : Statement (.unpacklo d a) := by
  intro w h _; cases h
  simp [decodeWord, decodeRow5, opcodeOf_wordR, fieldD_wordR, fieldA_wordR, fieldB_wordR, ofField_toField, unused]

theorem unpackhi (d a : Reg) : Statement (.unpackhi d a) := by
  intro w h _; cases h
  simp [decodeWord, decodeRow5, opcodeOf_wordR, fieldD_wordR, fieldA_wordR, fieldB_wordR, ofField_toField, unused]

theorem dot2 (d a b : Reg) : Statement (.dot2 d a b) := by
  intro w h _; cases h
  simp [decodeWord, decodeRow5, opcodeOf_wordR, fieldD_wordR, fieldA_wordR, fieldB_wordR, ofField_toField]

theorem dot4 (d a b : Reg) : Statement (.dot4 d a b) := by
  intro w h _; cases h
  simp [decodeWord, decodeRow5, opcodeOf_wordR, fieldD_wordR, fieldA_wordR, fieldB_wordR, ofField_toField]

theorem scaleb (d a b : Reg) : Statement (.scaleb d a b) := by
  intro w h _; cases h
  simp [decodeWord, decodeRow5, opcodeOf_wordR, fieldD_wordR, fieldA_wordR, fieldB_wordR, ofField_toField]

theorem classT (d a : Reg) : Statement (.classT d a) := by
  intro w h _; cases h
  simp [decodeWord, decodeRow5, opcodeOf_wordR, fieldD_wordR, fieldA_wordR, fieldB_wordR, ofField_toField, unused]

theorem ld8 (d a b : Reg) : Statement (.ld8 d a b) := by
  intro w h _; cases h
  simp [decodeWord, decodeRow6, opcodeOf_wordR, fieldD_wordR, fieldA_wordR, fieldB_wordR, ofField_toField]

theorem ld8s (d a b : Reg) : Statement (.ld8s d a b) := by
  intro w h _; cases h
  simp [decodeWord, decodeRow6, opcodeOf_wordR, fieldD_wordR, fieldA_wordR, fieldB_wordR, ofField_toField]

theorem ld16 (d a b : Reg) : Statement (.ld16 d a b) := by
  intro w h _; cases h
  simp [decodeWord, decodeRow6, opcodeOf_wordR, fieldD_wordR, fieldA_wordR, fieldB_wordR, ofField_toField]

theorem ld16s (d a b : Reg) : Statement (.ld16s d a b) := by
  intro w h _; cases h
  simp [decodeWord, decodeRow6, opcodeOf_wordR, fieldD_wordR, fieldA_wordR, fieldB_wordR, ofField_toField]

theorem ld32 (d a b : Reg) : Statement (.ld32 d a b) := by
  intro w h _; cases h
  simp [decodeWord, decodeRow6, opcodeOf_wordR, fieldD_wordR, fieldA_wordR, fieldB_wordR, ofField_toField]

theorem ld64 (d a b : Reg) : Statement (.ld64 d a b) := by
  intro w h _; cases h
  simp [decodeWord, decodeRow6, opcodeOf_wordR, fieldD_wordR, fieldA_wordR, fieldB_wordR, ofField_toField]

theorem ld128 (d a b : Reg) : Statement (.ld128 d a b) := by
  intro w h _; cases h
  simp [decodeWord, decodeRow6, opcodeOf_wordR, fieldD_wordR, fieldA_wordR, fieldB_wordR, ofField_toField]

theorem lda32 (d a b : Reg) : Statement (.lda32 d a b) := by
  intro w h _; cases h
  simp [decodeWord, decodeRow6, opcodeOf_wordR, fieldD_wordR, fieldA_wordR, fieldB_wordR, ofField_toField]

theorem lda64 (d a b : Reg) : Statement (.lda64 d a b) := by
  intro w h _; cases h
  simp [decodeWord, decodeRow6, opcodeOf_wordR, fieldD_wordR, fieldA_wordR, fieldB_wordR, ofField_toField]

theorem st8 (d a b : Reg) : Statement (.st8 d a b) := by
  intro w h _; cases h
  simp [decodeWord, decodeRow6, opcodeOf_wordR, fieldD_wordR, fieldA_wordR, fieldB_wordR, ofField_toField]

theorem st16 (d a b : Reg) : Statement (.st16 d a b) := by
  intro w h _; cases h
  simp [decodeWord, decodeRow6, opcodeOf_wordR, fieldD_wordR, fieldA_wordR, fieldB_wordR, ofField_toField]

theorem st32 (d a b : Reg) : Statement (.st32 d a b) := by
  intro w h _; cases h
  simp [decodeWord, decodeRow6, opcodeOf_wordR, fieldD_wordR, fieldA_wordR, fieldB_wordR, ofField_toField]

theorem st64 (d a b : Reg) : Statement (.st64 d a b) := by
  intro w h _; cases h
  simp [decodeWord, decodeRow6, opcodeOf_wordR, fieldD_wordR, fieldA_wordR, fieldB_wordR, ofField_toField]

theorem st128 (d a b : Reg) : Statement (.st128 d a b) := by
  intro w h _; cases h
  simp [decodeWord, decodeRow6, opcodeOf_wordR, fieldD_wordR, fieldA_wordR, fieldB_wordR, ofField_toField]

theorem str32 (d a b : Reg) : Statement (.str32 d a b) := by
  intro w h _; cases h
  simp [decodeWord, decodeRow6, opcodeOf_wordR, fieldD_wordR, fieldA_wordR, fieldB_wordR, ofField_toField]

theorem str64 (d a b : Reg) : Statement (.str64 d a b) := by
  intro w h _; cases h
  simp [decodeWord, decodeRow6, opcodeOf_wordR, fieldD_wordR, fieldA_wordR, fieldB_wordR, ofField_toField]

theorem fence (d a b : Selector) : Statement (.fence d a b) := by
  intro w h _; cases h
  simp [decodeWord, decodeRow7, opcodeOf_wordR, fieldD_wordR, fieldA_wordR, fieldB_wordR]

theorem aadd (d a b : Reg) : Statement (.aadd d a b) := by
  intro w h _; cases h
  simp [decodeWord, decodeRow7, opcodeOf_wordR, fieldD_wordR, fieldA_wordR, fieldB_wordR, ofField_toField]

theorem amin (d a b : Reg) : Statement (.amin d a b) := by
  intro w h _; cases h
  simp [decodeWord, decodeRow7, opcodeOf_wordR, fieldD_wordR, fieldA_wordR, fieldB_wordR, ofField_toField]

theorem amax (d a b : Reg) : Statement (.amax d a b) := by
  intro w h _; cases h
  simp [decodeWord, decodeRow7, opcodeOf_wordR, fieldD_wordR, fieldA_wordR, fieldB_wordR, ofField_toField]

theorem aand (d a b : Reg) : Statement (.aand d a b) := by
  intro w h _; cases h
  simp [decodeWord, decodeRow7, opcodeOf_wordR, fieldD_wordR, fieldA_wordR, fieldB_wordR, ofField_toField]

theorem aor (d a b : Reg) : Statement (.aor d a b) := by
  intro w h _; cases h
  simp [decodeWord, decodeRow7, opcodeOf_wordR, fieldD_wordR, fieldA_wordR, fieldB_wordR, ofField_toField]

theorem axor (d a b : Reg) : Statement (.axor d a b) := by
  intro w h _; cases h
  simp [decodeWord, decodeRow7, opcodeOf_wordR, fieldD_wordR, fieldA_wordR, fieldB_wordR, ofField_toField]

theorem axchg (d a b : Reg) : Statement (.axchg d a b) := by
  intro w h _; cases h
  simp [decodeWord, decodeRow7, opcodeOf_wordR, fieldD_wordR, fieldA_wordR, fieldB_wordR, ofField_toField]

theorem acas (d a b : Reg) : Statement (.acas d a b) := by
  intro w h _; cases h
  simp [decodeWord, decodeRow7, opcodeOf_wordR, fieldD_wordR, fieldA_wordR, fieldB_wordR, ofField_toField]

theorem ainc (d a b : Reg) : Statement (.ainc d a b) := by
  intro w h _; cases h
  simp [decodeWord, decodeRow7, opcodeOf_wordR, fieldD_wordR, fieldA_wordR, fieldB_wordR, ofField_toField]

theorem cap (d a : Reg) (b : Selector) : Statement (.cap d a b) := by
  intro w h _; cases h
  simp [decodeWord, decodeRow7, opcodeOf_wordR, fieldD_wordR, fieldA_wordR, fieldB_wordR, ofField_toField]

theorem uncap (d a : Reg) : Statement (.uncap d a) := by
  intro w h _; cases h
  simp [decodeWord, decodeRow7, opcodeOf_wordR, fieldD_wordR, fieldA_wordR, fieldB_wordR, ofField_toField, unused]

theorem pref (a : Reg) : Statement (.pref a) := by
  intro w h _; cases h
  simp [decodeWord, decodeRow7, opcodeOf_wordR, fieldD_wordR, fieldA_wordR, fieldB_wordR, ofField_toField, unused]

theorem wbl (a : Reg) : Statement (.wbl a) := by
  intro w h _; cases h
  simp [decodeWord, decodeRow7, opcodeOf_wordR, fieldD_wordR, fieldA_wordR, fieldB_wordR, ofField_toField, unused]

theorem dropl (a : Reg) : Statement (.dropl a) := by
  intro w h _; cases h
  simp [decodeWord, decodeRow7, opcodeOf_wordR, fieldD_wordR, fieldA_wordR, fieldB_wordR, ofField_toField, unused]

theorem tryT (lane : Bool) (disp : BitVec 23) : Statement (.tryT lane disp) := by
  intro w h _; cases h
  simp [decodeWord, decodeRow8, opcodeOf_wordTry, low23_wordTry, bit23_wordTry]

theorem tabort (b : Selector) : Statement (.tabort b) := by
  intro w h _; cases h
  simp [decodeWord, decodeRow8, opcodeOf_wordR, fieldD_wordR, fieldA_wordR, fieldB_wordR, unused]

theorem tstat (d : Reg) : Statement (.tstat d) := by
  intro w h _; cases h
  simp [decodeWord, decodeRow8, opcodeOf_wordR, fieldD_wordR, fieldA_wordR, fieldB_wordR, ofField_toField, unused]

theorem taddr (d : Reg) : Statement (.taddr d) := by
  intro w h _; cases h
  simp [decodeWord, decodeRow8, opcodeOf_wordR, fieldD_wordR, fieldA_wordR, fieldB_wordR, ofField_toField, unused]

theorem barw (b : Selector) : Statement (.barw b) := by
  intro w h _; cases h
  simp [decodeWord, decodeRow8, opcodeOf_wordR, fieldD_wordR, fieldA_wordR, fieldB_wordR, unused]

theorem bara (d : Reg) (b : Selector) : Statement (.bara d b) := by
  intro w h _; cases h
  simp [decodeWord, decodeRow8, opcodeOf_wordR, fieldD_wordR, fieldA_wordR, fieldB_wordR, ofField_toField, unused]

theorem barwt (a : Selector) (b : Reg) : Statement (.barwt a b) := by
  intro w h _; cases h
  simp [decodeWord, decodeRow8, opcodeOf_wordR, fieldD_wordR, fieldA_wordR, fieldB_wordR, ofField_toField, unused]

theorem barx (a : Selector) (b : Reg) : Statement (.barx a b) := by
  intro w h _; cases h
  simp [decodeWord, decodeRow8, opcodeOf_wordR, fieldD_wordR, fieldA_wordR, fieldB_wordR, ofField_toField, unused]

theorem tredadd (d a : Reg) (b : Selector) : Statement (.tredadd d a b) := by
  intro w h _; cases h
  simp [decodeWord, decodeRow8, opcodeOf_wordR, fieldD_wordR, fieldA_wordR, fieldB_wordR, ofField_toField]

theorem tredmin (d a : Reg) (b : Selector) : Statement (.tredmin d a b) := by
  intro w h _; cases h
  simp [decodeWord, decodeRow8, opcodeOf_wordR, fieldD_wordR, fieldA_wordR, fieldB_wordR, ofField_toField]

theorem tredmax (d a : Reg) (b : Selector) : Statement (.tredmax d a b) := by
  intro w h _; cases h
  simp [decodeWord, decodeRow8, opcodeOf_wordR, fieldD_wordR, fieldA_wordR, fieldB_wordR, ofField_toField]

theorem grow (b : Selector) : Statement (.grow b) := by
  intro w h _; cases h
  simp [decodeWord, decodeRow8, opcodeOf_wordR, fieldD_wordR, fieldA_wordR, fieldB_wordR, unused]

theorem shrink (b : Selector) : Statement (.shrink b) := by
  intro w h _; cases h
  simp [decodeWord, decodeRow8, opcodeOf_wordR, fieldD_wordR, fieldA_wordR, fieldB_wordR, unused]

theorem waitc (a b : Selector) : Statement (.waitc a b) := by
  intro w h _; cases h
  simp [decodeWord, decodeRow8, opcodeOf_wordR, fieldD_wordR, fieldA_wordR, fieldB_wordR, unused]

theorem ldf32 (d a b : Reg) : Statement (.ldf32 d a b) := by
  intro w h _; cases h
  simp [decodeWord, decodeRow9, opcodeOf_wordR, fieldD_wordR, fieldA_wordR, fieldB_wordR, ofField_toField]

theorem fcommit (d a : Reg) : Statement (.fcommit d a) := by
  intro w h _; cases h
  simp [decodeWord, decodeRow9, opcodeOf_wordR, fieldD_wordR, fieldA_wordR, fieldB_wordR, ofField_toField, unused]

theorem fsquash (d a : Reg) : Statement (.fsquash d a) := by
  intro w h _; cases h
  simp [decodeWord, decodeRow9, opcodeOf_wordR, fieldD_wordR, fieldA_wordR, fieldB_wordR, ofField_toField, unused]

theorem fstate (d a : Reg) : Statement (.fstate d a) := by
  intro w h _; cases h
  simp [decodeWord, decodeRow9, opcodeOf_wordR, fieldD_wordR, fieldA_wordR, fieldB_wordR, ofField_toField, unused]

theorem flip (a : Reg) (b : Selector) : Statement (.flip a b) := by
  intro w h _; cases h
  simp [decodeWord, decodeRow9, opcodeOf_wordR, fieldD_wordR, fieldA_wordR, fieldB_wordR, ofField_toField, unused]

theorem signal (d : Selector) (a b : Reg) : Statement (.signal d a b) := by
  intro w h _; cases h
  simp [decodeWord, decodeRow9, opcodeOf_wordR, fieldD_wordR, fieldA_wordR, fieldB_wordR, ofField_toField]

theorem glaunch (a b : Reg) : Statement (.glaunch a b) := by
  intro w h _; cases h
  simp [decodeWord, decodeRow9, opcodeOf_wordR, fieldD_wordR, fieldA_wordR, fieldB_wordR, ofField_toField, unused]

theorem tdef (d : Selector) (a : Reg) : Statement (.tdef d a) := by
  intro w h _; cases h
  simp [decodeWord, decodeRowA, opcodeOf_wordR, fieldD_wordR, fieldA_wordR, fieldB_wordR, ofField_toField, unused]

theorem trel (d : Selector) : Statement (.trel d) := by
  intro w h _; cases h
  simp [decodeWord, decodeRowA, opcodeOf_wordR, fieldD_wordR, fieldA_wordR, fieldB_wordR, unused]

theorem tcur (d : Selector) (a : Reg) : Statement (.tcur d a) := by
  intro w h _; cases h
  simp [decodeWord, decodeRowA, opcodeOf_wordR, fieldD_wordR, fieldA_wordR, fieldB_wordR, ofField_toField, unused]

theorem tcurhi (d : Selector) (a : Reg) : Statement (.tcurhi d a) := by
  intro w h _; cases h
  simp [decodeWord, decodeRowA, opcodeOf_wordR, fieldD_wordR, fieldA_wordR, fieldB_wordR, ofField_toField, unused]

theorem cpy (d : Reg) (a b : Selector) : Statement (.cpy d a b) := by
  intro w h _; cases h
  simp [decodeWord, decodeRowA, opcodeOf_wordR, fieldD_wordR, fieldA_wordR, fieldB_wordR, ofField_toField]

theorem cpyt (d : Reg) (a b : Selector) : Statement (.cpyt d a b) := by
  intro w h _; cases h
  simp [decodeWord, decodeRowA, opcodeOf_wordR, fieldD_wordR, fieldA_wordR, fieldB_wordR, ofField_toField]

theorem cpyq (d : Reg) (a b : Selector) : Statement (.cpyq d a b) := by
  intro w h _; cases h
  simp [decodeWord, decodeRowA, opcodeOf_wordR, fieldD_wordR, fieldA_wordR, fieldB_wordR, ofField_toField]

theorem cpyx (d : Reg) (a b : Selector) : Statement (.cpyx d a b) := by
  intro w h _; cases h
  simp [decodeWord, decodeRowA, opcodeOf_wordR, fieldD_wordR, fieldA_wordR, fieldB_wordR, ofField_toField]

theorem gath (d : Reg) (a : Selector) (b : Reg) : Statement (.gath d a b) := by
  intro w h _; cases h
  simp [decodeWord, decodeRowA, opcodeOf_wordR, fieldD_wordR, fieldA_wordR, fieldB_wordR, ofField_toField]

theorem scata (d : Reg) (a : Selector) (b : Reg) : Statement (.scata d a b) := by
  intro w h _; cases h
  simp [decodeWord, decodeRowA, opcodeOf_wordR, fieldD_wordR, fieldA_wordR, fieldB_wordR, ofField_toField]

theorem tquery (d : Reg) (a b : Selector) : Statement (.tquery d a b) := by
  intro w h _; cases h
  simp [decodeWord, decodeRowA, opcodeOf_wordR, fieldD_wordR, fieldA_wordR, fieldB_wordR, ofField_toField]

theorem mbld (d a : Selector) : Statement (.mbld d a) := by
  intro w h _; cases h
  simp [decodeWord, decodeRowB, opcodeOf_wordR, fieldD_wordR, fieldA_wordR, fieldB_wordR, unused]

theorem mma (d a b : Selector) : Statement (.mma d a b) := by
  intro w h _; cases h
  simp [decodeWord, decodeRowB, opcodeOf_wordR, fieldD_wordR, fieldA_wordR, fieldB_wordR]

theorem mmas (d a b : Selector) : Statement (.mmas d a b) := by
  intro w h _; cases h
  simp [decodeWord, decodeRowB, opcodeOf_wordR, fieldD_wordR, fieldA_wordR, fieldB_wordR]

theorem mzero (d : Selector) : Statement (.mzero d) := by
  intro w h _; cases h
  simp [decodeWord, decodeRowB, opcodeOf_wordR, fieldD_wordR, fieldA_wordR, fieldB_wordR, unused]

theorem mdrain (d a : Selector) : Statement (.mdrain d a) := by
  intro w h _; cases h
  simp [decodeWord, decodeRowB, opcodeOf_wordR, fieldD_wordR, fieldA_wordR, fieldB_wordR, unused]

theorem mdraina (d a : Selector) : Statement (.mdraina d a) := by
  intro w h _; cases h
  simp [decodeWord, decodeRowB, opcodeOf_wordR, fieldD_wordR, fieldA_wordR, fieldB_wordR, unused]

theorem mrd (d : Reg) (a : Selector) (b : Reg) : Statement (.mrd d a b) := by
  intro w h _; cases h
  simp [decodeWord, decodeRowB, opcodeOf_wordR, fieldD_wordR, fieldA_wordR, fieldB_wordR, ofField_toField]

theorem mwr (d : Selector) (a b : Reg) : Statement (.mwr d a b) := by
  intro w h _; cases h
  simp [decodeWord, decodeRowB, opcodeOf_wordR, fieldD_wordR, fieldA_wordR, fieldB_wordR, ofField_toField]

theorem rayq (d a : Reg) (b : Selector) : Statement (.rayq d a b) := by
  intro w h _; cases h
  simp [decodeWord, decodeRowC, opcodeOf_wordR, fieldD_wordR, fieldA_wordR, fieldB_wordR, ofField_toField]

theorem rayqa (d a : Reg) (b : Selector) : Statement (.rayqa d a b) := by
  intro w h _; cases h
  simp [decodeWord, decodeRowC, opcodeOf_wordR, fieldD_wordR, fieldA_wordR, fieldB_wordR, ofField_toField]

theorem tex (d a : Reg) (b : Selector) : Statement (.tex d a b) := by
  intro w h _; cases h
  simp [decodeWord, decodeRowC, opcodeOf_wordR, fieldD_wordR, fieldA_wordR, fieldB_wordR, ofField_toField]

theorem texl (d a : Reg) (b : Selector) : Statement (.texl d a b) := by
  intro w h _; cases h
  simp [decodeWord, decodeRowC, opcodeOf_wordR, fieldD_wordR, fieldA_wordR, fieldB_wordR, ofField_toField]

theorem texg (d a : Reg) (b : Selector) : Statement (.texg d a b) := by
  intro w h _; cases h
  simp [decodeWord, decodeRowC, opcodeOf_wordR, fieldD_wordR, fieldA_wordR, fieldB_wordR, ofField_toField]

theorem rdtime (d : Reg) : Statement (.rdtime d) := by
  intro w h _; cases h
  simp [decodeWord, decodeRowD, opcodeOf_wordR, fieldD_wordR, fieldA_wordR, fieldB_wordR, ofField_toField, unused]

theorem rdsr (d : Reg) (b : Selector) : Statement (.rdsr d b) := by
  intro w h _; cases h
  simp [decodeWord, decodeRowD, opcodeOf_wordR, fieldD_wordR, fieldA_wordR, fieldB_wordR, ofField_toField, unused]

theorem wrsr (a : Reg) (b : Selector) : Statement (.wrsr a b) := by
  intro w h _; cases h
  simp [decodeWord, decodeRowD, opcodeOf_wordR, fieldD_wordR, fieldA_wordR, fieldB_wordR, ofField_toField, unused]

theorem tlbinv (a b : Reg) : Statement (.tlbinv a b) := by
  intro w h _; cases h
  simp [decodeWord, decodeRowD, opcodeOf_wordR, fieldD_wordR, fieldA_wordR, fieldB_wordR, ofField_toField, unused]

theorem irq (b : Selector) : Statement (.irq b) := by
  intro w h _; cases h
  simp [decodeWord, decodeRowD, opcodeOf_wordR, fieldD_wordR, fieldA_wordR, fieldB_wordR, unused]

theorem haltg (d a : Reg) : Statement (.haltg d a) := by
  intro w h _; cases h
  simp [decodeWord, decodeRowD, opcodeOf_wordR, fieldD_wordR, fieldA_wordR, fieldB_wordR, ofField_toField, unused]

theorem resumeg (d a : Reg) : Statement (.resumeg d a) := by
  intro w h _; cases h
  simp [decodeWord, decodeRowD, opcodeOf_wordR, fieldD_wordR, fieldA_wordR, fieldB_wordR, ofField_toField, unused]

theorem gsave (d a b : Reg) : Statement (.gsave d a b) := by
  intro w h _; cases h
  simp [decodeWord, decodeRowD, opcodeOf_wordR, fieldD_wordR, fieldA_wordR, fieldB_wordR, ofField_toField]

theorem gload (d a b : Reg) : Statement (.gload d a b) := by
  intro w h _; cases h
  simp [decodeWord, decodeRowD, opcodeOf_wordR, fieldD_wordR, fieldA_wordR, fieldB_wordR, ofField_toField]

theorem linkq (d : Reg) (b : Selector) : Statement (.linkq d b) := by
  intro w h _; cases h
  simp [decodeWord, decodeRowD, opcodeOf_wordR, fieldD_wordR, fieldA_wordR, fieldB_wordR, ofField_toField, unused]

theorem linkup (d : Reg) (b : Selector) : Statement (.linkup d b) := by
  intro w h _; cases h
  simp [decodeWord, decodeRowD, opcodeOf_wordR, fieldD_wordR, fieldA_wordR, fieldB_wordR, ofField_toField, unused]

theorem dierst (d : Reg) (b : Selector) : Statement (.dierst d b) := by
  intro w h _; cases h
  simp [decodeWord, decodeRowD, opcodeOf_wordR, fieldD_wordR, fieldA_wordR, fieldB_wordR, ofField_toField, unused]

theorem homebyp (d : Reg) (a b : Selector) : Statement (.homebyp d a b) := by
  intro w h _; cases h
  simp [decodeWord, decodeRowD, opcodeOf_wordR, fieldD_wordR, fieldA_wordR, fieldB_wordR, ofField_toField]

theorem flushd (d : Reg) (b : Selector) : Statement (.flushd d b) := by
  intro w h _; cases h
  simp [decodeWord, decodeRowD, opcodeOf_wordR, fieldD_wordR, fieldA_wordR, fieldB_wordR, ofField_toField, unused]

theorem txCommit (g w : Nat) : Statement (.txCommit g w) := fun _ h _ => nomatch h

theorem growGrant (g w : Nat) (slotB : Bool) : Statement (.growGrant g w slotB) := fun _ h _ => nomatch h

theorem capHeld (line : Nat) : Statement (.capHeld line) := fun _ h _ => nomatch h

theorem capExpiry (line : Nat) : Statement (.capExpiry line) := fun _ h _ => nomatch h

theorem heatDecay (line : Nat) : Statement (.heatDecay line) := fun _ h _ => nomatch h

theorem leaseReadRequest (core line : Nat) : Statement (.leaseReadRequest core line) := fun _ h _ => nomatch h

theorem homeWrite (id : Nat) : Statement (.homeWrite id) := fun _ h _ => nomatch h

theorem ownershipRecall (line : Nat) : Statement (.ownershipRecall line) := fun _ h _ => nomatch h

theorem guestInvalidate (die line : Nat) : Statement (.guestInvalidate die line) := fun _ h _ => nomatch h

theorem exclusiveRequest (card line : Nat) : Statement (.exclusiveRequest card line) := fun _ h _ => nomatch h

theorem replicaUpdate (id die : Nat) : Statement (.replicaUpdate id die) := fun _ h _ => nomatch h

theorem faultResolved (id : Nat) : Statement (.faultResolved id) := fun _ h _ => nomatch h

theorem faultFailed (id result : Nat) : Statement (.faultFailed id result) := fun _ h _ => nomatch h

theorem regionCmd (value : BitVec 64) : Statement (.regionCmd value) := fun _ h _ => nomatch h

theorem commitPoint (ctx tag : Nat) : Statement (.commitPoint ctx tag) := fun _ h _ => nomatch h

theorem foldingFinish (ctx tag : Nat) : Statement (.foldingFinish ctx tag) := fun _ h _ => nomatch h

theorem scrubbingFinish (ctx tag : Nat) : Statement (.scrubbingFinish ctx tag) := fun _ h _ => nomatch h

theorem forkTakeTags (run node : Nat) : Statement (.forkTakeTags run node) := fun _ h _ => nomatch h

theorem joinDeadline (run node : Nat) : Statement (.joinDeadline run node) := fun _ h _ => nomatch h

theorem deferredEffect (ctx tag : Nat) : Statement (.deferredEffect ctx tag) := fun _ h _ => nomatch h

theorem copyLanding (op : Nat) : Statement (.copyLanding op) := fun _ h _ => nomatch h

theorem copyComplete (op : Nat) : Statement (.copyComplete op) := fun _ h _ => nomatch h

theorem matrixPass (g w : Nat) : Statement (.matrixPass g w) := fun _ h _ => nomatch h

theorem mbldComplete (g mac : Nat) : Statement (.mbldComplete g mac) := fun _ h _ => nomatch h

theorem batchComplete (g w : Nat) : Statement (.batchComplete g w) := fun _ h _ => nomatch h

theorem rayComplete (op : Nat) : Statement (.rayComplete op) := fun _ h _ => nomatch h

theorem texComplete (op : Nat) : Statement (.texComplete op) := fun _ h _ => nomatch h

theorem resultWriteback (g w id : Nat) : Statement (.resultWriteback g w id) := fun _ h _ => nomatch h

theorem gangPlacement (gang : Nat) : Statement (.gangPlacement gang) := fun _ h _ => nomatch h

theorem groupRetire (g : Nat) : Statement (.groupRetire g) := fun _ h _ => nomatch h

theorem completionSignal (launch : Nat) : Statement (.completionSignal launch) := fun _ h _ => nomatch h

theorem earlyTrigger (launch : Nat) : Statement (.earlyTrigger launch) := fun _ h _ => nomatch h

theorem tailWrite (queue : Nat) (value : BitVec 32) : Statement (.tailWrite queue value) := fun _ h _ => nomatch h

theorem queueEnable (queue : Nat) : Statement (.queueEnable queue) := fun _ h _ => nomatch h

theorem queueDisable (queue : Nat) : Statement (.queueDisable queue) := fun _ h _ => nomatch h

theorem trailerRead (queue : Nat) : Statement (.trailerRead queue) := fun _ h _ => nomatch h

theorem nopPacket (queue : Nat) : Statement (.nopPacket queue) := fun _ h _ => nomatch h

theorem launchPacket (queue : Nat) : Statement (.launchPacket queue) := fun _ h _ => nomatch h

theorem launchShort (queue : Nat) : Statement (.launchShort queue) := fun _ h _ => nomatch h

theorem graphRun (queue : Nat) : Statement (.graphRun queue) := fun _ h _ => nomatch h

theorem graphLoad (queue : Nat) : Statement (.graphLoad queue) := fun _ h _ => nomatch h

theorem signalPacket (queue : Nat) : Statement (.signalPacket queue) := fun _ h _ => nomatch h

theorem waitPacket (queue : Nat) : Statement (.waitPacket queue) := fun _ h _ => nomatch h

theorem waitPoll (queue : Nat) : Statement (.waitPoll queue) := fun _ h _ => nomatch h

theorem copyPacket (queue : Nat) : Statement (.copyPacket queue) := fun _ h _ => nomatch h

theorem accountOpen (queue : Nat) : Statement (.accountOpen queue) := fun _ h _ => nomatch h

theorem accountClose (queue : Nat) : Statement (.accountClose queue) := fun _ h _ => nomatch h

theorem commitPacket (queue : Nat) : Statement (.commitPacket queue) := fun _ h _ => nomatch h

theorem tensorDef (queue : Nat) : Statement (.tensorDef queue) := fun _ h _ => nomatch h

theorem preemptCmd (ctx : Nat) : Statement (.preemptCmd ctx) := fun _ h _ => nomatch h

theorem readmitCmd (ctx : Nat) : Statement (.readmitCmd ctx) := fun _ h _ => nomatch h

theorem resetCmd (ctx : Nat) : Statement (.resetCmd ctx) := fun _ h _ => nomatch h

theorem haltCmd (ctx : Nat) : Statement (.haltCmd ctx) := fun _ h _ => nomatch h

theorem resumeCmd (ctx : Nat) : Statement (.resumeCmd ctx) := fun _ h _ => nomatch h

theorem saveCmd (ctx : Nat) : Statement (.saveCmd ctx) := fun _ h _ => nomatch h

theorem loadCmd (ctx : Nat) : Statement (.loadCmd ctx) := fun _ h _ => nomatch h

theorem attachCmd (ctx : Nat) : Statement (.attachCmd ctx) := fun _ h _ => nomatch h

theorem detachCmd (ctx : Nat) : Statement (.detachCmd ctx) := fun _ h _ => nomatch h

theorem sliceExpiry (ctx : Nat) : Statement (.sliceExpiry ctx) := fun _ h _ => nomatch h

theorem d1Deadline (ctx : Nat) : Statement (.d1Deadline ctx) := fun _ h _ => nomatch h

theorem d2Deadline (ctx : Nat) : Statement (.d2Deadline ctx) := fun _ h _ => nomatch h

theorem watchdogExpiry (launch team : Nat) : Statement (.watchdogExpiry launch team) := fun _ h _ => nomatch h

theorem traceSample (ctx core : Nat) : Statement (.traceSample ctx core) := fun _ h _ => nomatch h

theorem attCmd (value : BitVec 32) : Statement (.attCmd value) := fun _ h _ => nomatch h

theorem firmwareBoot (die : Nat) : Statement (.firmwareBoot die) := fun _ h _ => nomatch h

theorem sleepEnd (g w : Nat) (slotB : Bool) : Statement (.sleepEnd g w slotB) := fun _ h _ => nomatch h

theorem leaseExpiry (core line : Nat) : Statement (.leaseExpiry core line) := fun _ h _ => nomatch h

theorem guestReadRequest (die line : Nat) : Statement (.guestReadRequest die line) := fun _ h _ => nomatch h

theorem nearAtomicGrant (core line : Nat) : Statement (.nearAtomicGrant core line) := fun _ h _ => nomatch h

theorem cardInvalidate (card line : Nat) : Statement (.cardInvalidate card line) := fun _ h _ => nomatch h

theorem snpinv (line : Nat) : Statement (.snpinv line) := fun _ h _ => nomatch h

theorem snpdata (line : Nat) : Statement (.snpdata line) := fun _ h _ => nomatch h

theorem snpcur (line : Nat) : Statement (.snpcur line) := fun _ h _ => nomatch h

theorem fillRequest (die asid va : Nat) : Statement (.fillRequest die asid va) := fun _ h _ => nomatch h

theorem pageWalk (asid va : Nat) : Statement (.pageWalk asid va) := fun _ h _ => nomatch h

theorem fillRedirect (die asid va : Nat) : Statement (.fillRedirect die asid va) := fun _ h _ => nomatch h

theorem nvmeCompletion (id status : Nat) : Statement (.nvmeCompletion id status) := fun _ h _ => nomatch h

theorem nvmeTimeout (id : Nat) : Statement (.nvmeTimeout id) := fun _ h _ => nomatch h

theorem launchRegister (queue : Nat) (slot : BitVec 512) : Statement (.launchRegister queue slot) := fun _ h _ => nomatch h

theorem registerWrite (addr bytes : Nat) (value : BitVec 64) : Statement (.registerWrite addr bytes value) := fun _ h _ => nomatch h

theorem latchPoint (head mode : Nat) : Statement (.latchPoint head mode) := fun _ h _ => nomatch h

theorem linkRetrain (port : Nat) : Statement (.linkRetrain port) := fun _ h _ => nomatch h

theorem flitReplay (port : Nat) : Statement (.flitReplay port) := fun _ h _ => nomatch h

theorem linkUp (port : Nat) : Statement (.linkUp port) := fun _ h _ => nomatch h

theorem peerDown (port : Nat) : Statement (.peerDown port) := fun _ h _ => nomatch h

theorem eccCorrected (source die unit addr : Nat) : Statement (.eccCorrected source die unit addr) := fun _ h _ => nomatch h

theorem eccUncorrected (source die unit addr : Nat) : Statement (.eccUncorrected source die unit addr) := fun _ h _ => nomatch h

theorem patrolScrub (line : Nat) : Statement (.patrolScrub line) := fun _ h _ => nomatch h

theorem replan (die : Nat) : Statement (.replan die) := fun _ h _ => nomatch h

theorem lowSlack (die : Nat) : Statement (.lowSlack die) := fun _ h _ => nomatch h

theorem thermalLimit (die : Nat) : Statement (.thermalLimit die) := fun _ h _ => nomatch h

theorem governorWindow (die : Nat) : Statement (.governorWindow die) := fun _ h _ => nomatch h

theorem bankGate (core bank : Nat) : Statement (.bankGate core bank) := fun _ h _ => nomatch h

theorem hostBar2Read (addr bytes : Nat) : Statement (.hostBar2Read addr bytes) := fun _ h _ => nomatch h

theorem hostBar2Write (addr bytes : Nat) (value : BitVec 512) : Statement (.hostBar2Write addr bytes value) := fun _ h _ => nomatch h

theorem contextCreation (ctx : Nat) (saves : Bool) : Statement (.contextCreation ctx saves) := fun _ h _ => nomatch h

theorem powerGating (unit : Nat) : Statement (.powerGating unit) := fun _ h _ => nomatch h

theorem temperatureDrop (die : Nat) : Statement (.temperatureDrop die) := fun _ h _ => nomatch h

theorem pldmRequest (subject image : Nat) : Statement (.pldmRequest subject image) := fun _ h _ => nomatch h

theorem cxlMemAccess (write : Bool) (addr bytes : Nat) (value : BitVec 512) : Statement (.cxlMemAccess write addr bytes value) := fun _ h _ => nomatch h

theorem nop : Statement (.nop) := by
  intro w h _; cases h
  simp [decodeWord, decodeRow0, opcodeOf_wordR, fieldD_wordR, fieldA_wordR, fieldB_wordR, unused]

theorem ret : Statement (.ret) := by
  intro w h _; cases h
  simp [decodeWord, decodeRow0, opcodeOf_wordR, fieldD_wordR, fieldA_wordR, fieldB_wordR, unused]

theorem join : Statement (.join) := by
  intro w h _; cases h
  simp [decodeWord, decodeRow0, opcodeOf_wordR, fieldD_wordR, fieldA_wordR, fieldB_wordR, unused]

theorem exit : Statement (.exit) := by
  intro w h _; cases h
  simp [decodeWord, decodeRow0, opcodeOf_wordR, fieldD_wordR, fieldA_wordR, fieldB_wordR, unused]

theorem yield : Statement (.yield) := by
  intro w h _; cases h
  simp [decodeWord, decodeRow0, opcodeOf_wordR, fieldD_wordR, fieldA_wordR, fieldB_wordR, unused]

theorem idemend : Statement (.idemend) := by
  intro w h _; cases h
  simp [decodeWord, decodeRow0, opcodeOf_wordR, fieldD_wordR, fieldA_wordR, fieldB_wordR, unused]

theorem bkpt : Statement (.bkpt) := by
  intro w h _; cases h
  simp [decodeWord, decodeRow0, opcodeOf_wordR, fieldD_wordR, fieldA_wordR, fieldB_wordR, unused]

theorem tcommit : Statement (.tcommit) := by
  intro w h _; cases h
  simp [decodeWord, decodeRow8, opcodeOf_wordR, fieldD_wordR, fieldA_wordR, fieldB_wordR, unused]

theorem earlygo : Statement (.earlygo) := by
  intro w h _; cases h
  simp [decodeWord, decodeRow8, opcodeOf_wordR, fieldD_wordR, fieldA_wordR, fieldB_wordR, unused]

theorem mbatch : Statement (.mbatch) := by
  intro w h _; cases h
  simp [decodeWord, decodeRowB, opcodeOf_wordR, fieldD_wordR, fieldA_wordR, fieldB_wordR, unused]

theorem tret : Statement (.tret) := by
  intro w h _; cases h
  simp [decodeWord, decodeRowD, opcodeOf_wordR, fieldD_wordR, fieldA_wordR, fieldB_wordR, unused]

theorem park : Statement (.park) := by
  intro w h _; cases h
  simp [decodeWord, decodeRowD, opcodeOf_wordR, fieldD_wordR, fieldA_wordR, fieldB_wordR, unused]

theorem regionSwitchPoint : Statement (.regionSwitchPoint) := fun _ h _ => nomatch h

theorem deviceReset : Statement (.deviceReset) := fun _ h _ => nomatch h

end Sys2Proof.Laws.RoundTrip
end

