-- ==== Sys2Proof/Laws/Registers.lean ====
section
/-!
SUPPORT. Sys2Proof/Laws/Registers.lean: what the writes of registers change of a wave, said once for each of them.
-/

namespace Sys2Proof.Claims

open Machine

theorem ite_of_iff {α : Type} {P Q : Prop} [Decidable P] [Decidable Q] {a b : α} (h : P ↔ Q) : (if P then a else b) = if Q then a else b := by
  by_cases p : P
  · rw [if_pos p, if_pos (h.1 p)]
  · rw [if_neg p, if_neg fun q => p (h.2 q)]

/-! ## Sets of lanes -/

theorem mem_lanesOf {m : LaneMask} {l : Nat} : l ∈ lanesOf m ↔ l < 32 ∧ m.getLsbD l = true := by simp [lanesOf]

theorem laneSet_getLsbD (p : Nat → Bool) (l : Nat) : (laneSet p).getLsbD l = (decide (l < 32) && p l) := by
  have h : ∀ n, n ≤ 32 → ((List.range n).foldl (fun m l => if p l then m ||| (1#32 <<< l) else m) 0#32).getLsbD l =
      (decide (l < n) && p l) := by
    intro n hn
    induction n with
    | zero => simp
    | succ n ih =>
      rw [List.range_succ, List.foldl_append, List.foldl_cons, List.foldl_nil]
      by_cases hl : l = n
      · subst hl
        split
        · simp [ih (by omega), *]; omega
        · simp [ih (by omega), *]
      · have e : (decide (l < n + 1) && p l) = (decide (l < n) && p l) := by
          congr 1; exact decide_eq_decide.2 (by omega)
        rw [e, ← ih (by omega)]
        split
        · simp [BitVec.getLsbD_or, BitVec.getLsbD_shiftLeft]
          intro _ _
          omega
        · rfl
  exact h 32 (Nat.le_refl _)

/-! ## v registers -/

theorem vKey_inj {n l r j : Nat} (hl : l < 32) (hj : j < 32) : vKey r j = vKey n l ↔ r = n ∧ j = l := by unfold vKey; omega

/-- Writes of one register over lanes. -/
theorem get_foldl_put (n : Nat) (f : Nat → Word) (ls : List Nat) (hls : ∀ l ∈ ls, l < 32) (t : Tab Word) (r j : Nat) (hj : j < 32) :
    Tab.get 0#32 (ls.foldl (fun t l => t.put 0#32 (vKey n l) (f l)) t) (vKey r j) =
      if r = n ∧ j ∈ ls then f j else Tab.get 0#32 t (vKey r j) := by
  induction ls generalizing t with
  | nil => simp
  | cons l ls ih =>
    rw [List.foldl_cons, ih fun x hx => hls x (List.mem_cons_of_mem _ hx)]
    have hl := hls l (List.mem_cons_self ..)
    by_cases hm : r = n ∧ j ∈ ls
    · rw [if_pos hm, if_pos ⟨hm.1, List.mem_cons_of_mem _ hm.2⟩]
    · rw [if_neg hm, Tab.get_put]
      by_cases hk : vKey r j = vKey n l
      · have := (vKey_inj hl hj).1 hk
        rw [if_pos hk, if_pos ⟨this.1, this.2 ▸ List.mem_cons_self ..⟩, this.2]
      · rw [if_neg hk, if_neg]
        rintro ⟨h1, h2⟩
        rcases List.mem_cons.1 h2 with h2 | h2
        · exact hk ((vKey_inj hl hj).2 ⟨h1, h2⟩)
        · exact hm ⟨h1, h2⟩

theorem get_writeV (w : Wave) (n : Nat) (lanes : LaneMask) (f : Nat → Word) (r j : Nat) (hj : j < 32) :
    Tab.get 0#32 (w.writeV n lanes f).v (vKey r j) =
      if r = n ∧ lanes.getLsbD j = true then f j else Tab.get 0#32 w.v (vKey r j) := by
  rw [Wave.writeV, get_foldl_put n f _ (fun l hl => (mem_lanesOf.1 hl).1) _ _ _ hj]
  simp [mem_lanesOf, hj]

@[simp] theorem writeV_k (w : Wave) (n : Nat) (m : LaneMask) (f : Nat → Word) : (w.writeV n m f).k = w.k := rfl
@[simp] theorem writeV_q (w : Wave) (n : Nat) (m : LaneMask) (f : Nat → Word) : (w.writeV n m f).q = w.q := rfl
@[simp] theorem writeV_tx (w : Wave) (n : Nat) (m : LaneMask) (f : Nat → Word) : (w.writeV n m f).tx = w.tx := rfl
@[simp] theorem writeV_slot (w : Wave) (n : Nat) (m : LaneMask) (f : Nat → Word) (b : Bool) : (w.writeV n m f).slot b = w.slot b := rfl
@[simp] theorem writeK_v (w : Wave) (n : Nat) (x : Word) : (w.writeK n x).v = w.v := rfl
@[simp] theorem writeK_q (w : Wave) (n : Nat) (x : Word) : (w.writeK n x).q = w.q := rfl
@[simp] theorem writeK_tx (w : Wave) (n : Nat) (x : Word) : (w.writeK n x).tx = w.tx := rfl
@[simp] theorem writeK_slot (w : Wave) (n : Nat) (x : Word) (b : Bool) : (w.writeK n x).slot b = w.slot b := rfl

theorem get_writeK (w : Wave) (n : Nat) (x : Word) (r : Nat) :
    Tab.get 0#32 (w.writeK n x).k r = if r = n then x else Tab.get 0#32 w.k r := Tab.get_put ..

/-! ## The wave beside its registers -/

theorem SameWave.refl (u : Wave) : SameWave u u := rfl
theorem SameWave.trans {u v w : Wave} (h : SameWave u v) (g : SameWave v w) : SameWave u w := by
  unfold SameWave at *; rw [g, h]
theorem SameWave.writeV (u : Wave) (n : Nat) (m : LaneMask) (f : Nat → Word) : SameWave u (u.writeV n m f) := rfl
theorem SameWave.writeK (u : Wave) (n : Nat) (x : Word) : SameWave u (u.writeK n x) := rfl
theorem SameWave.writeQ (u : Wave) (n : Nat) (m b : LaneMask) : SameWave u (u.writeQ n m b) := by
  unfold Wave.writeQ; split <;> rfl

/-- Context e is c with registers written. -/
structure RegEffect (c e : Ctx) : Prop where
  wave : e = { c with w := e.w }
  same : SameWave c.w e.w
  tx : e.w.tx = c.w.tx
  slots : ∀ b, e.w.slot b = c.w.slot b

theorem RegEffect.effect {c e : Ctx} (h : RegEffect c e) : Effect c e := by
  have := h.wave
  exact ⟨by rw [this], by rw [this], by rw [this], by rw [this], h.tx⟩

theorem RegEffect.refl (c : Ctx) : RegEffect c c := ⟨rfl, rfl, rfl, fun _ => rfl⟩
theorem RegEffect.trans {a b c : Ctx} (h : RegEffect a b) (g : RegEffect b c) : RegEffect a c :=
  ⟨by rw [g.wave, h.wave], h.same.trans g.same, g.tx.trans h.tx, fun x => (g.slots x).trans (h.slots x)⟩

theorem RegEffect.putAt (c : Ctx) (d : Reg) (j : Nat) (m : LaneMask) (f : Nat → Word) : RegEffect c (c.putAt d j m f) := by
  unfold Ctx.putAt
  cases d with
  | v n => exact ⟨rfl, rfl, rfl, fun _ => rfl⟩
  | k n => dsimp only; split
           · exact .refl c
           · exact ⟨rfl, rfl, rfl, fun _ => rfl⟩
  | c n => exact .refl c

theorem put_eq_putAt (c : Ctx) (d : Reg) (m : LaneMask) (f : Nat → Word) : c.put d m f = c.putAt d 0 m f := by cases d <;> rfl

theorem RegEffect.put (c : Ctx) (d : Reg) (m : LaneMask) (f : Nat → Word) : RegEffect c (c.put d m f) := by
  rw [put_eq_putAt]; exact .putAt ..

theorem RegEffect.put64 (c : Ctx) (d : Reg) (m : LaneMask) (f : Nat → DWord) : RegEffect c (c.put64 d m f) :=
  (RegEffect.putAt ..).trans (.putAt ..)

theorem RegEffect.putQ (c : Ctx) (q : PredField) (m : LaneMask) (f : Nat → Bool) : RegEffect c (c.putQ q m f) := by
  refine ⟨rfl, SameWave.writeQ .., ?_, fun b => ?_⟩ <;> unfold Ctx.putQ Wave.writeQ <;> split <;> rfl

/-! ## What the puts write -/

/-- Word 0. -/
theorem WritesRun.putAt_zero (c : Ctx) (d : Reg) (m : LaneMask) (f : Nat → Word) : WritesRun c.w (c.putAt d 0 m f).w d 1 m fun _ l => f l := by
  cases d with
  | v n =>
    refine ⟨fun r l hl => ?_, rfl, rfl⟩
    simp only [Ctx.putAt, get_writeV _ _ _ _ _ _ hl]
    exact ite_of_iff ⟨fun h => ⟨by omega, by omega, h.2⟩, fun h => ⟨by omega, h.2.2⟩⟩
  | k n =>
    simp only [WritesRun, Ctx.putAt]
    split
    · exact ⟨rfl, fun r => by rw [if_neg (by simp [*])], rfl⟩
    · refine ⟨rfl, fun r => ?_, rfl⟩
      rw [get_writeK]
      by_cases h : r = n.val
      · rw [if_pos (by omega), if_pos ⟨by omega, by omega, ‹_›⟩]
      · rw [if_neg (by omega), if_neg (by omega)]
  | c n => exact ⟨rfl, rfl, rfl⟩

theorem WritesRun.put (c : Ctx) (d : Reg) (m : LaneMask) (f : Nat → Word) : WritesRun c.w (c.put d m f).w d 1 m fun _ l => f l := by
  rw [put_eq_putAt]; exact .putAt_zero ..

/-- One more word behind a run. -/
theorem WritesRun.putAt_next {u : Wave} (c : Ctx) (d : Reg) (n : Nat) (m : LaneMask) (f : Nat → Nat → Word) (h : WritesRun u c.w d n m f) :
    WritesRun u (c.putAt d n m (f n)).w d (n + 1) m f := by
  cases d with
  | v b =>
    obtain ⟨h1, h2, h3⟩ := h
    refine ⟨fun r l hl => ?_, h2, h3⟩
    simp only [Ctx.putAt, get_writeV _ _ _ _ _ _ hl, h1 r l hl]
    by_cases h : r = b.val + n ∧ m.getLsbD l = true
    · rw [if_pos h, if_pos ⟨by omega, by omega, h.2⟩, h.1, Nat.add_sub_cancel_left]
    · rw [if_neg h]
      refine ite_of_iff ⟨fun g => ⟨g.1, by omega, g.2.2⟩, fun g => ⟨g.1, ?_, g.2.2⟩⟩
      have : r ≠ b.val + n := fun e => h ⟨e, g.2.2⟩
      omega
  | k b =>
    obtain ⟨h1, h2, h3⟩ := h
    simp only [WritesRun, Ctx.putAt]
    split
    · refine ⟨h1, fun r => ?_, h3⟩
      rw [h2 r, if_neg (by simp [*]), if_neg (by simp [*])]
    · refine ⟨h1, fun r => ?_, h3⟩
      rw [get_writeK, h2 r]
      by_cases h : r = b.val + n
      · rw [if_pos (by omega), if_pos ⟨by omega, by omega, ‹_›⟩, h, Nat.add_sub_cancel_left]
      · rw [if_neg (by omega)]
        by_cases g : b.val ≤ r ∧ r < b.val + n
        · rw [if_pos ⟨g.1, g.2, ‹_›⟩, if_pos ⟨by omega, by omega, ‹_›⟩]
        · rw [if_neg (by omega), if_neg (by omega)]
  | c b => exact h

theorem WritesRun.put64 (c : Ctx) (d : Reg) (m : LaneMask) (f : Nat → DWord) : WritesRun c.w (c.put64 d m f).w d 2 m (halves f) := by
  unfold Ctx.put64
  have h := WritesRun.putAt_zero c d m fun l => (f l).extractLsb' 0 32
  refine WritesRun.putAt_next _ d 1 m (halves f) ?_
  revert h
  cases d with
  | v n => exact fun h => ⟨fun r l hl => by
      rw [h.1 r l hl]; split
      · rw [show r - n.val = 0 by omega]; rfl
      · rfl, h.2⟩
  | k n => exact fun h => ⟨h.1, fun r => by
      rw [h.2.1 r]; split
      · rw [show r - n.val = 0 by omega]; rfl
      · rfl, h.2.2⟩
  | c n => exact id

theorem WritesPred.putQ (c : Ctx) (q : PredField) (m : LaneMask) (f : Nat → Bool) : WritesPred c.w (c.putQ q m f).w q m f := by
  unfold Ctx.putQ Wave.writeQ
  split
  · refine ⟨rfl, rfl, fun r l _ => ?_⟩
    rw [if_neg (by omega)]
  · refine ⟨rfl, rfl, fun r l hl => ?_⟩
    simp only [Tab.get_put]
    by_cases h : r = q.toNat
    · rw [if_pos h]
      subst h
      simp only [mergeLanes, BitVec.getLsbD_or, BitVec.getLsbD_and, BitVec.getLsbD_not, laneSet_getLsbD]
      cases hm : m.getLsbD l <;> simp [*]
    · rw [if_neg h, if_neg (by omega)]

/-! ## Instructions that write registers alone -/

/-- The result of an instruction whose meaning answers `.done e` for registers written. -/
theorem issue_registers {i : Instr} {legal : ModeImage → Bool} {s : State} {c e : Ctx} {body : Ctx → Res} (h : Issues i legal s c)
    (hb : body c = .done e) (he : RegEffect c e) :
    ∃ t w, issue i legal s body = .next t ∧ Completed c c.cur.next t w ∧ w.v = e.w.v ∧ w.k = e.w.k ∧ w.q = e.w.q := by
  obtain ⟨t, w, ht, hc, hw⟩ := issue_done h hb he.effect
  have hx := he.wave
  exact ⟨t, w, ht, hc.registers (by rw [hx]) (by rw [hx]) he.effect (by rw [hx]) he.same (he.slots _), hw⟩

theorem WritesRun.congr {u w w' : Wave} {d : Reg} {n : Nat} {m : LaneMask} {f : Nat → Nat → Word} (h : WritesRun u w d n m f)
    (hw : w'.v = w.v ∧ w'.k = w.k ∧ w'.q = w.q) : WritesRun u w' d n m f := by
  unfold WritesRun at *; rw [hw.1, hw.2.1, hw.2.2]; exact h

theorem WritesPred.congr {u w w' : Wave} {q : PredField} {m : LaneMask} {f : Nat → Bool} (h : WritesPred u w q m f)
    (hw : w'.v = w.v ∧ w'.k = w.k ∧ w'.q = w.q) : WritesPred u w' q m f := by
  unfold WritesPred at *; rw [hw.1, hw.2.1, hw.2.2]; exact h

end Sys2Proof.Claims
end

