-- ==== Sys2Proof/Laws/State.lean ====
section
/-!
SUPPORT. Sys2Proof/Laws/State.lean: what each named update of the state leaves in each field: one lemma per field and update, so that no
proof unfolds a record update.
-/

namespace Sys2Proof.Machine

open Sys2Proof

section
variable (s : State)

@[simp] theorem State.setContext_clk (i : Nat) (c : Context) : (s.setContext i c).clk = s.clk := rfl
@[simp] theorem State.setContext_agenda (i : Nat) (c : Context) : (s.setContext i c).agenda = s.agenda := rfl
@[simp] theorem State.setContext_timers (i : Nat) (c : Context) : (s.setContext i c).timers = s.timers := rfl
@[simp] theorem State.setContext_cur (i : Nat) (c : Context) : (s.setContext i c).cur = s.cur := rfl
@[simp] theorem State.setContext_free (i : Nat) (c : Context) : (s.setContext i c).free = s.free := rfl
@[simp] theorem State.setContext_serial (i : Nat) (c : Context) : (s.setContext i c).serial = s.serial := rfl
@[simp] theorem State.setContext_picker (i : Nat) (c : Context) : (s.setContext i c).picker = s.picker := rfl
@[simp] theorem State.setContext_groups (i : Nat) (c : Context) : (s.setContext i c).groups = s.groups := rfl
@[simp] theorem State.setContext_mem (i : Nat) (c : Context) : (s.setContext i c).mem = s.mem := rfl
@[simp] theorem State.setContext_unwritten (i : Nat) (c : Context) : (s.setContext i c).unwritten = s.unwritten := rfl
@[simp] theorem State.setContext_lines (i : Nat) (c : Context) : (s.setContext i c).lines = s.lines := rfl
@[simp] theorem State.setContext_leases (i : Nat) (c : Context) : (s.setContext i c).leases = s.leases := rfl
@[simp] theorem State.setContext_writes (i : Nat) (c : Context) : (s.setContext i c).writes = s.writes := rfl
@[simp] theorem State.setContext_past (i : Nat) (c : Context) : (s.setContext i c).past = s.past := rfl
@[simp] theorem State.setContext_posted (i : Nat) (c : Context) : (s.setContext i c).posted = s.posted := rfl
@[simp] theorem State.setContext_lags (i : Nat) (c : Context) : (s.setContext i c).lags = s.lags := rfl
@[simp] theorem State.setContext_versions (i : Nat) (c : Context) : (s.setContext i c).versions = s.versions := rfl
@[simp] theorem State.setContext_tags (i : Nat) (c : Context) : (s.setContext i c).tags = s.tags := rfl
@[simp] theorem State.setContext_softRegions (i : Nat) (c : Context) : (s.setContext i c).softRegions = s.softRegions := rfl
@[simp] theorem State.setContext_guestCopies (i : Nat) (c : Context) : (s.setContext i c).guestCopies = s.guestCopies := rfl
@[simp] theorem State.setContext_guestDirty (i : Nat) (c : Context) : (s.setContext i c).guestDirty = s.guestDirty := rfl
@[simp] theorem State.setContext_tlb (i : Nat) (c : Context) : (s.setContext i c).tlb = s.tlb := rfl
@[simp] theorem State.setContext_remap (i : Nat) (c : Context) : (s.setContext i c).remap = s.remap := rfl
@[simp] theorem State.setContext_window (i : Nat) (c : Context) : (s.setContext i c).window = s.window := rfl
@[simp] theorem State.setContext_faults (i : Nat) (c : Context) : (s.setContext i c).faults = s.faults := rfl
@[simp] theorem State.setContext_faultResults (i : Nat) (c : Context) : (s.setContext i c).faultResults = s.faultResults := rfl
@[simp] theorem State.setContext_refused (i : Nat) (c : Context) : (s.setContext i c).refused = s.refused := rfl
@[simp] theorem State.setContext_frontWrites (i : Nat) (c : Context) : (s.setContext i c).frontWrites = s.frontWrites := rfl
@[simp] theorem State.setContext_dies (i : Nat) (c : Context) : (s.setContext i c).dies = s.dies := rfl
@[simp] theorem State.setContext_launches (i : Nat) (c : Context) : (s.setContext i c).launches = s.launches := rfl
@[simp] theorem State.setContext_gangs (i : Nat) (c : Context) : (s.setContext i c).gangs = s.gangs := rfl
@[simp] theorem State.setContext_queues (i : Nat) (c : Context) : (s.setContext i c).queues = s.queues := rfl
@[simp] theorem State.setContext_contexts (i : Nat) (c : Context) : (s.setContext i c).contexts = s.contexts.put {} i c := rfl
@[simp] theorem State.setContext_runs (i : Nat) (c : Context) : (s.setContext i c).runs = s.runs := rfl
@[simp] theorem State.setContext_forkWaits (i : Nat) (c : Context) : (s.setContext i c).forkWaits = s.forkWaits := rfl
@[simp] theorem State.setContext_visits (i : Nat) (c : Context) : (s.setContext i c).visits = s.visits := rfl
@[simp] theorem State.setContext_lastDie (i : Nat) (c : Context) : (s.setContext i c).lastDie = s.lastDie := rfl
@[simp] theorem State.setContext_grows (i : Nat) (c : Context) : (s.setContext i c).grows = s.grows := rfl
@[simp] theorem State.setContext_copies (i : Nat) (c : Context) : (s.setContext i c).copies = s.copies := rfl
@[simp] theorem State.setContext_laneOps (i : Nat) (c : Context) : (s.setContext i c).laneOps = s.laneOps := rfl
@[simp] theorem State.setContext_heads (i : Nat) (c : Context) : (s.setContext i c).heads = s.heads := rfl
@[simp] theorem State.setContext_device (i : Nat) (c : Context) : (s.setContext i c).device = s.device := rfl
@[simp] theorem State.setContext_ports (i : Nat) (c : Context) : (s.setContext i c).ports = s.ports := rfl
@[simp] theorem State.setContext_power (i : Nat) (c : Context) : (s.setContext i c).power = s.power := rfl
@[simp] theorem State.setContext_vector (i : Nat) (c : Context) : (s.setContext i c).vector = s.vector := rfl
@[simp] theorem State.setContext_matrix (i : Nat) (c : Context) : (s.setContext i c).matrix = s.matrix := rfl
@[simp] theorem State.setContext_awakeBanks (i : Nat) (c : Context) : (s.setContext i c).awakeBanks = s.awakeBanks := rfl
@[simp] theorem State.setContext_bankFreed (i : Nat) (c : Context) : (s.setContext i c).bankFreed = s.bankFreed := rfl
@[simp] theorem State.setContext_placeFrom (i : Nat) (c : Context) : (s.setContext i c).placeFrom = s.placeFrom := rfl
@[simp] theorem State.setContext_gatedUnits (i : Nat) (c : Context) : (s.setContext i c).gatedUnits = s.gatedUnits := rfl
@[simp] theorem State.setContext_health (i : Nat) (c : Context) : (s.setContext i c).health = s.health := rfl
@[simp] theorem State.setContext_trust (i : Nat) (c : Context) : (s.setContext i c).trust = s.trust := rfl
@[simp] theorem State.setContext_bar0 (i : Nat) (c : Context) : (s.setContext i c).bar0 = s.bar0 := rfl
@[simp] theorem State.setContext_msixTable (i : Nat) (c : Context) : (s.setContext i c).msixTable = s.msixTable := rfl
@[simp] theorem State.setContext_msixPending (i : Nat) (c : Context) : (s.setContext i c).msixPending = s.msixPending := rfl
@[simp] theorem State.setContext_msixSent (i : Nat) (c : Context) : (s.setContext i c).msixSent = s.msixSent := rfl
@[simp] theorem State.setContext_hostReply (i : Nat) (c : Context) : (s.setContext i c).hostReply = s.hostReply := rfl
@[simp] theorem State.setContext_nearOld (i : Nat) (c : Context) : (s.setContext i c).nearOld = s.nearOld := rfl
@[simp] theorem State.setContext_management (i : Nat) (c : Context) : (s.setContext i c).management = s.management := rfl

@[simp] theorem State.setDie_clk (d : Nat) (x : Die) : (s.setDie d x).clk = s.clk := rfl
@[simp] theorem State.setDie_agenda (d : Nat) (x : Die) : (s.setDie d x).agenda = s.agenda := rfl
@[simp] theorem State.setDie_timers (d : Nat) (x : Die) : (s.setDie d x).timers = s.timers := rfl
@[simp] theorem State.setDie_cur (d : Nat) (x : Die) : (s.setDie d x).cur = s.cur := rfl
@[simp] theorem State.setDie_free (d : Nat) (x : Die) : (s.setDie d x).free = s.free := rfl
@[simp] theorem State.setDie_serial (d : Nat) (x : Die) : (s.setDie d x).serial = s.serial := rfl
@[simp] theorem State.setDie_picker (d : Nat) (x : Die) : (s.setDie d x).picker = s.picker := rfl
@[simp] theorem State.setDie_groups (d : Nat) (x : Die) : (s.setDie d x).groups = s.groups := rfl
@[simp] theorem State.setDie_mem (d : Nat) (x : Die) : (s.setDie d x).mem = s.mem := rfl
@[simp] theorem State.setDie_unwritten (d : Nat) (x : Die) : (s.setDie d x).unwritten = s.unwritten := rfl
@[simp] theorem State.setDie_lines (d : Nat) (x : Die) : (s.setDie d x).lines = s.lines := rfl
@[simp] theorem State.setDie_leases (d : Nat) (x : Die) : (s.setDie d x).leases = s.leases := rfl
@[simp] theorem State.setDie_writes (d : Nat) (x : Die) : (s.setDie d x).writes = s.writes := rfl
@[simp] theorem State.setDie_past (d : Nat) (x : Die) : (s.setDie d x).past = s.past := rfl
@[simp] theorem State.setDie_posted (d : Nat) (x : Die) : (s.setDie d x).posted = s.posted := rfl
@[simp] theorem State.setDie_lags (d : Nat) (x : Die) : (s.setDie d x).lags = s.lags := rfl
@[simp] theorem State.setDie_versions (d : Nat) (x : Die) : (s.setDie d x).versions = s.versions := rfl
@[simp] theorem State.setDie_tags (d : Nat) (x : Die) : (s.setDie d x).tags = s.tags := rfl
@[simp] theorem State.setDie_softRegions (d : Nat) (x : Die) : (s.setDie d x).softRegions = s.softRegions := rfl
@[simp] theorem State.setDie_guestCopies (d : Nat) (x : Die) : (s.setDie d x).guestCopies = s.guestCopies := rfl
@[simp] theorem State.setDie_guestDirty (d : Nat) (x : Die) : (s.setDie d x).guestDirty = s.guestDirty := rfl
@[simp] theorem State.setDie_tlb (d : Nat) (x : Die) : (s.setDie d x).tlb = s.tlb := rfl
@[simp] theorem State.setDie_remap (d : Nat) (x : Die) : (s.setDie d x).remap = s.remap := rfl
@[simp] theorem State.setDie_window (d : Nat) (x : Die) : (s.setDie d x).window = s.window := rfl
@[simp] theorem State.setDie_faults (d : Nat) (x : Die) : (s.setDie d x).faults = s.faults := rfl
@[simp] theorem State.setDie_faultResults (d : Nat) (x : Die) : (s.setDie d x).faultResults = s.faultResults := rfl
@[simp] theorem State.setDie_refused (d : Nat) (x : Die) : (s.setDie d x).refused = s.refused := rfl
@[simp] theorem State.setDie_frontWrites (d : Nat) (x : Die) : (s.setDie d x).frontWrites = s.frontWrites := rfl
@[simp] theorem State.setDie_dies (d : Nat) (x : Die) : (s.setDie d x).dies = s.dies.put {} d x := rfl
@[simp] theorem State.setDie_launches (d : Nat) (x : Die) : (s.setDie d x).launches = s.launches := rfl
@[simp] theorem State.setDie_gangs (d : Nat) (x : Die) : (s.setDie d x).gangs = s.gangs := rfl
@[simp] theorem State.setDie_queues (d : Nat) (x : Die) : (s.setDie d x).queues = s.queues := rfl
@[simp] theorem State.setDie_contexts (d : Nat) (x : Die) : (s.setDie d x).contexts = s.contexts := rfl
@[simp] theorem State.setDie_runs (d : Nat) (x : Die) : (s.setDie d x).runs = s.runs := rfl
@[simp] theorem State.setDie_forkWaits (d : Nat) (x : Die) : (s.setDie d x).forkWaits = s.forkWaits := rfl
@[simp] theorem State.setDie_visits (d : Nat) (x : Die) : (s.setDie d x).visits = s.visits := rfl
@[simp] theorem State.setDie_lastDie (d : Nat) (x : Die) : (s.setDie d x).lastDie = s.lastDie := rfl
@[simp] theorem State.setDie_grows (d : Nat) (x : Die) : (s.setDie d x).grows = s.grows := rfl
@[simp] theorem State.setDie_copies (d : Nat) (x : Die) : (s.setDie d x).copies = s.copies := rfl
@[simp] theorem State.setDie_laneOps (d : Nat) (x : Die) : (s.setDie d x).laneOps = s.laneOps := rfl
@[simp] theorem State.setDie_heads (d : Nat) (x : Die) : (s.setDie d x).heads = s.heads := rfl
@[simp] theorem State.setDie_device (d : Nat) (x : Die) : (s.setDie d x).device = s.device := rfl
@[simp] theorem State.setDie_ports (d : Nat) (x : Die) : (s.setDie d x).ports = s.ports := rfl
@[simp] theorem State.setDie_power (d : Nat) (x : Die) : (s.setDie d x).power = s.power := rfl
@[simp] theorem State.setDie_vector (d : Nat) (x : Die) : (s.setDie d x).vector = s.vector := rfl
@[simp] theorem State.setDie_matrix (d : Nat) (x : Die) : (s.setDie d x).matrix = s.matrix := rfl
@[simp] theorem State.setDie_awakeBanks (d : Nat) (x : Die) : (s.setDie d x).awakeBanks = s.awakeBanks := rfl
@[simp] theorem State.setDie_bankFreed (d : Nat) (x : Die) : (s.setDie d x).bankFreed = s.bankFreed := rfl
@[simp] theorem State.setDie_placeFrom (d : Nat) (x : Die) : (s.setDie d x).placeFrom = s.placeFrom := rfl
@[simp] theorem State.setDie_gatedUnits (d : Nat) (x : Die) : (s.setDie d x).gatedUnits = s.gatedUnits := rfl
@[simp] theorem State.setDie_health (d : Nat) (x : Die) : (s.setDie d x).health = s.health := rfl
@[simp] theorem State.setDie_trust (d : Nat) (x : Die) : (s.setDie d x).trust = s.trust := rfl
@[simp] theorem State.setDie_bar0 (d : Nat) (x : Die) : (s.setDie d x).bar0 = s.bar0 := rfl
@[simp] theorem State.setDie_msixTable (d : Nat) (x : Die) : (s.setDie d x).msixTable = s.msixTable := rfl
@[simp] theorem State.setDie_msixPending (d : Nat) (x : Die) : (s.setDie d x).msixPending = s.msixPending := rfl
@[simp] theorem State.setDie_msixSent (d : Nat) (x : Die) : (s.setDie d x).msixSent = s.msixSent := rfl
@[simp] theorem State.setDie_hostReply (d : Nat) (x : Die) : (s.setDie d x).hostReply = s.hostReply := rfl
@[simp] theorem State.setDie_nearOld (d : Nat) (x : Die) : (s.setDie d x).nearOld = s.nearOld := rfl
@[simp] theorem State.setDie_management (d : Nat) (x : Die) : (s.setDie d x).management = s.management := rfl

@[simp] theorem State.setQueue_clk (q : Nat) (x : Queue) : (s.setQueue q x).clk = s.clk := rfl
@[simp] theorem State.setQueue_agenda (q : Nat) (x : Queue) : (s.setQueue q x).agenda = s.agenda := rfl
@[simp] theorem State.setQueue_timers (q : Nat) (x : Queue) : (s.setQueue q x).timers = s.timers := rfl
@[simp] theorem State.setQueue_cur (q : Nat) (x : Queue) : (s.setQueue q x).cur = s.cur := rfl
@[simp] theorem State.setQueue_free (q : Nat) (x : Queue) : (s.setQueue q x).free = s.free := rfl
@[simp] theorem State.setQueue_serial (q : Nat) (x : Queue) : (s.setQueue q x).serial = s.serial := rfl
@[simp] theorem State.setQueue_picker (q : Nat) (x : Queue) : (s.setQueue q x).picker = s.picker := rfl
@[simp] theorem State.setQueue_groups (q : Nat) (x : Queue) : (s.setQueue q x).groups = s.groups := rfl
@[simp] theorem State.setQueue_mem (q : Nat) (x : Queue) : (s.setQueue q x).mem = s.mem := rfl
@[simp] theorem State.setQueue_unwritten (q : Nat) (x : Queue) : (s.setQueue q x).unwritten = s.unwritten := rfl
@[simp] theorem State.setQueue_lines (q : Nat) (x : Queue) : (s.setQueue q x).lines = s.lines := rfl
@[simp] theorem State.setQueue_leases (q : Nat) (x : Queue) : (s.setQueue q x).leases = s.leases := rfl
@[simp] theorem State.setQueue_writes (q : Nat) (x : Queue) : (s.setQueue q x).writes = s.writes := rfl
@[simp] theorem State.setQueue_past (q : Nat) (x : Queue) : (s.setQueue q x).past = s.past := rfl
@[simp] theorem State.setQueue_posted (q : Nat) (x : Queue) : (s.setQueue q x).posted = s.posted := rfl
@[simp] theorem State.setQueue_lags (q : Nat) (x : Queue) : (s.setQueue q x).lags = s.lags := rfl
@[simp] theorem State.setQueue_versions (q : Nat) (x : Queue) : (s.setQueue q x).versions = s.versions := rfl
@[simp] theorem State.setQueue_tags (q : Nat) (x : Queue) : (s.setQueue q x).tags = s.tags := rfl
@[simp] theorem State.setQueue_softRegions (q : Nat) (x : Queue) : (s.setQueue q x).softRegions = s.softRegions := rfl
@[simp] theorem State.setQueue_guestCopies (q : Nat) (x : Queue) : (s.setQueue q x).guestCopies = s.guestCopies := rfl
@[simp] theorem State.setQueue_guestDirty (q : Nat) (x : Queue) : (s.setQueue q x).guestDirty = s.guestDirty := rfl
@[simp] theorem State.setQueue_tlb (q : Nat) (x : Queue) : (s.setQueue q x).tlb = s.tlb := rfl
@[simp] theorem State.setQueue_remap (q : Nat) (x : Queue) : (s.setQueue q x).remap = s.remap := rfl
@[simp] theorem State.setQueue_window (q : Nat) (x : Queue) : (s.setQueue q x).window = s.window := rfl
@[simp] theorem State.setQueue_faults (q : Nat) (x : Queue) : (s.setQueue q x).faults = s.faults := rfl
@[simp] theorem State.setQueue_faultResults (q : Nat) (x : Queue) : (s.setQueue q x).faultResults = s.faultResults := rfl
@[simp] theorem State.setQueue_refused (q : Nat) (x : Queue) : (s.setQueue q x).refused = s.refused := rfl
@[simp] theorem State.setQueue_frontWrites (q : Nat) (x : Queue) : (s.setQueue q x).frontWrites = s.frontWrites := rfl
@[simp] theorem State.setQueue_dies (q : Nat) (x : Queue) : (s.setQueue q x).dies = s.dies := rfl
@[simp] theorem State.setQueue_launches (q : Nat) (x : Queue) : (s.setQueue q x).launches = s.launches := rfl
@[simp] theorem State.setQueue_gangs (q : Nat) (x : Queue) : (s.setQueue q x).gangs = s.gangs := rfl
@[simp] theorem State.setQueue_queues (q : Nat) (x : Queue) : (s.setQueue q x).queues = s.queues.put (queueReset q) q x := rfl
@[simp] theorem State.setQueue_contexts (q : Nat) (x : Queue) : (s.setQueue q x).contexts = s.contexts := rfl
@[simp] theorem State.setQueue_runs (q : Nat) (x : Queue) : (s.setQueue q x).runs = s.runs := rfl
@[simp] theorem State.setQueue_forkWaits (q : Nat) (x : Queue) : (s.setQueue q x).forkWaits = s.forkWaits := rfl
@[simp] theorem State.setQueue_visits (q : Nat) (x : Queue) : (s.setQueue q x).visits = s.visits := rfl
@[simp] theorem State.setQueue_lastDie (q : Nat) (x : Queue) : (s.setQueue q x).lastDie = s.lastDie := rfl
@[simp] theorem State.setQueue_grows (q : Nat) (x : Queue) : (s.setQueue q x).grows = s.grows := rfl
@[simp] theorem State.setQueue_copies (q : Nat) (x : Queue) : (s.setQueue q x).copies = s.copies := rfl
@[simp] theorem State.setQueue_laneOps (q : Nat) (x : Queue) : (s.setQueue q x).laneOps = s.laneOps := rfl
@[simp] theorem State.setQueue_heads (q : Nat) (x : Queue) : (s.setQueue q x).heads = s.heads := rfl
@[simp] theorem State.setQueue_device (q : Nat) (x : Queue) : (s.setQueue q x).device = s.device := rfl
@[simp] theorem State.setQueue_ports (q : Nat) (x : Queue) : (s.setQueue q x).ports = s.ports := rfl
@[simp] theorem State.setQueue_power (q : Nat) (x : Queue) : (s.setQueue q x).power = s.power := rfl
@[simp] theorem State.setQueue_vector (q : Nat) (x : Queue) : (s.setQueue q x).vector = s.vector := rfl
@[simp] theorem State.setQueue_matrix (q : Nat) (x : Queue) : (s.setQueue q x).matrix = s.matrix := rfl
@[simp] theorem State.setQueue_awakeBanks (q : Nat) (x : Queue) : (s.setQueue q x).awakeBanks = s.awakeBanks := rfl
@[simp] theorem State.setQueue_bankFreed (q : Nat) (x : Queue) : (s.setQueue q x).bankFreed = s.bankFreed := rfl
@[simp] theorem State.setQueue_placeFrom (q : Nat) (x : Queue) : (s.setQueue q x).placeFrom = s.placeFrom := rfl
@[simp] theorem State.setQueue_gatedUnits (q : Nat) (x : Queue) : (s.setQueue q x).gatedUnits = s.gatedUnits := rfl
@[simp] theorem State.setQueue_health (q : Nat) (x : Queue) : (s.setQueue q x).health = s.health := rfl
@[simp] theorem State.setQueue_trust (q : Nat) (x : Queue) : (s.setQueue q x).trust = s.trust := rfl
@[simp] theorem State.setQueue_bar0 (q : Nat) (x : Queue) : (s.setQueue q x).bar0 = s.bar0 := rfl
@[simp] theorem State.setQueue_msixTable (q : Nat) (x : Queue) : (s.setQueue q x).msixTable = s.msixTable := rfl
@[simp] theorem State.setQueue_msixPending (q : Nat) (x : Queue) : (s.setQueue q x).msixPending = s.msixPending := rfl
@[simp] theorem State.setQueue_msixSent (q : Nat) (x : Queue) : (s.setQueue q x).msixSent = s.msixSent := rfl
@[simp] theorem State.setQueue_hostReply (q : Nat) (x : Queue) : (s.setQueue q x).hostReply = s.hostReply := rfl
@[simp] theorem State.setQueue_nearOld (q : Nat) (x : Queue) : (s.setQueue q x).nearOld = s.nearOld := rfl
@[simp] theorem State.setQueue_management (q : Nat) (x : Queue) : (s.setQueue q x).management = s.management := rfl

@[simp] theorem State.setTag_clk (n : Nat) (x : FutureTag) : (s.setTag n x).clk = s.clk := rfl
@[simp] theorem State.setTag_agenda (n : Nat) (x : FutureTag) : (s.setTag n x).agenda = s.agenda := rfl
@[simp] theorem State.setTag_timers (n : Nat) (x : FutureTag) : (s.setTag n x).timers = s.timers := rfl
@[simp] theorem State.setTag_cur (n : Nat) (x : FutureTag) : (s.setTag n x).cur = s.cur := rfl
@[simp] theorem State.setTag_free (n : Nat) (x : FutureTag) : (s.setTag n x).free = s.free := rfl
@[simp] theorem State.setTag_serial (n : Nat) (x : FutureTag) : (s.setTag n x).serial = s.serial := rfl
@[simp] theorem State.setTag_picker (n : Nat) (x : FutureTag) : (s.setTag n x).picker = s.picker := rfl
@[simp] theorem State.setTag_groups (n : Nat) (x : FutureTag) : (s.setTag n x).groups = s.groups := rfl
@[simp] theorem State.setTag_mem (n : Nat) (x : FutureTag) : (s.setTag n x).mem = s.mem := rfl
@[simp] theorem State.setTag_unwritten (n : Nat) (x : FutureTag) : (s.setTag n x).unwritten = s.unwritten := rfl
@[simp] theorem State.setTag_lines (n : Nat) (x : FutureTag) : (s.setTag n x).lines = s.lines := rfl
@[simp] theorem State.setTag_leases (n : Nat) (x : FutureTag) : (s.setTag n x).leases = s.leases := rfl
@[simp] theorem State.setTag_writes (n : Nat) (x : FutureTag) : (s.setTag n x).writes = s.writes := rfl
@[simp] theorem State.setTag_past (n : Nat) (x : FutureTag) : (s.setTag n x).past = s.past := rfl
@[simp] theorem State.setTag_posted (n : Nat) (x : FutureTag) : (s.setTag n x).posted = s.posted := rfl
@[simp] theorem State.setTag_lags (n : Nat) (x : FutureTag) : (s.setTag n x).lags = s.lags := rfl
@[simp] theorem State.setTag_versions (n : Nat) (x : FutureTag) : (s.setTag n x).versions = s.versions := rfl
@[simp] theorem State.setTag_tags (n : Nat) (x : FutureTag) : (s.setTag n x).tags = s.tags.put {} n x := rfl
@[simp] theorem State.setTag_softRegions (n : Nat) (x : FutureTag) : (s.setTag n x).softRegions = s.softRegions := rfl
@[simp] theorem State.setTag_guestCopies (n : Nat) (x : FutureTag) : (s.setTag n x).guestCopies = s.guestCopies := rfl
@[simp] theorem State.setTag_guestDirty (n : Nat) (x : FutureTag) : (s.setTag n x).guestDirty = s.guestDirty := rfl
@[simp] theorem State.setTag_tlb (n : Nat) (x : FutureTag) : (s.setTag n x).tlb = s.tlb := rfl
@[simp] theorem State.setTag_remap (n : Nat) (x : FutureTag) : (s.setTag n x).remap = s.remap := rfl
@[simp] theorem State.setTag_window (n : Nat) (x : FutureTag) : (s.setTag n x).window = s.window := rfl
@[simp] theorem State.setTag_faults (n : Nat) (x : FutureTag) : (s.setTag n x).faults = s.faults := rfl
@[simp] theorem State.setTag_faultResults (n : Nat) (x : FutureTag) : (s.setTag n x).faultResults = s.faultResults := rfl
@[simp] theorem State.setTag_refused (n : Nat) (x : FutureTag) : (s.setTag n x).refused = s.refused := rfl
@[simp] theorem State.setTag_frontWrites (n : Nat) (x : FutureTag) : (s.setTag n x).frontWrites = s.frontWrites := rfl
@[simp] theorem State.setTag_dies (n : Nat) (x : FutureTag) : (s.setTag n x).dies = s.dies := rfl
@[simp] theorem State.setTag_launches (n : Nat) (x : FutureTag) : (s.setTag n x).launches = s.launches := rfl
@[simp] theorem State.setTag_gangs (n : Nat) (x : FutureTag) : (s.setTag n x).gangs = s.gangs := rfl
@[simp] theorem State.setTag_queues (n : Nat) (x : FutureTag) : (s.setTag n x).queues = s.queues := rfl
@[simp] theorem State.setTag_contexts (n : Nat) (x : FutureTag) : (s.setTag n x).contexts = s.contexts := rfl
@[simp] theorem State.setTag_runs (n : Nat) (x : FutureTag) : (s.setTag n x).runs = s.runs := rfl
@[simp] theorem State.setTag_forkWaits (n : Nat) (x : FutureTag) : (s.setTag n x).forkWaits = s.forkWaits := rfl
@[simp] theorem State.setTag_visits (n : Nat) (x : FutureTag) : (s.setTag n x).visits = s.visits := rfl
@[simp] theorem State.setTag_lastDie (n : Nat) (x : FutureTag) : (s.setTag n x).lastDie = s.lastDie := rfl
@[simp] theorem State.setTag_grows (n : Nat) (x : FutureTag) : (s.setTag n x).grows = s.grows := rfl
@[simp] theorem State.setTag_copies (n : Nat) (x : FutureTag) : (s.setTag n x).copies = s.copies := rfl
@[simp] theorem State.setTag_laneOps (n : Nat) (x : FutureTag) : (s.setTag n x).laneOps = s.laneOps := rfl
@[simp] theorem State.setTag_heads (n : Nat) (x : FutureTag) : (s.setTag n x).heads = s.heads := rfl
@[simp] theorem State.setTag_device (n : Nat) (x : FutureTag) : (s.setTag n x).device = s.device := rfl
@[simp] theorem State.setTag_ports (n : Nat) (x : FutureTag) : (s.setTag n x).ports = s.ports := rfl
@[simp] theorem State.setTag_power (n : Nat) (x : FutureTag) : (s.setTag n x).power = s.power := rfl
@[simp] theorem State.setTag_vector (n : Nat) (x : FutureTag) : (s.setTag n x).vector = s.vector := rfl
@[simp] theorem State.setTag_matrix (n : Nat) (x : FutureTag) : (s.setTag n x).matrix = s.matrix := rfl
@[simp] theorem State.setTag_awakeBanks (n : Nat) (x : FutureTag) : (s.setTag n x).awakeBanks = s.awakeBanks := rfl
@[simp] theorem State.setTag_bankFreed (n : Nat) (x : FutureTag) : (s.setTag n x).bankFreed = s.bankFreed := rfl
@[simp] theorem State.setTag_placeFrom (n : Nat) (x : FutureTag) : (s.setTag n x).placeFrom = s.placeFrom := rfl
@[simp] theorem State.setTag_gatedUnits (n : Nat) (x : FutureTag) : (s.setTag n x).gatedUnits = s.gatedUnits := rfl
@[simp] theorem State.setTag_health (n : Nat) (x : FutureTag) : (s.setTag n x).health = s.health := rfl
@[simp] theorem State.setTag_trust (n : Nat) (x : FutureTag) : (s.setTag n x).trust = s.trust := rfl
@[simp] theorem State.setTag_bar0 (n : Nat) (x : FutureTag) : (s.setTag n x).bar0 = s.bar0 := rfl
@[simp] theorem State.setTag_msixTable (n : Nat) (x : FutureTag) : (s.setTag n x).msixTable = s.msixTable := rfl
@[simp] theorem State.setTag_msixPending (n : Nat) (x : FutureTag) : (s.setTag n x).msixPending = s.msixPending := rfl
@[simp] theorem State.setTag_msixSent (n : Nat) (x : FutureTag) : (s.setTag n x).msixSent = s.msixSent := rfl
@[simp] theorem State.setTag_hostReply (n : Nat) (x : FutureTag) : (s.setTag n x).hostReply = s.hostReply := rfl
@[simp] theorem State.setTag_nearOld (n : Nat) (x : FutureTag) : (s.setTag n x).nearOld = s.nearOld := rfl
@[simp] theorem State.setTag_management (n : Nat) (x : FutureTag) : (s.setTag n x).management = s.management := rfl

@[simp] theorem State.setPort_clk (p : Nat) (x : Port) : (s.setPort p x).clk = s.clk := rfl
@[simp] theorem State.setPort_agenda (p : Nat) (x : Port) : (s.setPort p x).agenda = s.agenda := rfl
@[simp] theorem State.setPort_timers (p : Nat) (x : Port) : (s.setPort p x).timers = s.timers := rfl
@[simp] theorem State.setPort_cur (p : Nat) (x : Port) : (s.setPort p x).cur = s.cur := rfl
@[simp] theorem State.setPort_free (p : Nat) (x : Port) : (s.setPort p x).free = s.free := rfl
@[simp] theorem State.setPort_serial (p : Nat) (x : Port) : (s.setPort p x).serial = s.serial := rfl
@[simp] theorem State.setPort_picker (p : Nat) (x : Port) : (s.setPort p x).picker = s.picker := rfl
@[simp] theorem State.setPort_groups (p : Nat) (x : Port) : (s.setPort p x).groups = s.groups := rfl
@[simp] theorem State.setPort_mem (p : Nat) (x : Port) : (s.setPort p x).mem = s.mem := rfl
@[simp] theorem State.setPort_unwritten (p : Nat) (x : Port) : (s.setPort p x).unwritten = s.unwritten := rfl
@[simp] theorem State.setPort_lines (p : Nat) (x : Port) : (s.setPort p x).lines = s.lines := rfl
@[simp] theorem State.setPort_leases (p : Nat) (x : Port) : (s.setPort p x).leases = s.leases := rfl
@[simp] theorem State.setPort_writes (p : Nat) (x : Port) : (s.setPort p x).writes = s.writes := rfl
@[simp] theorem State.setPort_past (p : Nat) (x : Port) : (s.setPort p x).past = s.past := rfl
@[simp] theorem State.setPort_posted (p : Nat) (x : Port) : (s.setPort p x).posted = s.posted := rfl
@[simp] theorem State.setPort_lags (p : Nat) (x : Port) : (s.setPort p x).lags = s.lags := rfl
@[simp] theorem State.setPort_versions (p : Nat) (x : Port) : (s.setPort p x).versions = s.versions := rfl
@[simp] theorem State.setPort_tags (p : Nat) (x : Port) : (s.setPort p x).tags = s.tags := rfl
@[simp] theorem State.setPort_softRegions (p : Nat) (x : Port) : (s.setPort p x).softRegions = s.softRegions := rfl
@[simp] theorem State.setPort_guestCopies (p : Nat) (x : Port) : (s.setPort p x).guestCopies = s.guestCopies := rfl
@[simp] theorem State.setPort_guestDirty (p : Nat) (x : Port) : (s.setPort p x).guestDirty = s.guestDirty := rfl
@[simp] theorem State.setPort_tlb (p : Nat) (x : Port) : (s.setPort p x).tlb = s.tlb := rfl
@[simp] theorem State.setPort_remap (p : Nat) (x : Port) : (s.setPort p x).remap = s.remap := rfl
@[simp] theorem State.setPort_window (p : Nat) (x : Port) : (s.setPort p x).window = s.window := rfl
@[simp] theorem State.setPort_faults (p : Nat) (x : Port) : (s.setPort p x).faults = s.faults := rfl
@[simp] theorem State.setPort_faultResults (p : Nat) (x : Port) : (s.setPort p x).faultResults = s.faultResults := rfl
@[simp] theorem State.setPort_refused (p : Nat) (x : Port) : (s.setPort p x).refused = s.refused := rfl
@[simp] theorem State.setPort_frontWrites (p : Nat) (x : Port) : (s.setPort p x).frontWrites = s.frontWrites := rfl
@[simp] theorem State.setPort_dies (p : Nat) (x : Port) : (s.setPort p x).dies = s.dies := rfl
@[simp] theorem State.setPort_launches (p : Nat) (x : Port) : (s.setPort p x).launches = s.launches := rfl
@[simp] theorem State.setPort_gangs (p : Nat) (x : Port) : (s.setPort p x).gangs = s.gangs := rfl
@[simp] theorem State.setPort_queues (p : Nat) (x : Port) : (s.setPort p x).queues = s.queues := rfl
@[simp] theorem State.setPort_contexts (p : Nat) (x : Port) : (s.setPort p x).contexts = s.contexts := rfl
@[simp] theorem State.setPort_runs (p : Nat) (x : Port) : (s.setPort p x).runs = s.runs := rfl
@[simp] theorem State.setPort_forkWaits (p : Nat) (x : Port) : (s.setPort p x).forkWaits = s.forkWaits := rfl
@[simp] theorem State.setPort_visits (p : Nat) (x : Port) : (s.setPort p x).visits = s.visits := rfl
@[simp] theorem State.setPort_lastDie (p : Nat) (x : Port) : (s.setPort p x).lastDie = s.lastDie := rfl
@[simp] theorem State.setPort_grows (p : Nat) (x : Port) : (s.setPort p x).grows = s.grows := rfl
@[simp] theorem State.setPort_copies (p : Nat) (x : Port) : (s.setPort p x).copies = s.copies := rfl
@[simp] theorem State.setPort_laneOps (p : Nat) (x : Port) : (s.setPort p x).laneOps = s.laneOps := rfl
@[simp] theorem State.setPort_heads (p : Nat) (x : Port) : (s.setPort p x).heads = s.heads := rfl
@[simp] theorem State.setPort_device (p : Nat) (x : Port) : (s.setPort p x).device = s.device := rfl
@[simp] theorem State.setPort_ports (p : Nat) (x : Port) : (s.setPort p x).ports = s.ports.put {} p x := rfl
@[simp] theorem State.setPort_power (p : Nat) (x : Port) : (s.setPort p x).power = s.power := rfl
@[simp] theorem State.setPort_vector (p : Nat) (x : Port) : (s.setPort p x).vector = s.vector := rfl
@[simp] theorem State.setPort_matrix (p : Nat) (x : Port) : (s.setPort p x).matrix = s.matrix := rfl
@[simp] theorem State.setPort_awakeBanks (p : Nat) (x : Port) : (s.setPort p x).awakeBanks = s.awakeBanks := rfl
@[simp] theorem State.setPort_bankFreed (p : Nat) (x : Port) : (s.setPort p x).bankFreed = s.bankFreed := rfl
@[simp] theorem State.setPort_placeFrom (p : Nat) (x : Port) : (s.setPort p x).placeFrom = s.placeFrom := rfl
@[simp] theorem State.setPort_gatedUnits (p : Nat) (x : Port) : (s.setPort p x).gatedUnits = s.gatedUnits := rfl
@[simp] theorem State.setPort_health (p : Nat) (x : Port) : (s.setPort p x).health = s.health := rfl
@[simp] theorem State.setPort_trust (p : Nat) (x : Port) : (s.setPort p x).trust = s.trust := rfl
@[simp] theorem State.setPort_bar0 (p : Nat) (x : Port) : (s.setPort p x).bar0 = s.bar0 := rfl
@[simp] theorem State.setPort_msixTable (p : Nat) (x : Port) : (s.setPort p x).msixTable = s.msixTable := rfl
@[simp] theorem State.setPort_msixPending (p : Nat) (x : Port) : (s.setPort p x).msixPending = s.msixPending := rfl
@[simp] theorem State.setPort_msixSent (p : Nat) (x : Port) : (s.setPort p x).msixSent = s.msixSent := rfl
@[simp] theorem State.setPort_hostReply (p : Nat) (x : Port) : (s.setPort p x).hostReply = s.hostReply := rfl
@[simp] theorem State.setPort_nearOld (p : Nat) (x : Port) : (s.setPort p x).nearOld = s.nearOld := rfl
@[simp] theorem State.setPort_management (p : Nat) (x : Port) : (s.setPort p x).management = s.management := rfl

@[simp] theorem State.setHead_clk (h : Nat) (x : Head) : (s.setHead h x).clk = s.clk := rfl
@[simp] theorem State.setHead_agenda (h : Nat) (x : Head) : (s.setHead h x).agenda = s.agenda := rfl
@[simp] theorem State.setHead_timers (h : Nat) (x : Head) : (s.setHead h x).timers = s.timers := rfl
@[simp] theorem State.setHead_cur (h : Nat) (x : Head) : (s.setHead h x).cur = s.cur := rfl
@[simp] theorem State.setHead_free (h : Nat) (x : Head) : (s.setHead h x).free = s.free := rfl
@[simp] theorem State.setHead_serial (h : Nat) (x : Head) : (s.setHead h x).serial = s.serial := rfl
@[simp] theorem State.setHead_picker (h : Nat) (x : Head) : (s.setHead h x).picker = s.picker := rfl
@[simp] theorem State.setHead_groups (h : Nat) (x : Head) : (s.setHead h x).groups = s.groups := rfl
@[simp] theorem State.setHead_mem (h : Nat) (x : Head) : (s.setHead h x).mem = s.mem := rfl
@[simp] theorem State.setHead_unwritten (h : Nat) (x : Head) : (s.setHead h x).unwritten = s.unwritten := rfl
@[simp] theorem State.setHead_lines (h : Nat) (x : Head) : (s.setHead h x).lines = s.lines := rfl
@[simp] theorem State.setHead_leases (h : Nat) (x : Head) : (s.setHead h x).leases = s.leases := rfl
@[simp] theorem State.setHead_writes (h : Nat) (x : Head) : (s.setHead h x).writes = s.writes := rfl
@[simp] theorem State.setHead_past (h : Nat) (x : Head) : (s.setHead h x).past = s.past := rfl
@[simp] theorem State.setHead_posted (h : Nat) (x : Head) : (s.setHead h x).posted = s.posted := rfl
@[simp] theorem State.setHead_lags (h : Nat) (x : Head) : (s.setHead h x).lags = s.lags := rfl
@[simp] theorem State.setHead_versions (h : Nat) (x : Head) : (s.setHead h x).versions = s.versions := rfl
@[simp] theorem State.setHead_tags (h : Nat) (x : Head) : (s.setHead h x).tags = s.tags := rfl
@[simp] theorem State.setHead_softRegions (h : Nat) (x : Head) : (s.setHead h x).softRegions = s.softRegions := rfl
@[simp] theorem State.setHead_guestCopies (h : Nat) (x : Head) : (s.setHead h x).guestCopies = s.guestCopies := rfl
@[simp] theorem State.setHead_guestDirty (h : Nat) (x : Head) : (s.setHead h x).guestDirty = s.guestDirty := rfl
@[simp] theorem State.setHead_tlb (h : Nat) (x : Head) : (s.setHead h x).tlb = s.tlb := rfl
@[simp] theorem State.setHead_remap (h : Nat) (x : Head) : (s.setHead h x).remap = s.remap := rfl
@[simp] theorem State.setHead_window (h : Nat) (x : Head) : (s.setHead h x).window = s.window := rfl
@[simp] theorem State.setHead_faults (h : Nat) (x : Head) : (s.setHead h x).faults = s.faults := rfl
@[simp] theorem State.setHead_faultResults (h : Nat) (x : Head) : (s.setHead h x).faultResults = s.faultResults := rfl
@[simp] theorem State.setHead_refused (h : Nat) (x : Head) : (s.setHead h x).refused = s.refused := rfl
@[simp] theorem State.setHead_frontWrites (h : Nat) (x : Head) : (s.setHead h x).frontWrites = s.frontWrites := rfl
@[simp] theorem State.setHead_dies (h : Nat) (x : Head) : (s.setHead h x).dies = s.dies := rfl
@[simp] theorem State.setHead_launches (h : Nat) (x : Head) : (s.setHead h x).launches = s.launches := rfl
@[simp] theorem State.setHead_gangs (h : Nat) (x : Head) : (s.setHead h x).gangs = s.gangs := rfl
@[simp] theorem State.setHead_queues (h : Nat) (x : Head) : (s.setHead h x).queues = s.queues := rfl
@[simp] theorem State.setHead_contexts (h : Nat) (x : Head) : (s.setHead h x).contexts = s.contexts := rfl
@[simp] theorem State.setHead_runs (h : Nat) (x : Head) : (s.setHead h x).runs = s.runs := rfl
@[simp] theorem State.setHead_forkWaits (h : Nat) (x : Head) : (s.setHead h x).forkWaits = s.forkWaits := rfl
@[simp] theorem State.setHead_visits (h : Nat) (x : Head) : (s.setHead h x).visits = s.visits := rfl
@[simp] theorem State.setHead_lastDie (h : Nat) (x : Head) : (s.setHead h x).lastDie = s.lastDie := rfl
@[simp] theorem State.setHead_grows (h : Nat) (x : Head) : (s.setHead h x).grows = s.grows := rfl
@[simp] theorem State.setHead_copies (h : Nat) (x : Head) : (s.setHead h x).copies = s.copies := rfl
@[simp] theorem State.setHead_laneOps (h : Nat) (x : Head) : (s.setHead h x).laneOps = s.laneOps := rfl
@[simp] theorem State.setHead_heads (h : Nat) (x : Head) : (s.setHead h x).heads = s.heads.put {} h x := rfl
@[simp] theorem State.setHead_device (h : Nat) (x : Head) : (s.setHead h x).device = s.device := rfl
@[simp] theorem State.setHead_ports (h : Nat) (x : Head) : (s.setHead h x).ports = s.ports := rfl
@[simp] theorem State.setHead_power (h : Nat) (x : Head) : (s.setHead h x).power = s.power := rfl
@[simp] theorem State.setHead_vector (h : Nat) (x : Head) : (s.setHead h x).vector = s.vector := rfl
@[simp] theorem State.setHead_matrix (h : Nat) (x : Head) : (s.setHead h x).matrix = s.matrix := rfl
@[simp] theorem State.setHead_awakeBanks (h : Nat) (x : Head) : (s.setHead h x).awakeBanks = s.awakeBanks := rfl
@[simp] theorem State.setHead_bankFreed (h : Nat) (x : Head) : (s.setHead h x).bankFreed = s.bankFreed := rfl
@[simp] theorem State.setHead_placeFrom (h : Nat) (x : Head) : (s.setHead h x).placeFrom = s.placeFrom := rfl
@[simp] theorem State.setHead_gatedUnits (h : Nat) (x : Head) : (s.setHead h x).gatedUnits = s.gatedUnits := rfl
@[simp] theorem State.setHead_health (h : Nat) (x : Head) : (s.setHead h x).health = s.health := rfl
@[simp] theorem State.setHead_trust (h : Nat) (x : Head) : (s.setHead h x).trust = s.trust := rfl
@[simp] theorem State.setHead_bar0 (h : Nat) (x : Head) : (s.setHead h x).bar0 = s.bar0 := rfl
@[simp] theorem State.setHead_msixTable (h : Nat) (x : Head) : (s.setHead h x).msixTable = s.msixTable := rfl
@[simp] theorem State.setHead_msixPending (h : Nat) (x : Head) : (s.setHead h x).msixPending = s.msixPending := rfl
@[simp] theorem State.setHead_msixSent (h : Nat) (x : Head) : (s.setHead h x).msixSent = s.msixSent := rfl
@[simp] theorem State.setHead_hostReply (h : Nat) (x : Head) : (s.setHead h x).hostReply = s.hostReply := rfl
@[simp] theorem State.setHead_nearOld (h : Nat) (x : Head) : (s.setHead h x).nearOld = s.nearOld := rfl
@[simp] theorem State.setHead_management (h : Nat) (x : Head) : (s.setHead h x).management = s.management := rfl

@[simp] theorem State.setPower_clk (d : Nat) (x : Power) : (s.setPower d x).clk = s.clk := rfl
@[simp] theorem State.setPower_agenda (d : Nat) (x : Power) : (s.setPower d x).agenda = s.agenda := rfl
@[simp] theorem State.setPower_timers (d : Nat) (x : Power) : (s.setPower d x).timers = s.timers := rfl
@[simp] theorem State.setPower_cur (d : Nat) (x : Power) : (s.setPower d x).cur = s.cur := rfl
@[simp] theorem State.setPower_free (d : Nat) (x : Power) : (s.setPower d x).free = s.free := rfl
@[simp] theorem State.setPower_serial (d : Nat) (x : Power) : (s.setPower d x).serial = s.serial := rfl
@[simp] theorem State.setPower_picker (d : Nat) (x : Power) : (s.setPower d x).picker = s.picker := rfl
@[simp] theorem State.setPower_groups (d : Nat) (x : Power) : (s.setPower d x).groups = s.groups := rfl
@[simp] theorem State.setPower_mem (d : Nat) (x : Power) : (s.setPower d x).mem = s.mem := rfl
@[simp] theorem State.setPower_unwritten (d : Nat) (x : Power) : (s.setPower d x).unwritten = s.unwritten := rfl
@[simp] theorem State.setPower_lines (d : Nat) (x : Power) : (s.setPower d x).lines = s.lines := rfl
@[simp] theorem State.setPower_leases (d : Nat) (x : Power) : (s.setPower d x).leases = s.leases := rfl
@[simp] theorem State.setPower_writes (d : Nat) (x : Power) : (s.setPower d x).writes = s.writes := rfl
@[simp] theorem State.setPower_past (d : Nat) (x : Power) : (s.setPower d x).past = s.past := rfl
@[simp] theorem State.setPower_posted (d : Nat) (x : Power) : (s.setPower d x).posted = s.posted := rfl
@[simp] theorem State.setPower_lags (d : Nat) (x : Power) : (s.setPower d x).lags = s.lags := rfl
@[simp] theorem State.setPower_versions (d : Nat) (x : Power) : (s.setPower d x).versions = s.versions := rfl
@[simp] theorem State.setPower_tags (d : Nat) (x : Power) : (s.setPower d x).tags = s.tags := rfl
@[simp] theorem State.setPower_softRegions (d : Nat) (x : Power) : (s.setPower d x).softRegions = s.softRegions := rfl
@[simp] theorem State.setPower_guestCopies (d : Nat) (x : Power) : (s.setPower d x).guestCopies = s.guestCopies := rfl
@[simp] theorem State.setPower_guestDirty (d : Nat) (x : Power) : (s.setPower d x).guestDirty = s.guestDirty := rfl
@[simp] theorem State.setPower_tlb (d : Nat) (x : Power) : (s.setPower d x).tlb = s.tlb := rfl
@[simp] theorem State.setPower_remap (d : Nat) (x : Power) : (s.setPower d x).remap = s.remap := rfl
@[simp] theorem State.setPower_window (d : Nat) (x : Power) : (s.setPower d x).window = s.window := rfl
@[simp] theorem State.setPower_faults (d : Nat) (x : Power) : (s.setPower d x).faults = s.faults := rfl
@[simp] theorem State.setPower_faultResults (d : Nat) (x : Power) : (s.setPower d x).faultResults = s.faultResults := rfl
@[simp] theorem State.setPower_refused (d : Nat) (x : Power) : (s.setPower d x).refused = s.refused := rfl
@[simp] theorem State.setPower_frontWrites (d : Nat) (x : Power) : (s.setPower d x).frontWrites = s.frontWrites := rfl
@[simp] theorem State.setPower_dies (d : Nat) (x : Power) : (s.setPower d x).dies = s.dies := rfl
@[simp] theorem State.setPower_launches (d : Nat) (x : Power) : (s.setPower d x).launches = s.launches := rfl
@[simp] theorem State.setPower_gangs (d : Nat) (x : Power) : (s.setPower d x).gangs = s.gangs := rfl
@[simp] theorem State.setPower_queues (d : Nat) (x : Power) : (s.setPower d x).queues = s.queues := rfl
@[simp] theorem State.setPower_contexts (d : Nat) (x : Power) : (s.setPower d x).contexts = s.contexts := rfl
@[simp] theorem State.setPower_runs (d : Nat) (x : Power) : (s.setPower d x).runs = s.runs := rfl
@[simp] theorem State.setPower_forkWaits (d : Nat) (x : Power) : (s.setPower d x).forkWaits = s.forkWaits := rfl
@[simp] theorem State.setPower_visits (d : Nat) (x : Power) : (s.setPower d x).visits = s.visits := rfl
@[simp] theorem State.setPower_lastDie (d : Nat) (x : Power) : (s.setPower d x).lastDie = s.lastDie := rfl
@[simp] theorem State.setPower_grows (d : Nat) (x : Power) : (s.setPower d x).grows = s.grows := rfl
@[simp] theorem State.setPower_copies (d : Nat) (x : Power) : (s.setPower d x).copies = s.copies := rfl
@[simp] theorem State.setPower_laneOps (d : Nat) (x : Power) : (s.setPower d x).laneOps = s.laneOps := rfl
@[simp] theorem State.setPower_heads (d : Nat) (x : Power) : (s.setPower d x).heads = s.heads := rfl
@[simp] theorem State.setPower_device (d : Nat) (x : Power) : (s.setPower d x).device = s.device := rfl
@[simp] theorem State.setPower_ports (d : Nat) (x : Power) : (s.setPower d x).ports = s.ports := rfl
@[simp] theorem State.setPower_power (d : Nat) (x : Power) : (s.setPower d x).power = s.power.put {} d x := rfl
@[simp] theorem State.setPower_vector (d : Nat) (x : Power) : (s.setPower d x).vector = s.vector := rfl
@[simp] theorem State.setPower_matrix (d : Nat) (x : Power) : (s.setPower d x).matrix = s.matrix := rfl
@[simp] theorem State.setPower_awakeBanks (d : Nat) (x : Power) : (s.setPower d x).awakeBanks = s.awakeBanks := rfl
@[simp] theorem State.setPower_bankFreed (d : Nat) (x : Power) : (s.setPower d x).bankFreed = s.bankFreed := rfl
@[simp] theorem State.setPower_placeFrom (d : Nat) (x : Power) : (s.setPower d x).placeFrom = s.placeFrom := rfl
@[simp] theorem State.setPower_gatedUnits (d : Nat) (x : Power) : (s.setPower d x).gatedUnits = s.gatedUnits := rfl
@[simp] theorem State.setPower_health (d : Nat) (x : Power) : (s.setPower d x).health = s.health := rfl
@[simp] theorem State.setPower_trust (d : Nat) (x : Power) : (s.setPower d x).trust = s.trust := rfl
@[simp] theorem State.setPower_bar0 (d : Nat) (x : Power) : (s.setPower d x).bar0 = s.bar0 := rfl
@[simp] theorem State.setPower_msixTable (d : Nat) (x : Power) : (s.setPower d x).msixTable = s.msixTable := rfl
@[simp] theorem State.setPower_msixPending (d : Nat) (x : Power) : (s.setPower d x).msixPending = s.msixPending := rfl
@[simp] theorem State.setPower_msixSent (d : Nat) (x : Power) : (s.setPower d x).msixSent = s.msixSent := rfl
@[simp] theorem State.setPower_hostReply (d : Nat) (x : Power) : (s.setPower d x).hostReply = s.hostReply := rfl
@[simp] theorem State.setPower_nearOld (d : Nat) (x : Power) : (s.setPower d x).nearOld = s.nearOld := rfl
@[simp] theorem State.setPower_management (d : Nat) (x : Power) : (s.setPower d x).management = s.management := rfl

@[simp] theorem State.setLine_clk (n : Nat) (l : Line) : (s.setLine n l).clk = s.clk := rfl
@[simp] theorem State.setLine_agenda (n : Nat) (l : Line) : (s.setLine n l).agenda = s.agenda := rfl
@[simp] theorem State.setLine_timers (n : Nat) (l : Line) : (s.setLine n l).timers = s.timers := rfl
@[simp] theorem State.setLine_cur (n : Nat) (l : Line) : (s.setLine n l).cur = s.cur := rfl
@[simp] theorem State.setLine_free (n : Nat) (l : Line) : (s.setLine n l).free = s.free := rfl
@[simp] theorem State.setLine_serial (n : Nat) (l : Line) : (s.setLine n l).serial = s.serial := rfl
@[simp] theorem State.setLine_picker (n : Nat) (l : Line) : (s.setLine n l).picker = s.picker := rfl
@[simp] theorem State.setLine_groups (n : Nat) (l : Line) : (s.setLine n l).groups = s.groups := rfl
@[simp] theorem State.setLine_mem (n : Nat) (l : Line) : (s.setLine n l).mem = s.mem := rfl
@[simp] theorem State.setLine_unwritten (n : Nat) (l : Line) : (s.setLine n l).unwritten = s.unwritten := rfl
@[simp] theorem State.setLine_lines (n : Nat) (l : Line) : (s.setLine n l).lines = s.lines.put {} n l := rfl
@[simp] theorem State.setLine_leases (n : Nat) (l : Line) : (s.setLine n l).leases = s.leases := rfl
@[simp] theorem State.setLine_writes (n : Nat) (l : Line) : (s.setLine n l).writes = s.writes := rfl
@[simp] theorem State.setLine_past (n : Nat) (l : Line) : (s.setLine n l).past = s.past := rfl
@[simp] theorem State.setLine_posted (n : Nat) (l : Line) : (s.setLine n l).posted = s.posted := rfl
@[simp] theorem State.setLine_lags (n : Nat) (l : Line) : (s.setLine n l).lags = s.lags := rfl
@[simp] theorem State.setLine_versions (n : Nat) (l : Line) : (s.setLine n l).versions = s.versions := rfl
@[simp] theorem State.setLine_tags (n : Nat) (l : Line) : (s.setLine n l).tags = s.tags := rfl
@[simp] theorem State.setLine_softRegions (n : Nat) (l : Line) : (s.setLine n l).softRegions = s.softRegions := rfl
@[simp] theorem State.setLine_guestCopies (n : Nat) (l : Line) : (s.setLine n l).guestCopies = s.guestCopies := rfl
@[simp] theorem State.setLine_guestDirty (n : Nat) (l : Line) : (s.setLine n l).guestDirty = s.guestDirty := rfl
@[simp] theorem State.setLine_tlb (n : Nat) (l : Line) : (s.setLine n l).tlb = s.tlb := rfl
@[simp] theorem State.setLine_remap (n : Nat) (l : Line) : (s.setLine n l).remap = s.remap := rfl
@[simp] theorem State.setLine_window (n : Nat) (l : Line) : (s.setLine n l).window = s.window := rfl
@[simp] theorem State.setLine_faults (n : Nat) (l : Line) : (s.setLine n l).faults = s.faults := rfl
@[simp] theorem State.setLine_faultResults (n : Nat) (l : Line) : (s.setLine n l).faultResults = s.faultResults := rfl
@[simp] theorem State.setLine_refused (n : Nat) (l : Line) : (s.setLine n l).refused = s.refused := rfl
@[simp] theorem State.setLine_frontWrites (n : Nat) (l : Line) : (s.setLine n l).frontWrites = s.frontWrites := rfl
@[simp] theorem State.setLine_dies (n : Nat) (l : Line) : (s.setLine n l).dies = s.dies := rfl
@[simp] theorem State.setLine_launches (n : Nat) (l : Line) : (s.setLine n l).launches = s.launches := rfl
@[simp] theorem State.setLine_gangs (n : Nat) (l : Line) : (s.setLine n l).gangs = s.gangs := rfl
@[simp] theorem State.setLine_queues (n : Nat) (l : Line) : (s.setLine n l).queues = s.queues := rfl
@[simp] theorem State.setLine_contexts (n : Nat) (l : Line) : (s.setLine n l).contexts = s.contexts := rfl
@[simp] theorem State.setLine_runs (n : Nat) (l : Line) : (s.setLine n l).runs = s.runs := rfl
@[simp] theorem State.setLine_forkWaits (n : Nat) (l : Line) : (s.setLine n l).forkWaits = s.forkWaits := rfl
@[simp] theorem State.setLine_visits (n : Nat) (l : Line) : (s.setLine n l).visits = s.visits := rfl
@[simp] theorem State.setLine_lastDie (n : Nat) (l : Line) : (s.setLine n l).lastDie = s.lastDie := rfl
@[simp] theorem State.setLine_grows (n : Nat) (l : Line) : (s.setLine n l).grows = s.grows := rfl
@[simp] theorem State.setLine_copies (n : Nat) (l : Line) : (s.setLine n l).copies = s.copies := rfl
@[simp] theorem State.setLine_laneOps (n : Nat) (l : Line) : (s.setLine n l).laneOps = s.laneOps := rfl
@[simp] theorem State.setLine_heads (n : Nat) (l : Line) : (s.setLine n l).heads = s.heads := rfl
@[simp] theorem State.setLine_device (n : Nat) (l : Line) : (s.setLine n l).device = s.device := rfl
@[simp] theorem State.setLine_ports (n : Nat) (l : Line) : (s.setLine n l).ports = s.ports := rfl
@[simp] theorem State.setLine_power (n : Nat) (l : Line) : (s.setLine n l).power = s.power := rfl
@[simp] theorem State.setLine_vector (n : Nat) (l : Line) : (s.setLine n l).vector = s.vector := rfl
@[simp] theorem State.setLine_matrix (n : Nat) (l : Line) : (s.setLine n l).matrix = s.matrix := rfl
@[simp] theorem State.setLine_awakeBanks (n : Nat) (l : Line) : (s.setLine n l).awakeBanks = s.awakeBanks := rfl
@[simp] theorem State.setLine_bankFreed (n : Nat) (l : Line) : (s.setLine n l).bankFreed = s.bankFreed := rfl
@[simp] theorem State.setLine_placeFrom (n : Nat) (l : Line) : (s.setLine n l).placeFrom = s.placeFrom := rfl
@[simp] theorem State.setLine_gatedUnits (n : Nat) (l : Line) : (s.setLine n l).gatedUnits = s.gatedUnits := rfl
@[simp] theorem State.setLine_health (n : Nat) (l : Line) : (s.setLine n l).health = s.health := rfl
@[simp] theorem State.setLine_trust (n : Nat) (l : Line) : (s.setLine n l).trust = s.trust := rfl
@[simp] theorem State.setLine_bar0 (n : Nat) (l : Line) : (s.setLine n l).bar0 = s.bar0 := rfl
@[simp] theorem State.setLine_msixTable (n : Nat) (l : Line) : (s.setLine n l).msixTable = s.msixTable := rfl
@[simp] theorem State.setLine_msixPending (n : Nat) (l : Line) : (s.setLine n l).msixPending = s.msixPending := rfl
@[simp] theorem State.setLine_msixSent (n : Nat) (l : Line) : (s.setLine n l).msixSent = s.msixSent := rfl
@[simp] theorem State.setLine_hostReply (n : Nat) (l : Line) : (s.setLine n l).hostReply = s.hostReply := rfl
@[simp] theorem State.setLine_nearOld (n : Nat) (l : Line) : (s.setLine n l).nearOld = s.nearOld := rfl
@[simp] theorem State.setLine_management (n : Nat) (l : Line) : (s.setLine n l).management = s.management := rfl

@[simp] theorem State.setRun_clk (n : Nat) (r : Run) : (s.setRun n r).clk = s.clk := rfl
@[simp] theorem State.setRun_agenda (n : Nat) (r : Run) : (s.setRun n r).agenda = s.agenda := rfl
@[simp] theorem State.setRun_timers (n : Nat) (r : Run) : (s.setRun n r).timers = s.timers := rfl
@[simp] theorem State.setRun_cur (n : Nat) (r : Run) : (s.setRun n r).cur = s.cur := rfl
@[simp] theorem State.setRun_free (n : Nat) (r : Run) : (s.setRun n r).free = s.free := rfl
@[simp] theorem State.setRun_serial (n : Nat) (r : Run) : (s.setRun n r).serial = s.serial := rfl
@[simp] theorem State.setRun_picker (n : Nat) (r : Run) : (s.setRun n r).picker = s.picker := rfl
@[simp] theorem State.setRun_groups (n : Nat) (r : Run) : (s.setRun n r).groups = s.groups := rfl
@[simp] theorem State.setRun_mem (n : Nat) (r : Run) : (s.setRun n r).mem = s.mem := rfl
@[simp] theorem State.setRun_unwritten (n : Nat) (r : Run) : (s.setRun n r).unwritten = s.unwritten := rfl
@[simp] theorem State.setRun_lines (n : Nat) (r : Run) : (s.setRun n r).lines = s.lines := rfl
@[simp] theorem State.setRun_leases (n : Nat) (r : Run) : (s.setRun n r).leases = s.leases := rfl
@[simp] theorem State.setRun_writes (n : Nat) (r : Run) : (s.setRun n r).writes = s.writes := rfl
@[simp] theorem State.setRun_past (n : Nat) (r : Run) : (s.setRun n r).past = s.past := rfl
@[simp] theorem State.setRun_posted (n : Nat) (r : Run) : (s.setRun n r).posted = s.posted := rfl
@[simp] theorem State.setRun_lags (n : Nat) (r : Run) : (s.setRun n r).lags = s.lags := rfl
@[simp] theorem State.setRun_versions (n : Nat) (r : Run) : (s.setRun n r).versions = s.versions := rfl
@[simp] theorem State.setRun_tags (n : Nat) (r : Run) : (s.setRun n r).tags = s.tags := rfl
@[simp] theorem State.setRun_softRegions (n : Nat) (r : Run) : (s.setRun n r).softRegions = s.softRegions := rfl
@[simp] theorem State.setRun_guestCopies (n : Nat) (r : Run) : (s.setRun n r).guestCopies = s.guestCopies := rfl
@[simp] theorem State.setRun_guestDirty (n : Nat) (r : Run) : (s.setRun n r).guestDirty = s.guestDirty := rfl
@[simp] theorem State.setRun_tlb (n : Nat) (r : Run) : (s.setRun n r).tlb = s.tlb := rfl
@[simp] theorem State.setRun_remap (n : Nat) (r : Run) : (s.setRun n r).remap = s.remap := rfl
@[simp] theorem State.setRun_window (n : Nat) (r : Run) : (s.setRun n r).window = s.window := rfl
@[simp] theorem State.setRun_faults (n : Nat) (r : Run) : (s.setRun n r).faults = s.faults := rfl
@[simp] theorem State.setRun_faultResults (n : Nat) (r : Run) : (s.setRun n r).faultResults = s.faultResults := rfl
@[simp] theorem State.setRun_refused (n : Nat) (r : Run) : (s.setRun n r).refused = s.refused := rfl
@[simp] theorem State.setRun_frontWrites (n : Nat) (r : Run) : (s.setRun n r).frontWrites = s.frontWrites := rfl
@[simp] theorem State.setRun_dies (n : Nat) (r : Run) : (s.setRun n r).dies = s.dies := rfl
@[simp] theorem State.setRun_launches (n : Nat) (r : Run) : (s.setRun n r).launches = s.launches := rfl
@[simp] theorem State.setRun_gangs (n : Nat) (r : Run) : (s.setRun n r).gangs = s.gangs := rfl
@[simp] theorem State.setRun_queues (n : Nat) (r : Run) : (s.setRun n r).queues = s.queues := rfl
@[simp] theorem State.setRun_contexts (n : Nat) (r : Run) : (s.setRun n r).contexts = s.contexts := rfl
@[simp] theorem State.setRun_runs (n : Nat) (r : Run) : (s.setRun n r).runs = s.runs.set n r := rfl
@[simp] theorem State.setRun_forkWaits (n : Nat) (r : Run) : (s.setRun n r).forkWaits = s.forkWaits := rfl
@[simp] theorem State.setRun_visits (n : Nat) (r : Run) : (s.setRun n r).visits = s.visits := rfl
@[simp] theorem State.setRun_lastDie (n : Nat) (r : Run) : (s.setRun n r).lastDie = s.lastDie := rfl
@[simp] theorem State.setRun_grows (n : Nat) (r : Run) : (s.setRun n r).grows = s.grows := rfl
@[simp] theorem State.setRun_copies (n : Nat) (r : Run) : (s.setRun n r).copies = s.copies := rfl
@[simp] theorem State.setRun_laneOps (n : Nat) (r : Run) : (s.setRun n r).laneOps = s.laneOps := rfl
@[simp] theorem State.setRun_heads (n : Nat) (r : Run) : (s.setRun n r).heads = s.heads := rfl
@[simp] theorem State.setRun_device (n : Nat) (r : Run) : (s.setRun n r).device = s.device := rfl
@[simp] theorem State.setRun_ports (n : Nat) (r : Run) : (s.setRun n r).ports = s.ports := rfl
@[simp] theorem State.setRun_power (n : Nat) (r : Run) : (s.setRun n r).power = s.power := rfl
@[simp] theorem State.setRun_vector (n : Nat) (r : Run) : (s.setRun n r).vector = s.vector := rfl
@[simp] theorem State.setRun_matrix (n : Nat) (r : Run) : (s.setRun n r).matrix = s.matrix := rfl
@[simp] theorem State.setRun_awakeBanks (n : Nat) (r : Run) : (s.setRun n r).awakeBanks = s.awakeBanks := rfl
@[simp] theorem State.setRun_bankFreed (n : Nat) (r : Run) : (s.setRun n r).bankFreed = s.bankFreed := rfl
@[simp] theorem State.setRun_placeFrom (n : Nat) (r : Run) : (s.setRun n r).placeFrom = s.placeFrom := rfl
@[simp] theorem State.setRun_gatedUnits (n : Nat) (r : Run) : (s.setRun n r).gatedUnits = s.gatedUnits := rfl
@[simp] theorem State.setRun_health (n : Nat) (r : Run) : (s.setRun n r).health = s.health := rfl
@[simp] theorem State.setRun_trust (n : Nat) (r : Run) : (s.setRun n r).trust = s.trust := rfl
@[simp] theorem State.setRun_bar0 (n : Nat) (r : Run) : (s.setRun n r).bar0 = s.bar0 := rfl
@[simp] theorem State.setRun_msixTable (n : Nat) (r : Run) : (s.setRun n r).msixTable = s.msixTable := rfl
@[simp] theorem State.setRun_msixPending (n : Nat) (r : Run) : (s.setRun n r).msixPending = s.msixPending := rfl
@[simp] theorem State.setRun_msixSent (n : Nat) (r : Run) : (s.setRun n r).msixSent = s.msixSent := rfl
@[simp] theorem State.setRun_hostReply (n : Nat) (r : Run) : (s.setRun n r).hostReply = s.hostReply := rfl
@[simp] theorem State.setRun_nearOld (n : Nat) (r : Run) : (s.setRun n r).nearOld = s.nearOld := rfl
@[simp] theorem State.setRun_management (n : Nat) (r : Run) : (s.setRun n r).management = s.management := rfl

@[simp] theorem State.post_clk (i : Instr) : (s.post i).clk = s.clk := rfl
@[simp] theorem State.post_agenda (i : Instr) : (s.post i).agenda = s.agenda ++ [.event i] := rfl
@[simp] theorem State.post_timers (i : Instr) : (s.post i).timers = s.timers := rfl
@[simp] theorem State.post_cur (i : Instr) : (s.post i).cur = s.cur := rfl
@[simp] theorem State.post_free (i : Instr) : (s.post i).free = s.free := rfl
@[simp] theorem State.post_serial (i : Instr) : (s.post i).serial = s.serial := rfl
@[simp] theorem State.post_picker (i : Instr) : (s.post i).picker = s.picker := rfl
@[simp] theorem State.post_groups (i : Instr) : (s.post i).groups = s.groups := rfl
@[simp] theorem State.post_mem (i : Instr) : (s.post i).mem = s.mem := rfl
@[simp] theorem State.post_unwritten (i : Instr) : (s.post i).unwritten = s.unwritten := rfl
@[simp] theorem State.post_lines (i : Instr) : (s.post i).lines = s.lines := rfl
@[simp] theorem State.post_leases (i : Instr) : (s.post i).leases = s.leases := rfl
@[simp] theorem State.post_writes (i : Instr) : (s.post i).writes = s.writes := rfl
@[simp] theorem State.post_past (i : Instr) : (s.post i).past = s.past := rfl
@[simp] theorem State.post_posted (i : Instr) : (s.post i).posted = s.posted := rfl
@[simp] theorem State.post_lags (i : Instr) : (s.post i).lags = s.lags := rfl
@[simp] theorem State.post_versions (i : Instr) : (s.post i).versions = s.versions := rfl
@[simp] theorem State.post_tags (i : Instr) : (s.post i).tags = s.tags := rfl
@[simp] theorem State.post_softRegions (i : Instr) : (s.post i).softRegions = s.softRegions := rfl
@[simp] theorem State.post_guestCopies (i : Instr) : (s.post i).guestCopies = s.guestCopies := rfl
@[simp] theorem State.post_guestDirty (i : Instr) : (s.post i).guestDirty = s.guestDirty := rfl
@[simp] theorem State.post_tlb (i : Instr) : (s.post i).tlb = s.tlb := rfl
@[simp] theorem State.post_remap (i : Instr) : (s.post i).remap = s.remap := rfl
@[simp] theorem State.post_window (i : Instr) : (s.post i).window = s.window := rfl
@[simp] theorem State.post_faults (i : Instr) : (s.post i).faults = s.faults := rfl
@[simp] theorem State.post_faultResults (i : Instr) : (s.post i).faultResults = s.faultResults := rfl
@[simp] theorem State.post_refused (i : Instr) : (s.post i).refused = s.refused := rfl
@[simp] theorem State.post_frontWrites (i : Instr) : (s.post i).frontWrites = s.frontWrites := rfl
@[simp] theorem State.post_dies (i : Instr) : (s.post i).dies = s.dies := rfl
@[simp] theorem State.post_launches (i : Instr) : (s.post i).launches = s.launches := rfl
@[simp] theorem State.post_gangs (i : Instr) : (s.post i).gangs = s.gangs := rfl
@[simp] theorem State.post_queues (i : Instr) : (s.post i).queues = s.queues := rfl
@[simp] theorem State.post_contexts (i : Instr) : (s.post i).contexts = s.contexts := rfl
@[simp] theorem State.post_runs (i : Instr) : (s.post i).runs = s.runs := rfl
@[simp] theorem State.post_forkWaits (i : Instr) : (s.post i).forkWaits = s.forkWaits := rfl
@[simp] theorem State.post_visits (i : Instr) : (s.post i).visits = s.visits := rfl
@[simp] theorem State.post_lastDie (i : Instr) : (s.post i).lastDie = s.lastDie := rfl
@[simp] theorem State.post_grows (i : Instr) : (s.post i).grows = s.grows := rfl
@[simp] theorem State.post_copies (i : Instr) : (s.post i).copies = s.copies := rfl
@[simp] theorem State.post_laneOps (i : Instr) : (s.post i).laneOps = s.laneOps := rfl
@[simp] theorem State.post_heads (i : Instr) : (s.post i).heads = s.heads := rfl
@[simp] theorem State.post_device (i : Instr) : (s.post i).device = s.device := rfl
@[simp] theorem State.post_ports (i : Instr) : (s.post i).ports = s.ports := rfl
@[simp] theorem State.post_power (i : Instr) : (s.post i).power = s.power := rfl
@[simp] theorem State.post_vector (i : Instr) : (s.post i).vector = s.vector := rfl
@[simp] theorem State.post_matrix (i : Instr) : (s.post i).matrix = s.matrix := rfl
@[simp] theorem State.post_awakeBanks (i : Instr) : (s.post i).awakeBanks = s.awakeBanks := rfl
@[simp] theorem State.post_bankFreed (i : Instr) : (s.post i).bankFreed = s.bankFreed := rfl
@[simp] theorem State.post_placeFrom (i : Instr) : (s.post i).placeFrom = s.placeFrom := rfl
@[simp] theorem State.post_gatedUnits (i : Instr) : (s.post i).gatedUnits = s.gatedUnits := rfl
@[simp] theorem State.post_health (i : Instr) : (s.post i).health = s.health := rfl
@[simp] theorem State.post_trust (i : Instr) : (s.post i).trust = s.trust := rfl
@[simp] theorem State.post_bar0 (i : Instr) : (s.post i).bar0 = s.bar0 := rfl
@[simp] theorem State.post_msixTable (i : Instr) : (s.post i).msixTable = s.msixTable := rfl
@[simp] theorem State.post_msixPending (i : Instr) : (s.post i).msixPending = s.msixPending := rfl
@[simp] theorem State.post_msixSent (i : Instr) : (s.post i).msixSent = s.msixSent := rfl
@[simp] theorem State.post_hostReply (i : Instr) : (s.post i).hostReply = s.hostReply := rfl
@[simp] theorem State.post_nearOld (i : Instr) : (s.post i).nearOld = s.nearOld := rfl
@[simp] theorem State.post_management (i : Instr) : (s.post i).management = s.management := rfl

@[simp] theorem State.next_clk (i : Instr) : (s.next i).clk = s.clk := rfl
@[simp] theorem State.next_agenda (i : Instr) : (s.next i).agenda = .event i :: s.agenda := rfl
@[simp] theorem State.next_timers (i : Instr) : (s.next i).timers = s.timers := rfl
@[simp] theorem State.next_cur (i : Instr) : (s.next i).cur = s.cur := rfl
@[simp] theorem State.next_free (i : Instr) : (s.next i).free = s.free := rfl
@[simp] theorem State.next_serial (i : Instr) : (s.next i).serial = s.serial := rfl
@[simp] theorem State.next_picker (i : Instr) : (s.next i).picker = s.picker := rfl
@[simp] theorem State.next_groups (i : Instr) : (s.next i).groups = s.groups := rfl
@[simp] theorem State.next_mem (i : Instr) : (s.next i).mem = s.mem := rfl
@[simp] theorem State.next_unwritten (i : Instr) : (s.next i).unwritten = s.unwritten := rfl
@[simp] theorem State.next_lines (i : Instr) : (s.next i).lines = s.lines := rfl
@[simp] theorem State.next_leases (i : Instr) : (s.next i).leases = s.leases := rfl
@[simp] theorem State.next_writes (i : Instr) : (s.next i).writes = s.writes := rfl
@[simp] theorem State.next_past (i : Instr) : (s.next i).past = s.past := rfl
@[simp] theorem State.next_posted (i : Instr) : (s.next i).posted = s.posted := rfl
@[simp] theorem State.next_lags (i : Instr) : (s.next i).lags = s.lags := rfl
@[simp] theorem State.next_versions (i : Instr) : (s.next i).versions = s.versions := rfl
@[simp] theorem State.next_tags (i : Instr) : (s.next i).tags = s.tags := rfl
@[simp] theorem State.next_softRegions (i : Instr) : (s.next i).softRegions = s.softRegions := rfl
@[simp] theorem State.next_guestCopies (i : Instr) : (s.next i).guestCopies = s.guestCopies := rfl
@[simp] theorem State.next_guestDirty (i : Instr) : (s.next i).guestDirty = s.guestDirty := rfl
@[simp] theorem State.next_tlb (i : Instr) : (s.next i).tlb = s.tlb := rfl
@[simp] theorem State.next_remap (i : Instr) : (s.next i).remap = s.remap := rfl
@[simp] theorem State.next_window (i : Instr) : (s.next i).window = s.window := rfl
@[simp] theorem State.next_faults (i : Instr) : (s.next i).faults = s.faults := rfl
@[simp] theorem State.next_faultResults (i : Instr) : (s.next i).faultResults = s.faultResults := rfl
@[simp] theorem State.next_refused (i : Instr) : (s.next i).refused = s.refused := rfl
@[simp] theorem State.next_frontWrites (i : Instr) : (s.next i).frontWrites = s.frontWrites := rfl
@[simp] theorem State.next_dies (i : Instr) : (s.next i).dies = s.dies := rfl
@[simp] theorem State.next_launches (i : Instr) : (s.next i).launches = s.launches := rfl
@[simp] theorem State.next_gangs (i : Instr) : (s.next i).gangs = s.gangs := rfl
@[simp] theorem State.next_queues (i : Instr) : (s.next i).queues = s.queues := rfl
@[simp] theorem State.next_contexts (i : Instr) : (s.next i).contexts = s.contexts := rfl
@[simp] theorem State.next_runs (i : Instr) : (s.next i).runs = s.runs := rfl
@[simp] theorem State.next_forkWaits (i : Instr) : (s.next i).forkWaits = s.forkWaits := rfl
@[simp] theorem State.next_visits (i : Instr) : (s.next i).visits = s.visits := rfl
@[simp] theorem State.next_lastDie (i : Instr) : (s.next i).lastDie = s.lastDie := rfl
@[simp] theorem State.next_grows (i : Instr) : (s.next i).grows = s.grows := rfl
@[simp] theorem State.next_copies (i : Instr) : (s.next i).copies = s.copies := rfl
@[simp] theorem State.next_laneOps (i : Instr) : (s.next i).laneOps = s.laneOps := rfl
@[simp] theorem State.next_heads (i : Instr) : (s.next i).heads = s.heads := rfl
@[simp] theorem State.next_device (i : Instr) : (s.next i).device = s.device := rfl
@[simp] theorem State.next_ports (i : Instr) : (s.next i).ports = s.ports := rfl
@[simp] theorem State.next_power (i : Instr) : (s.next i).power = s.power := rfl
@[simp] theorem State.next_vector (i : Instr) : (s.next i).vector = s.vector := rfl
@[simp] theorem State.next_matrix (i : Instr) : (s.next i).matrix = s.matrix := rfl
@[simp] theorem State.next_awakeBanks (i : Instr) : (s.next i).awakeBanks = s.awakeBanks := rfl
@[simp] theorem State.next_bankFreed (i : Instr) : (s.next i).bankFreed = s.bankFreed := rfl
@[simp] theorem State.next_placeFrom (i : Instr) : (s.next i).placeFrom = s.placeFrom := rfl
@[simp] theorem State.next_gatedUnits (i : Instr) : (s.next i).gatedUnits = s.gatedUnits := rfl
@[simp] theorem State.next_health (i : Instr) : (s.next i).health = s.health := rfl
@[simp] theorem State.next_trust (i : Instr) : (s.next i).trust = s.trust := rfl
@[simp] theorem State.next_bar0 (i : Instr) : (s.next i).bar0 = s.bar0 := rfl
@[simp] theorem State.next_msixTable (i : Instr) : (s.next i).msixTable = s.msixTable := rfl
@[simp] theorem State.next_msixPending (i : Instr) : (s.next i).msixPending = s.msixPending := rfl
@[simp] theorem State.next_msixSent (i : Instr) : (s.next i).msixSent = s.msixSent := rfl
@[simp] theorem State.next_hostReply (i : Instr) : (s.next i).hostReply = s.hostReply := rfl
@[simp] theorem State.next_nearOld (i : Instr) : (s.next i).nearOld = s.nearOld := rfl
@[simp] theorem State.next_management (i : Instr) : (s.next i).management = s.management := rfl

@[simp] theorem State.fresh_clk : (s.fresh).clk = s.clk := rfl
@[simp] theorem State.fresh_agenda : (s.fresh).agenda = s.agenda := rfl
@[simp] theorem State.fresh_timers : (s.fresh).timers = s.timers := rfl
@[simp] theorem State.fresh_cur : (s.fresh).cur = s.cur := rfl
@[simp] theorem State.fresh_free : (s.fresh).free = s.free := rfl
@[simp] theorem State.fresh_serial : (s.fresh).serial = s.serial + 1 := rfl
@[simp] theorem State.fresh_picker : (s.fresh).picker = s.picker := rfl
@[simp] theorem State.fresh_groups : (s.fresh).groups = s.groups := rfl
@[simp] theorem State.fresh_mem : (s.fresh).mem = s.mem := rfl
@[simp] theorem State.fresh_unwritten : (s.fresh).unwritten = s.unwritten := rfl
@[simp] theorem State.fresh_lines : (s.fresh).lines = s.lines := rfl
@[simp] theorem State.fresh_leases : (s.fresh).leases = s.leases := rfl
@[simp] theorem State.fresh_writes : (s.fresh).writes = s.writes := rfl
@[simp] theorem State.fresh_past : (s.fresh).past = s.past := rfl
@[simp] theorem State.fresh_posted : (s.fresh).posted = s.posted := rfl
@[simp] theorem State.fresh_lags : (s.fresh).lags = s.lags := rfl
@[simp] theorem State.fresh_versions : (s.fresh).versions = s.versions := rfl
@[simp] theorem State.fresh_tags : (s.fresh).tags = s.tags := rfl
@[simp] theorem State.fresh_softRegions : (s.fresh).softRegions = s.softRegions := rfl
@[simp] theorem State.fresh_guestCopies : (s.fresh).guestCopies = s.guestCopies := rfl
@[simp] theorem State.fresh_guestDirty : (s.fresh).guestDirty = s.guestDirty := rfl
@[simp] theorem State.fresh_tlb : (s.fresh).tlb = s.tlb := rfl
@[simp] theorem State.fresh_remap : (s.fresh).remap = s.remap := rfl
@[simp] theorem State.fresh_window : (s.fresh).window = s.window := rfl
@[simp] theorem State.fresh_faults : (s.fresh).faults = s.faults := rfl
@[simp] theorem State.fresh_faultResults : (s.fresh).faultResults = s.faultResults := rfl
@[simp] theorem State.fresh_refused : (s.fresh).refused = s.refused := rfl
@[simp] theorem State.fresh_frontWrites : (s.fresh).frontWrites = s.frontWrites := rfl
@[simp] theorem State.fresh_dies : (s.fresh).dies = s.dies := rfl
@[simp] theorem State.fresh_launches : (s.fresh).launches = s.launches := rfl
@[simp] theorem State.fresh_gangs : (s.fresh).gangs = s.gangs := rfl
@[simp] theorem State.fresh_queues : (s.fresh).queues = s.queues := rfl
@[simp] theorem State.fresh_contexts : (s.fresh).contexts = s.contexts := rfl
@[simp] theorem State.fresh_runs : (s.fresh).runs = s.runs := rfl
@[simp] theorem State.fresh_forkWaits : (s.fresh).forkWaits = s.forkWaits := rfl
@[simp] theorem State.fresh_visits : (s.fresh).visits = s.visits := rfl
@[simp] theorem State.fresh_lastDie : (s.fresh).lastDie = s.lastDie := rfl
@[simp] theorem State.fresh_grows : (s.fresh).grows = s.grows := rfl
@[simp] theorem State.fresh_copies : (s.fresh).copies = s.copies := rfl
@[simp] theorem State.fresh_laneOps : (s.fresh).laneOps = s.laneOps := rfl
@[simp] theorem State.fresh_heads : (s.fresh).heads = s.heads := rfl
@[simp] theorem State.fresh_device : (s.fresh).device = s.device := rfl
@[simp] theorem State.fresh_ports : (s.fresh).ports = s.ports := rfl
@[simp] theorem State.fresh_power : (s.fresh).power = s.power := rfl
@[simp] theorem State.fresh_vector : (s.fresh).vector = s.vector := rfl
@[simp] theorem State.fresh_matrix : (s.fresh).matrix = s.matrix := rfl
@[simp] theorem State.fresh_awakeBanks : (s.fresh).awakeBanks = s.awakeBanks := rfl
@[simp] theorem State.fresh_bankFreed : (s.fresh).bankFreed = s.bankFreed := rfl
@[simp] theorem State.fresh_placeFrom : (s.fresh).placeFrom = s.placeFrom := rfl
@[simp] theorem State.fresh_gatedUnits : (s.fresh).gatedUnits = s.gatedUnits := rfl
@[simp] theorem State.fresh_health : (s.fresh).health = s.health := rfl
@[simp] theorem State.fresh_trust : (s.fresh).trust = s.trust := rfl
@[simp] theorem State.fresh_bar0 : (s.fresh).bar0 = s.bar0 := rfl
@[simp] theorem State.fresh_msixTable : (s.fresh).msixTable = s.msixTable := rfl
@[simp] theorem State.fresh_msixPending : (s.fresh).msixPending = s.msixPending := rfl
@[simp] theorem State.fresh_msixSent : (s.fresh).msixSent = s.msixSent := rfl
@[simp] theorem State.fresh_hostReply : (s.fresh).hostReply = s.hostReply := rfl
@[simp] theorem State.fresh_nearOld : (s.fresh).nearOld = s.nearOld := rfl
@[simp] theorem State.fresh_management : (s.fresh).management = s.management := rfl

end

section
variable (c : Ctx)

@[simp] theorem Ctx.putWave_clk : c.putWave.clk = c.s.clk := rfl
@[simp] theorem Ctx.putWave_agenda : c.putWave.agenda = c.s.agenda := rfl
@[simp] theorem Ctx.putWave_timers : c.putWave.timers = c.s.timers := rfl
@[simp] theorem Ctx.putWave_cur : c.putWave.cur = c.s.cur := rfl
@[simp] theorem Ctx.putWave_free : c.putWave.free = c.s.free := rfl
@[simp] theorem Ctx.putWave_serial : c.putWave.serial = c.s.serial := rfl
@[simp] theorem Ctx.putWave_picker : c.putWave.picker = c.s.picker := rfl
@[simp] theorem Ctx.putWave_groups : c.putWave.groups = c.s.groups.set c.gk (c.g.setWave c.wi c.w) := rfl
@[simp] theorem Ctx.putWave_mem : c.putWave.mem = c.s.mem := rfl
@[simp] theorem Ctx.putWave_unwritten : c.putWave.unwritten = c.s.unwritten := rfl
@[simp] theorem Ctx.putWave_lines : c.putWave.lines = c.s.lines := rfl
@[simp] theorem Ctx.putWave_leases : c.putWave.leases = c.s.leases := rfl
@[simp] theorem Ctx.putWave_writes : c.putWave.writes = c.s.writes := rfl
@[simp] theorem Ctx.putWave_past : c.putWave.past = c.s.past := rfl
@[simp] theorem Ctx.putWave_posted : c.putWave.posted = c.s.posted := rfl
@[simp] theorem Ctx.putWave_lags : c.putWave.lags = c.s.lags := rfl
@[simp] theorem Ctx.putWave_versions : c.putWave.versions = c.s.versions := rfl
@[simp] theorem Ctx.putWave_tags : c.putWave.tags = c.s.tags := rfl
@[simp] theorem Ctx.putWave_softRegions : c.putWave.softRegions = c.s.softRegions := rfl
@[simp] theorem Ctx.putWave_guestCopies : c.putWave.guestCopies = c.s.guestCopies := rfl
@[simp] theorem Ctx.putWave_guestDirty : c.putWave.guestDirty = c.s.guestDirty := rfl
@[simp] theorem Ctx.putWave_tlb : c.putWave.tlb = c.s.tlb := rfl
@[simp] theorem Ctx.putWave_remap : c.putWave.remap = c.s.remap := rfl
@[simp] theorem Ctx.putWave_window : c.putWave.window = c.s.window := rfl
@[simp] theorem Ctx.putWave_faults : c.putWave.faults = c.s.faults := rfl
@[simp] theorem Ctx.putWave_faultResults : c.putWave.faultResults = c.s.faultResults := rfl
@[simp] theorem Ctx.putWave_refused : c.putWave.refused = c.s.refused := rfl
@[simp] theorem Ctx.putWave_frontWrites : c.putWave.frontWrites = c.s.frontWrites := rfl
@[simp] theorem Ctx.putWave_dies : c.putWave.dies = c.s.dies := rfl
@[simp] theorem Ctx.putWave_launches : c.putWave.launches = c.s.launches := rfl
@[simp] theorem Ctx.putWave_gangs : c.putWave.gangs = c.s.gangs := rfl
@[simp] theorem Ctx.putWave_queues : c.putWave.queues = c.s.queues := rfl
@[simp] theorem Ctx.putWave_contexts : c.putWave.contexts = c.s.contexts := rfl
@[simp] theorem Ctx.putWave_runs : c.putWave.runs = c.s.runs := rfl
@[simp] theorem Ctx.putWave_forkWaits : c.putWave.forkWaits = c.s.forkWaits := rfl
@[simp] theorem Ctx.putWave_visits : c.putWave.visits = c.s.visits := rfl
@[simp] theorem Ctx.putWave_lastDie : c.putWave.lastDie = c.s.lastDie := rfl
@[simp] theorem Ctx.putWave_grows : c.putWave.grows = c.s.grows := rfl
@[simp] theorem Ctx.putWave_copies : c.putWave.copies = c.s.copies := rfl
@[simp] theorem Ctx.putWave_laneOps : c.putWave.laneOps = c.s.laneOps := rfl
@[simp] theorem Ctx.putWave_heads : c.putWave.heads = c.s.heads := rfl
@[simp] theorem Ctx.putWave_device : c.putWave.device = c.s.device := rfl
@[simp] theorem Ctx.putWave_ports : c.putWave.ports = c.s.ports := rfl
@[simp] theorem Ctx.putWave_power : c.putWave.power = c.s.power := rfl
@[simp] theorem Ctx.putWave_vector : c.putWave.vector = c.s.vector := rfl
@[simp] theorem Ctx.putWave_matrix : c.putWave.matrix = c.s.matrix := rfl
@[simp] theorem Ctx.putWave_awakeBanks : c.putWave.awakeBanks = c.s.awakeBanks := rfl
@[simp] theorem Ctx.putWave_bankFreed : c.putWave.bankFreed = c.s.bankFreed := rfl
@[simp] theorem Ctx.putWave_placeFrom : c.putWave.placeFrom = c.s.placeFrom := rfl
@[simp] theorem Ctx.putWave_gatedUnits : c.putWave.gatedUnits = c.s.gatedUnits := rfl
@[simp] theorem Ctx.putWave_health : c.putWave.health = c.s.health := rfl
@[simp] theorem Ctx.putWave_trust : c.putWave.trust = c.s.trust := rfl
@[simp] theorem Ctx.putWave_bar0 : c.putWave.bar0 = c.s.bar0 := rfl
@[simp] theorem Ctx.putWave_msixTable : c.putWave.msixTable = c.s.msixTable := rfl
@[simp] theorem Ctx.putWave_msixPending : c.putWave.msixPending = c.s.msixPending := rfl
@[simp] theorem Ctx.putWave_msixSent : c.putWave.msixSent = c.s.msixSent := rfl
@[simp] theorem Ctx.putWave_hostReply : c.putWave.hostReply = c.s.hostReply := rfl
@[simp] theorem Ctx.putWave_nearOld : c.putWave.nearOld = c.s.nearOld := rfl
@[simp] theorem Ctx.putWave_management : c.putWave.management = c.s.management := rfl

@[simp] theorem Ctx.putPath_clk : c.putPath.clk = c.s.clk := rfl
@[simp] theorem Ctx.putPath_agenda : c.putPath.agenda = c.s.agenda := rfl
@[simp] theorem Ctx.putPath_timers : c.putPath.timers = c.s.timers := rfl
@[simp] theorem Ctx.putPath_cur : c.putPath.cur = c.s.cur := rfl
@[simp] theorem Ctx.putPath_free : c.putPath.free = c.s.free := rfl
@[simp] theorem Ctx.putPath_serial : c.putPath.serial = c.s.serial := rfl
@[simp] theorem Ctx.putPath_picker : c.putPath.picker = c.s.picker := rfl
@[simp] theorem Ctx.putPath_mem : c.putPath.mem = c.s.mem := rfl
@[simp] theorem Ctx.putPath_unwritten : c.putPath.unwritten = c.s.unwritten := rfl
@[simp] theorem Ctx.putPath_lines : c.putPath.lines = c.s.lines := rfl
@[simp] theorem Ctx.putPath_leases : c.putPath.leases = c.s.leases := rfl
@[simp] theorem Ctx.putPath_writes : c.putPath.writes = c.s.writes := rfl
@[simp] theorem Ctx.putPath_past : c.putPath.past = c.s.past := rfl
@[simp] theorem Ctx.putPath_posted : c.putPath.posted = c.s.posted := rfl
@[simp] theorem Ctx.putPath_lags : c.putPath.lags = c.s.lags := rfl
@[simp] theorem Ctx.putPath_versions : c.putPath.versions = c.s.versions := rfl
@[simp] theorem Ctx.putPath_tags : c.putPath.tags = c.s.tags := rfl
@[simp] theorem Ctx.putPath_softRegions : c.putPath.softRegions = c.s.softRegions := rfl
@[simp] theorem Ctx.putPath_guestCopies : c.putPath.guestCopies = c.s.guestCopies := rfl
@[simp] theorem Ctx.putPath_guestDirty : c.putPath.guestDirty = c.s.guestDirty := rfl
@[simp] theorem Ctx.putPath_tlb : c.putPath.tlb = c.s.tlb := rfl
@[simp] theorem Ctx.putPath_remap : c.putPath.remap = c.s.remap := rfl
@[simp] theorem Ctx.putPath_window : c.putPath.window = c.s.window := rfl
@[simp] theorem Ctx.putPath_faults : c.putPath.faults = c.s.faults := rfl
@[simp] theorem Ctx.putPath_faultResults : c.putPath.faultResults = c.s.faultResults := rfl
@[simp] theorem Ctx.putPath_refused : c.putPath.refused = c.s.refused := rfl
@[simp] theorem Ctx.putPath_frontWrites : c.putPath.frontWrites = c.s.frontWrites := rfl
@[simp] theorem Ctx.putPath_dies : c.putPath.dies = c.s.dies := rfl
@[simp] theorem Ctx.putPath_launches : c.putPath.launches = c.s.launches := rfl
@[simp] theorem Ctx.putPath_gangs : c.putPath.gangs = c.s.gangs := rfl
@[simp] theorem Ctx.putPath_queues : c.putPath.queues = c.s.queues := rfl
@[simp] theorem Ctx.putPath_contexts : c.putPath.contexts = c.s.contexts := rfl
@[simp] theorem Ctx.putPath_runs : c.putPath.runs = c.s.runs := rfl
@[simp] theorem Ctx.putPath_forkWaits : c.putPath.forkWaits = c.s.forkWaits := rfl
@[simp] theorem Ctx.putPath_visits : c.putPath.visits = c.s.visits := rfl
@[simp] theorem Ctx.putPath_lastDie : c.putPath.lastDie = c.s.lastDie := rfl
@[simp] theorem Ctx.putPath_grows : c.putPath.grows = c.s.grows := rfl
@[simp] theorem Ctx.putPath_copies : c.putPath.copies = c.s.copies := rfl
@[simp] theorem Ctx.putPath_laneOps : c.putPath.laneOps = c.s.laneOps := rfl
@[simp] theorem Ctx.putPath_heads : c.putPath.heads = c.s.heads := rfl
@[simp] theorem Ctx.putPath_device : c.putPath.device = c.s.device := rfl
@[simp] theorem Ctx.putPath_ports : c.putPath.ports = c.s.ports := rfl
@[simp] theorem Ctx.putPath_power : c.putPath.power = c.s.power := rfl
@[simp] theorem Ctx.putPath_vector : c.putPath.vector = c.s.vector := rfl
@[simp] theorem Ctx.putPath_matrix : c.putPath.matrix = c.s.matrix := rfl
@[simp] theorem Ctx.putPath_awakeBanks : c.putPath.awakeBanks = c.s.awakeBanks := rfl
@[simp] theorem Ctx.putPath_bankFreed : c.putPath.bankFreed = c.s.bankFreed := rfl
@[simp] theorem Ctx.putPath_placeFrom : c.putPath.placeFrom = c.s.placeFrom := rfl
@[simp] theorem Ctx.putPath_gatedUnits : c.putPath.gatedUnits = c.s.gatedUnits := rfl
@[simp] theorem Ctx.putPath_health : c.putPath.health = c.s.health := rfl
@[simp] theorem Ctx.putPath_trust : c.putPath.trust = c.s.trust := rfl
@[simp] theorem Ctx.putPath_bar0 : c.putPath.bar0 = c.s.bar0 := rfl
@[simp] theorem Ctx.putPath_msixTable : c.putPath.msixTable = c.s.msixTable := rfl
@[simp] theorem Ctx.putPath_msixPending : c.putPath.msixPending = c.s.msixPending := rfl
@[simp] theorem Ctx.putPath_msixSent : c.putPath.msixSent = c.s.msixSent := rfl
@[simp] theorem Ctx.putPath_hostReply : c.putPath.hostReply = c.s.hostReply := rfl
@[simp] theorem Ctx.putPath_nearOld : c.putPath.nearOld = c.s.nearOld := rfl
@[simp] theorem Ctx.putPath_management : c.putPath.management = c.s.management := rfl

end

end Sys2Proof.Machine
end

