-- ==== Sys2Proof/Tests/Slice0.lean ====
section
/-!
SUPPORT. Sys2Proof/Tests/Slice0.lean: tests on fixed values, whose expected results come from the spec's own examples, tables and encodings,
and for every statement a state and operands that meet its hypotheses.
-/

namespace Sys2Proof.Tests

open Sys2Proof Sys2Proof.Machine Sys2Proof.Claims

set_option Elab.async false

/-! ## Small states -/

/-- A group with 1 KiB of scratch, whose code image is 64 bytes at 0x1000. -/
def grp : Group := { ctx := 0, window := 64, scratchBytes := 1024, code := ⟨0x1000, 64⟩ }
/-- A wave of four lanes with a window of 64. -/
def wav : Wave := { lanes := 0xF#32, live := 0xF#32, n := 64 }
/-- Its path, at slot 1 of the first comb. -/
def pth : Path := { pc := 4#32, mask := 0xF#32, mode := modeStart }
/-- What the fetch latched: a literal of 7 behind the instruction, the next one in slot 2. -/
def iss (gk : Nat) : Issue :=
  { g := gk, w := 0, slotB := false, word := 0#32, code := 0#4, slot := 1, literal := 7#32, next := 8#32, yieldHint := false }

/-- State s with a group of one wave at key gk, whose path in slot A is to issue. -/
def onPath (gk : Nat) (g : Group) (w : Wave) (p : Path) (s : State) : State :=
  { s with groups := s.groups.set gk { g with waves := [{ w with slotA := some p }] }, cur := some (iss gk) }

/-- The path that issues there. -/
def ctxOn (gk : Nat) (g : Group) (w : Wave) (p : Path) (s : State) : Ctx :=
  ⟨onPath gk g w p s, gk, { g with waves := [{ w with slotA := some p }] }, 0, { w with slotA := some p }, false, p, iss gk⟩

theorem onPath_ctx (gk : Nat) (g : Group) (w : Wave) (p : Path) (s : State) : (onPath gk g w p s).ctx? = some (ctxOn gk g w p s) := by
  simp [State.ctx?, onPath, ctxOn, iss, Tab.find?_set_self, Wave.slot]

/-- A user group's key (die 0, core 1) and a firmware group's (die 0, core 0). -/
abbrev user : Nat := 16
abbrev firm : Nat := 0

/-- What `Issues` asks, as a computation. -/
def checks (i : Instr) (legal : ModeImage → Bool) (c : Ctx) : Bool :=
  (c.precheck i (legal c.mode)).isNone && !c.interlocked (readNames c.mode i ++ writtenNames c.mode i) &&
    (match latency c.mode i with | .fixed clk => (writesEarly clk (writtenNames c.mode i) c.p.inflight).isEmpty | _ => true) &&
    (match c.w.tx with
     | some t => actingLanes i c &&& t.members == 0#32 || (t.shadowed c.w (writtenNames c.mode i)).shadow.length ≤ 32
     | none => true)

theorem issues_of {i : Instr} {legal : ModeImage → Bool} {s : State} {c : Ctx} (hs : s.ctx? = some c) (h : checks i legal c = true) :
    Issues i legal s c := by
  simp only [checks, Bool.and_eq_true] at h
  obtain ⟨⟨⟨h1, h2⟩, h3⟩, h4⟩ := h
  refine ⟨hs, by simpa using h1, by simpa using h2, fun clk hl => ?_, fun t ht => ?_⟩
  · rw [hl] at h3; simpa using h3
  · rw [ht] at h4
    simp only [Bool.or_eq_true, beq_iff_eq, decide_eq_true_eq] at h4
    exact h4

/-- The instruction issues on the path of `onPath`. -/
theorem issues_on {i : Instr} {legal : ModeImage → Bool} {gk : Nat} {g : Group} {w : Wave} {p : Path} {s : State}
    (h : checks i legal (ctxOn gk g w p s) = true) : Issues i legal (onPath gk g w p s) (ctxOn gk g w p s) :=
  issues_of (onPath_ctx ..) h

/-- The word-sized registers of some lanes: v2 is 1, 2, 3, 4 in lanes 0 to 3; v3 is 5 in each. -/
def regs : Wave := { wav with v := [(64, 1#32), (65, 2#32), (66, 3#32), (67, 4#32), (96, 5#32), (97, 5#32), (98, 5#32), (99, 5#32)] }

/-! ## Witnesses: rows 0x1 to 0x5 -/

theorem meets_IntegerResults : Issues (.iadd (.v 4) (.v 2) (.v 3)) anyType (onPath user grp regs pth .reset) (ctxOn user grp regs pth .reset) :=
  issues_on (by decide)
theorem meets_LaneAndPredicateResults :
    Issues (.sel (.v 4) (.v 2) (.v 3)) anyType (onPath user grp regs pth .reset) (ctxOn user grp regs pth .reset) ∧
    Issues (.vany 1#8 (.v 2)) anyType (onPath user grp regs pth .reset) (ctxOn user grp regs pth .reset) :=
  ⟨issues_on (by decide), issues_on (by decide)⟩
theorem meets_TypedResults :
    Issues (.cmplt 1#8 (.v 2) (.v 3)) scalarType (onPath user grp regs pth .reset) (ctxOn user grp regs pth .reset) ∧
    Issues (.fma (.v 4) (.v 2) (.v 3)) (fun m => allTypes.contains (modeType m)) (onPath user grp regs pth .reset) (ctxOn user grp regs pth .reset) :=
  ⟨issues_on (by decide), issues_on (by decide)⟩
theorem meets_IntegerElements : 8 ∈ [8, 16, 32, 64] ∧ 255 < 2 ^ 8 ∧ 128 < 2 ^ 8 ∧ 0 < 2 ^ 8 := by decide
/-- 0, −0, infinities and the canonical NaN of f32: each clause's operands. -/
theorem meets_FloatSpecialCases : fmtF32 ∈ [fmtF64, fmtF32, fmtF16, fmtBf16, fmtE5M2, fmtE4M3] ∧
    fmtF32.value false 0x7FC00000 = .nan ∧ fmtF32.value false 0x7F800000 = .inf false ∧ fmtF32.value false 0xFF800000 = .inf true ∧
    (∃ den, fmtF32.value false 0 = .fin false 0 den) ∧ (∃ den, fmtF32.value false 0x80000000 = .fin true 0 den) ∧
    (∃ num den, fmtF32.value false 0xBF800000 = .fin true num den ∧ num ≠ 0) ∧ fmtF32.hasInf = true :=
  ⟨by decide, by decide, by decide, by decide, ⟨_, by rfl⟩, ⟨_, by rfl⟩, ⟨_, _, by rfl, by decide⟩, by decide⟩
/-- A third in f16 (R68). -/
theorem meets_RoundToNearest : fmtF16.roundMag ⟨0, false, false, none⟩ false (.quot 1 3) = 0x3555 ∧ 0x3555 ≤ fmtF16.max ∧
    ∃ a b, fmtF16.value false 0x3555 = .fin false a b := ⟨by decide, by decide, _, _, by rfl⟩

/-! ## Witnesses: row 0x0 and traps -/

/-- The guard is q1, which holds in no lane, and in lanes 0 and 1. -/
def guarded : Path := { pth with mode := 0x100200#24 }
def half : Wave := { regs with q := [(1, 0x3#32)] }
/-- The other slot's path, with lanes 4 and 5, behind this one and before it. -/
def other (pc : Word) : Path := { pc := pc, mask := 0x30#32, mode := modeStart }

theorem meets_StraightControl :
    Issues (.idem 5#24) anyType (onPath user grp regs pth .reset) (ctxOn user grp regs pth .reset) ∧
    straightEffect (ctxOn user grp regs pth .reset) (.idem 5#24) ≠ none ∧
    Issues (.ldlit (.v 4)) anyType (onPath user grp regs pth .reset) (ctxOn user grp regs pth .reset) :=
  ⟨issues_on (by decide), by decide, issues_on (by decide)⟩

theorem good_target {c : Ctx} (h : c.code = ⟨0x1000, 64⟩) (hl : c.s.literalSlot c.codeAsid 0x1000 2 = false) : goodTarget c 8 := by
  refine ⟨by decide, by decide, ?_, by decide, ?_⟩
  · rw [h]; decide
  · rw [h]; exact hl

/-- No lane, every lane and some lanes taken; a target that is not aligned; the other slot occupied, with and without an entry at the
target and with a full stack. -/
theorem meets_BranchResults_none :
    Issues (.bra 1#24) anyType (onPath user grp regs guarded .reset) (ctxOn user grp regs guarded .reset) ∧
    branchTarget (ctxOn user grp regs guarded .reset) (.bra 1#24) = some (8, false) ∧ goodTarget (ctxOn user grp regs guarded .reset) 8 ∧
    (ctxOn user grp regs guarded .reset).S = 0#32 :=
  ⟨issues_on (by decide), by decide, good_target rfl (by decide +kernel), by decide⟩
theorem meets_BranchResults_all :
    Issues (.call 1#24) anyType (onPath user grp regs pth .reset) (ctxOn user grp regs pth .reset) ∧
    branchTarget (ctxOn user grp regs pth .reset) (.call 1#24) = some (8, true) ∧ goodTarget (ctxOn user grp regs pth .reset) 8 ∧
    (ctxOn user grp regs pth .reset).S ≠ 0#32 ∧ (ctxOn user grp regs pth .reset).S = (ctxOn user grp regs pth .reset).act :=
  ⟨issues_on (by decide), by decide, good_target rfl (by decide +kernel), by decide, by decide⟩
theorem meets_BranchResults_some :
    Issues (.bra 1#24) anyType (onPath user grp half guarded .reset) (ctxOn user grp half guarded .reset) ∧
    branchTarget (ctxOn user grp half guarded .reset) (.bra 1#24) = some (8, false) ∧ goodTarget (ctxOn user grp half guarded .reset) 8 ∧
    (ctxOn user grp half guarded .reset).S = 3#32 ∧ (ctxOn user grp half guarded .reset).w.slot true = none :=
  ⟨issues_on (by decide), by decide, good_target rfl (by decide +kernel), by decide, by decide⟩
theorem meets_BranchResults_bad :
    Issues (.brx (.k 4)) anyType (onPath user grp { regs with k := [(4, 6#32)] } pth .reset) (ctxOn user grp { regs with k := [(4, 6#32)] } pth .reset) ∧
    branchTarget (ctxOn user grp { regs with k := [(4, 6#32)] } pth .reset) (.brx (.k 4)) = some (6, false) ∧
    ¬goodTarget (ctxOn user grp { regs with k := [(4, 6#32)] } pth .reset) 6 :=
  ⟨issues_on (by decide), by decide, fun h => absurd h.2.1 (by decide)⟩
def stacked : Wave := { half with slotB := some (other 32#32), stack := [⟨8#32, 0x40#32, 0x100200#24⟩] }
theorem meets_BranchResults_entry :
    Issues (.bra 1#24) anyType (onPath user grp stacked guarded .reset) (ctxOn user grp stacked guarded .reset) ∧
    goodTarget (ctxOn user grp stacked guarded .reset) 8 ∧
    (ctxOn user grp stacked guarded .reset).S = 3#32 ∧ (ctxOn user grp stacked guarded .reset).w.slot true ≠ none ∧
    (ctxOn user grp stacked guarded .reset).w.stack = [] ++ ⟨8#32, 0x40#32, 0x100200#24⟩ :: [] :=
  ⟨issues_on (by decide), good_target rfl (by decide +kernel), by decide, by decide, rfl⟩
def full : Wave := { stacked with stack := (List.range 64).map fun n => ⟨BitVec.ofNat 32 (36 + 4 * n), 0x40#32, modeStart⟩ }
theorem meets_BranchResults_full :
    Issues (.bra 1#24) anyType (onPath user grp full guarded .reset) (ctxOn user grp full guarded .reset) ∧
    (∀ e ∈ (ctxOn user grp full guarded .reset).w.entries, ¬(e.pc = 8#32 ∧ e.mode = 0x100200#24)) ∧
    64 ≤ (ctxOn user grp full guarded .reset).w.stackCount :=
  ⟨issues_on (by decide), by decide, by decide⟩

/-- EXIT of some lanes and of all. -/
theorem meets_ExitResult :
    Issues .exit anyType (onPath user grp half guarded .reset) (ctxOn user grp half guarded .reset) ∧
    (ctxOn user grp half guarded .reset).w.unplaced = none ∧
    0xF#32 &&& ~~~(ctxOn user grp half guarded .reset).S ≠ 0#32 ∧
    Issues .exit anyType (onPath user grp regs pth .reset) (ctxOn user grp regs pth .reset) ∧
    0xF#32 &&& ~~~(ctxOn user grp regs pth .reset).S = 0#32 :=
  ⟨issues_on (by decide), rfl, by decide, issues_on (by decide), by decide⟩

/-- JOIN alone, beside the other slot at its PC, behind it; SLEEPUNTIL before its time, after it, and with a late copy. -/
def paired (pc : Word) : Wave := { regs with slotB := some (other pc) }
theorem meets_JoinAndSleepResults :
    Issues .join anyType (onPath user grp regs pth .reset) (ctxOn user grp regs pth .reset) ∧
    (∀ e ∈ (ctxOn user grp regs pth .reset).w.entries, 4 < e.pc.toNat) ∧ (ctxOn user grp regs pth .reset).w.slot true = none ∧
    Issues .join anyType (onPath user grp (paired 4#32) pth .reset) (ctxOn user grp (paired 4#32) pth .reset) ∧
    (ctxOn user grp (paired 4#32) pth .reset).w.entries = [] ∧ (ctxOn user grp (paired 4#32) pth .reset).w.slot true = some (other 4#32) ∧
    Issues .join anyType (onPath user grp (paired 4#32) { pth with pc := 8#32 } .reset) (ctxOn user grp (paired 4#32) { pth with pc := 8#32 } .reset) ∧
    (4#32 : Word).toNat < (8#32 : Word).toNat :=
  ⟨issues_on (by decide), by decide, rfl, issues_on (by decide), by decide, rfl, issues_on (by decide), by decide⟩
def sleeper (t : Word) : Wave := { wav with k := [(4, t)] }
def lateCopy : CopyOp := { id := 0, g := user, w := 0, kind := .cpy, dst := 0#512, src := 0#512, dstCur := ⟨0, 0#32, 0#32, 0#32, 0#32⟩,
                           srcCur := ⟨0, 0#32, 0#32, 0#32, 0#32⟩, rows := [], mode := modeStart, ctx := 0, tag := 0, promise := 3, bytes := 16 }
theorem meets_JoinAndSleepResults_sleep :
    Issues (.sleepuntil (.k 4)) anyType (onPath user grp (sleeper 9#32) pth .reset) (ctxOn user grp (sleeper 9#32) pth .reset) ∧
    (ctxOn user grp (sleeper 9#32) pth .reset).memberLanes = 0#32 ∧ 0 < ((ctxOn user grp (sleeper 9#32) pth .reset).val64 (.k 4) 0).toNat ∧
    Issues (.sleepuntil (.k 4)) anyType (onPath user grp (sleeper 9#32) pth { State.reset with clk := 9, copies := [lateCopy] })
      (ctxOn user grp (sleeper 9#32) pth { State.reset with clk := 9, copies := [lateCopy] }) ∧
    ((ctxOn user grp (sleeper 9#32) pth .reset).val64 (.k 4) 0).toNat ≤ 9 ∧ lateCopy.promise ≤ 9 :=
  ⟨issues_on (by decide), by decide, by decide, issues_on (by decide), by decide, by decide⟩

theorem meets_TrapEntry : Trappable (ctxOn user grp regs pth .reset) 0x40 ∧ (ctxOn user grp regs pth .reset).g.tag < 16 ∧
    (ctxOn user grp regs pth .reset).w.tx = none := ⟨⟨by decide, rfl, .inl rfl, .inl (by decide)⟩, by decide, rfl⟩
/-- TRAP with lanes and without, BKPT; a cause in handler mode, of a firmware wave and of a user wave of context 5. -/
def handling : Wave := { regs with handler := some ⟨false, 0x1000, 64, 0⟩ }
theorem meets_SoftwareAndDoubleTraps :
    Issues (.trap 9#8) anyType (onPath user grp regs pth .reset) (ctxOn user grp regs pth .reset) ∧ (ctxOn user grp regs pth .reset).S ≠ 0#32 ∧
    Issues (.trap 9#8) anyType (onPath user grp regs guarded .reset) (ctxOn user grp regs guarded .reset) ∧
    (ctxOn user grp regs guarded .reset).S = 0#32 ∧
    Issues .bkpt anyType (onPath user grp regs pth .reset) (ctxOn user grp regs pth .reset) ∧
    (ctxOn firm grp handling pth .reset).w.handler ≠ none ∧ (ctxOn firm grp handling pth .reset).firmware = true ∧
    (ctxOn user { grp with ctx := 5 } handling pth .reset).firmware = false ∧ (ctxOn user grp regs pth .reset).firmware = false ∧
    (ctxOn firm grp regs pth .reset).firmware = true ∧ causeIllegalOp ∉ [causeDeadlineMiss, causeFencePeerLost, causeSwTrap, causeDebugHalt] :=
  ⟨issues_on (by decide), by decide, issues_on (by decide), by decide, issues_on (by decide), nofun, by decide, by decide, by decide,
    by decide, by decide⟩
/-- TRET to a frame with pc 4 and mode 0x000200, to a frame with pc 0, and outside handler mode. -/
def framed : Wave := { handling with save := [(0, 4#8), (25, 2#8)] }
theorem meets_TrapReturn :
    Issues .tret anyType (onPath firm grp framed pth .reset) (ctxOn firm grp framed pth .reset) ∧
    (ctxOn firm grp framed pth .reset).w.unplaced = none ∧
    (ctxOn firm grp framed pth .reset).s.targetLegal 0 ⟨0x1000, 64⟩ (framed.frameBits 0 0 32) = true ∧
    modeLegal (BitVec.ofNat 24 (framed.frameBits 0 192 24)) = true :=
  ⟨issues_on (by decide), rfl, by decide +kernel, by decide +kernel⟩
theorem meets_TrapReturn_stop :
    Issues .tret anyType (onPath firm grp handling pth .reset) (ctxOn firm grp handling pth .reset) ∧
    (ctxOn firm grp handling pth .reset).s.targetLegal 0 ⟨0x1000, 64⟩ (handling.frameBits 0 0 32) = false ∧
    Issues .tret anyType (onPath firm grp regs pth .reset) (ctxOn firm grp regs pth .reset) ∧
    (ctxOn firm grp regs pth .reset).w.handler = none ∧ (ctxOn firm grp regs pth .reset).memberLanes = 0#32 :=
  ⟨issues_on (by decide), by decide +kernel, issues_on (by decide), rfl, by decide⟩

/-! ## Witnesses: rows 0x6 and 0x7 -/

/-- k4:k5 hold an address; a firmware wave's addresses are physical ones (R380). -/
def at64 (lo hi : Word) : Wave := { regs with k := [(4, lo), (5, hi)] }
abbrev inMem : Wave := { regs with k := [(4, 0x2000#32)] }
/-- The page of 0x2000. -/
def page2 : Translation := ⟨0x2000, 12, true, true, false, 0⟩
/-- Mode order `ar`. -/
def ordered : Path := { pth with mode := 0x000260#24 }
/-- A write of the firmware wave is under way. -/
def busy : State := { State.reset with posted := [{ id := 1, g := firm, w := 0, core := 0, tag := 0, bytes := [(0x2000, 1#8)] }], serial := 1 }

abbrev memCtx : Ctx := ctxOn firm grp inMem pth .reset
theorem mem_storage (w : Nat) (h : 0x2000 % w = 0) : Storage memCtx w 0x2000 page2 :=
  ⟨h, by decide, by decide +kernel, .inl ⟨0, 0x2000, by decide +kernel, .inl (by decide +kernel)⟩⟩
theorem mem_address : ∀ l, l < 32 → memCtx.address (.k 4) (.c 0) l = 0x2000 := by decide +kernel

theorem meets_LoadResults :
    Issues (.ld32 (.v 4) (.k 4) (.c 0)) anyType (onPath firm grp inMem pth .reset) memCtx ∧
    loadForm (.ld32 (.v 4) (.k 4) (.c 0)) = some (4, false, false, .v 4, .k 4, .c 0) ∧ memCtx.txLanes = 0#32 ∧
    NoCommit memCtx ∧ (∀ l, l < 32 → (memCtx.accessLanes (.v 4)).getLsbD l = true → Readable memCtx 4 (memCtx.address (.k 4) (.c 0) l)) :=
  ⟨issues_on (by decide), rfl, by decide, rfl, fun l h _ => by
    rw [mem_address l h]
    exact .memory page2 (mem_storage 4 rfl) rfl (by decide +kernel) (by decide +kernel)⟩
theorem meets_LoadResults_wait :
    Issues (.lda32 (.v 4) (.k 4) (.c 0)) anyType (onPath firm grp inMem ordered busy) (ctxOn firm grp inMem ordered busy) ∧
    modeOrder (ctxOn firm grp inMem ordered busy).mode = 3 ∧ (ctxOn firm grp inMem ordered busy).S ≠ 0#32 ∧
    (ctxOn firm grp inMem ordered busy).settled = false :=
  ⟨issues_on (by decide), by decide, by decide, by decide +kernel⟩

/-- A posted store; a store that is an acquire as well, with a write of the wave under way and without. -/
theorem meets_StoreResults :
    Issues (.st32 (.v 2) (.k 4) (.c 0)) anyType (onPath firm grp inMem pth .reset) memCtx ∧ memCtx.txLanes = 0#32 ∧ NoCommit memCtx ∧
    (∀ l, l < 32 → memCtx.S.getLsbD l = true → Storage memCtx 4 (memCtx.address (.k 4) (.c 0) l) page2 ∧ page2.write = true ∧
      (memCtx.tag = 0 ∨ (page2.page = .ver ∧ memCtx.s.remote (page2.pa (memCtx.address (.k 4) (.c 0) l)) = false))) :=
  ⟨issues_on (by decide), by decide, rfl, fun l h _ => by rw [mem_address l h]; exact ⟨mem_storage 4 rfl, rfl, .inl rfl⟩⟩
abbrev ordCtx : Ctx := ctxOn firm grp inMem ordered .reset
theorem ord_address : ∀ l, l < 32 → ordCtx.address (.k 4) (.c 0) l = 0x2000 := by decide +kernel
theorem ord_storage : Storage ordCtx 4 0x2000 page2 :=
  ⟨rfl, by decide, by decide +kernel, .inl ⟨0, 0x2000, by decide +kernel, .inl (by decide +kernel)⟩⟩
theorem meets_StoreResults_acquire :
    Issues (.str32 (.v 2) (.k 4) (.c 0)) anyType (onPath firm grp inMem ordered .reset) ordCtx ∧ ordCtx.txLanes = 0#32 ∧
    modeOrder ordCtx.mode = 3 ∧ ordCtx.S ≠ 0#32 ∧ ordCtx.settled = true ∧ ordCtx.tag = 0 ∧
    (∀ l, l < 32 → ordCtx.S.getLsbD l = true → Storage ordCtx 4 (ordCtx.address (.k 4) (.c 0) l) page2 ∧ page2.write = true ∧
      TakesWrite ordCtx false (lineOf (page2.pa (ordCtx.address (.k 4) (.c 0) l)))) ∧
    Issues (.str32 (.v 2) (.k 4) (.c 0)) anyType (onPath firm grp inMem ordered busy) (ctxOn firm grp inMem ordered busy) ∧
    (ctxOn firm grp inMem ordered busy).settled = false :=
  ⟨issues_on (by decide), by decide, by decide, by decide, by decide, rfl, fun l h _ => by
    rw [ord_address l h]
    exact ⟨ord_storage, rfl, by decide, by decide, by decide +kernel⟩, issues_on (by decide), by decide⟩

/-- A store to scratch, to the save slot, through the register aperture. -/
abbrev scrCtx : Ctx := ctxOn user grp (at64 0x80#32 0xFF800000#32) pth .reset
abbrev savCtx : Ctx := ctxOn user grp (at64 0x80#32 0xFF830000#32) pth .reset
abbrev regCtx : Ctx := ctxOn user grp (at64 0x80#32 0xFF820000#32) pth .reset
theorem scr_place : InScratch scrCtx 4 0xFF80000000000080 user scrCtx.g 0x80 :=
  ⟨by decide, by decide +kernel, by decide +kernel, by decide, by decide⟩
theorem meets_ApertureStores :
    Issues (.st32 (.v 2) (.k 4) (.c 0)) anyType (onPath user grp (at64 0x80#32 0xFF800000#32) pth .reset) scrCtx ∧ scrCtx.txLanes = 0#32 ∧
    NoCommit scrCtx ∧ scrCtx.groupAt user = some scrCtx.g ∧
    (∀ l, l < 32 → scrCtx.S.getLsbD l = true → InScratch scrCtx 4 (scrCtx.address (.k 4) (.c 0) l) user scrCtx.g 0x80) ∧
    Issues (.st32 (.v 2) (.k 4) (.c 0)) anyType (onPath user grp (at64 0x80#32 0xFF830000#32) pth .reset) savCtx ∧
    (∀ l, l < 32 → savCtx.address (.k 4) (.c 0) l % 4 = 0 ∧ regionOf (savCtx.address (.k 4) (.c 0) l) = .aperture .save 0x80) ∧
    Issues (.st32 (.v 2) (.k 4) (.c 0)) anyType (onPath user grp (at64 0x80#32 0xFF820000#32) pth .reset) regCtx ∧
    (∀ l, l < 32 → regCtx.address (.k 4) (.c 0) l % 4 = 0 ∧ regionOf (regCtx.address (.k 4) (.c 0) l) = .aperture .registers 0x80) ∧
    0x80 / 128 < regCtx.w.n ∧ regCtx.w.scoreboard = [] :=
  ⟨issues_on (by decide), by decide, rfl, by decide +kernel, fun l h _ => by
    have e : ∀ l, l < 32 → scrCtx.address (.k 4) (.c 0) l = 0xFF80000000000080 := by decide +kernel
    rw [e l h]; exact scr_place,
   issues_on (by decide), by decide +kernel, issues_on (by decide), by decide +kernel, by decide, rfl⟩

/-- A release store to scratch with a write of the wave under way. -/
abbrev relCtx : Ctx := ctxOn firm grp (at64 0x80#32 0xFF800000#32) pth busy
theorem meets_ApertureStores_release :
    Issues (.str32 (.v 2) (.k 4) (.c 0)) anyType (onPath firm grp (at64 0x80#32 0xFF800000#32) pth busy) relCtx ∧
    modeOrder relCtx.mode ≠ 3 ∧ NoCommit relCtx ∧ relCtx.settled = false ∧ relCtx.S ≠ 0#32 ∧
    (∀ l, l < 32 → relCtx.S.getLsbD l = true → relCtx.address (.k 4) (.c 0) l % 4 = 0 ∧
      ∃ gk g, InScratch relCtx 4 (relCtx.address (.k 4) (.c 0) l) gk g 0x80) :=
  ⟨issues_on (by decide), by decide, rfl, by decide, by decide, fun l h _ => by
    have e : ∀ l, l < 32 → relCtx.address (.k 4) (.c 0) l = 0xFF80000000000080 := by decide +kernel
    rw [e l h]; exact ⟨by decide, firm, relCtx.g, by decide, by decide +kernel, by decide +kernel, by decide, by decide⟩⟩

/-- AADD under i32 on memory, and under order `rel` with a write under way. -/
def typed (m : ModeImage) : Path := { pth with mode := m }
abbrev atomCtx : Ctx := ctxOn firm grp inMem (typed 0x030200#24) .reset
theorem meets_AtomicResults :
    Issues (.aadd (.v 4) (.k 4) (.v 2)) (accessTypes (.aadd (.v 4) (.k 4) (.v 2))) (onPath firm grp inMem (typed 0x030200#24) .reset) atomCtx ∧
    atomCtx.txLanes = 0#32 ∧ atomCtx.tag = 0 ∧ NoCommit atomCtx ∧
    (∀ l, l < 32 → (atomCtx.accessLanes (.v 4)).getLsbD l = true → AtomicPlace atomCtx 4 (atomCtx.address1 (.k 4) l) 0x2000) :=
  ⟨issues_on (by decide), by decide, rfl, rfl, fun l h _ => by
    have e : ∀ l, l < 32 → atomCtx.address1 (.k 4) l = 0x2000 := by decide +kernel
    rw [e l h]
    exact .memory page2 ⟨rfl, by decide, by decide +kernel, .inl ⟨0, 0x2000, by decide +kernel, .inl (by decide +kernel)⟩⟩ rfl rfl
      ⟨by decide, by decide, by decide +kernel⟩ rfl⟩
theorem meets_AtomicResults_wait :
    Issues (.aadd (.v 4) (.k 4) (.v 2)) (accessTypes (.aadd (.v 4) (.k 4) (.v 2))) (onPath firm grp inMem (typed 0x030240#24) busy)
      (ctxOn firm grp inMem (typed 0x030240#24) busy) ∧
    2 ≤ modeOrder (ctxOn firm grp inMem (typed 0x030240#24) busy).mode ∧ (ctxOn firm grp inMem (typed 0x030240#24) busy).S ≠ 0#32 ∧
    (ctxOn firm grp inMem (typed 0x030240#24) busy).settled = false :=
  ⟨issues_on (by decide), by decide, by decide, by decide⟩

/-- A misaligned load; a page that is not mapped; scratch behind the allocation. -/
abbrev oddCtx : Ctx := ctxOn firm grp { regs with k := [(4, 0x2001#32)] } pth .reset
abbrev farCtx : Ctx := ctxOn user { grp with ctx := 5 } inMem pth .reset
abbrev endCtx : Ctx := ctxOn user grp (at64 0x400#32 0xFF800000#32) pth .reset
theorem meets_AccessStops :
    Issues (.ld32 (.v 4) (.k 4) (.c 0)) anyType (onPath firm grp { regs with k := [(4, 0x2001#32)] } pth .reset) oddCtx ∧
    (∀ l, l < 32 → addressCause oddCtx .load 4 (oddCtx.address (.k 4) (.c 0) l) = some (0, 0x10, 4, 0x2001)) ∧
    Issues (.ld32 (.v 4) (.k 4) (.c 0)) anyType (onPath user { grp with ctx := 5 } inMem pth .reset) farCtx ∧
    (∀ l, l < 32 → addressCause farCtx .load 4 (farCtx.address (.k 4) (.c 0) l) = none ∧
      regionOf (farCtx.address (.k 4) (.c 0) l) = .memory ∧
      farCtx.s.fill 5 (farCtx.address (.k 4) (.c 0) l) (controllerOf 5 (farCtx.address (.k 4) (.c 0) l)) = .fault 1 0 12) ∧
    ((farCtx.s.die (farCtx.s.serverOf farCtx.die)).faultTail - (farCtx.s.die (farCtx.s.serverOf farCtx.die)).faultHead).toNat + 32 ≤ 4096 :=
  ⟨issues_on (by decide), by decide +kernel, issues_on (by decide), by decide +kernel, by decide⟩
theorem meets_AccessStops_lanes :
    Issues (.ld32 (.v 4) (.k 4) (.c 0)) anyType (onPath user grp (at64 0x400#32 0xFF800000#32) pth .reset) endCtx ∧ endCtx.w.unplaced = none ∧ NoCommit endCtx ∧
    endCtx.accessLanes (.v 4) ≠ 0#32 ∧
    (∀ l, l < 32 → endCtx.address (.k 4) (.c 0) l % 4 = 0 ∧ scratchAt endCtx (endCtx.address (.k 4) (.c 0) l) = some (user, endCtx.g, 0x400)) ∧
    endCtx.g.scratchBytes < 0x400 + 4 :=
  ⟨issues_on (by decide), rfl, rfl, by decide, by decide +kernel, by decide⟩

/-- CAP of a held line, when it comes back from its wait and at first, in the wrong order, of a free line; UNCAP without a record, of an expired one, of a held one. -/
def caps (a b : CapRecord) : Wave := { inMem with cap0 := a, cap1 := b }
/-- The path back from a wait for memory. -/
def back : Path := { pth with wait := .memory }
abbrev capCtx (a b : CapRecord) (s : State) : Ctx := ctxOn firm grp (caps a b) pth s
theorem meets_CapResults :
    Issues (.cap (.k 6) (.k 4) 3#8) anyType (onPath firm grp (caps (.held 64 64) .empty) pth .reset) (capCtx (.held 64 64) .empty .reset) ∧
    (capCtx (.held 64 64) .empty .reset).address1 (.k 4) 0 / 128 = 64 ∧
    Issues (.cap (.k 6) (.k 4) 3#8) anyType (onPath firm grp (caps (.held 64 64) .empty) back .reset)
      (ctxOn firm grp (caps (.held 64 64) .empty) back .reset) ∧
    Issues (.cap (.k 6) (.k 4) 3#8) anyType (onPath firm grp (caps (.held 60 60) (.held 64 64)) pth .reset) (capCtx (.held 60 60) (.held 64 64) .reset) ∧
    Issues (.cap (.k 6) (.k 4) 3#8) anyType (onPath firm grp (caps (.held 60 60) (.held 62 62)) pth .reset) (capCtx (.held 60 60) (.held 62 62) .reset) ∧
    Issues (.cap (.k 6) (.k 4) 3#8) anyType (onPath firm grp (caps (.held 70 70) .empty) pth .reset) (capCtx (.held 70 70) .empty .reset) ∧
    (CapRecord.held 70 70).va? ≠ some 64 ∧
    Issues (.cap (.k 6) (.k 4) 3#8) anyType (onPath firm grp (caps .empty .empty) pth .reset) (capCtx .empty .empty .reset) ∧
    (capCtx .empty .empty .reset).s.coreCaps 0 < 8 ∧ (capCtx .empty .empty .reset).act ≠ 0#32 ∧ NoCommit (capCtx .empty .empty .reset) ∧
    (capCtx .empty .empty .reset).tag = 0 ∧ page2.read = true ∧ page2.write = true ∧ page2.repl = false ∧
    Storage (capCtx .empty .empty .reset) 1 0x2000 page2 :=
  ⟨issues_on (by decide), by decide, issues_on (by decide), issues_on (by decide), issues_on (by decide), issues_on (by decide), by decide,
   issues_on (by decide), by decide +kernel, by decide, rfl, rfl, rfl, rfl, rfl, rfl, by decide, by decide +kernel, .inl ⟨0, 0x2000, by decide +kernel, .inl (by decide +kernel)⟩⟩
theorem meets_CapResults_uncap :
    Issues (.uncap (.k 6) (.k 4)) anyType (onPath firm grp (caps .empty .empty) pth .reset) (capCtx .empty .empty .reset) ∧
    Issues (.uncap (.k 6) (.k 4)) anyType (onPath firm grp (caps (.expired 64) .empty) pth .reset) (capCtx (.expired 64) .empty .reset) ∧
    Issues (.uncap (.k 6) (.k 4)) anyType (onPath firm grp (caps .empty (.expired 64)) pth .reset) (capCtx .empty (.expired 64) .reset) ∧
    Issues (.uncap (.k 6) (.k 4)) anyType (onPath firm grp (caps (.held 64 64) .empty) pth busy) (capCtx (.held 64 64) .empty busy) ∧
    (capCtx (.held 64 64) .empty busy).settled = false ∧
    Issues (.uncap (.k 6) (.k 4)) anyType (onPath firm grp (caps (.held 64 64) .empty) pth .reset) (capCtx (.held 64 64) .empty .reset) ∧
    (capCtx (.held 64 64) .empty .reset).settled = true :=
  ⟨issues_on (by decide), issues_on (by decide), issues_on (by decide), issues_on (by decide), by decide, issues_on (by decide), by decide⟩

/-- FENCE: acquire; full with nothing under way; full with a write under way; full at fab scope with a lost peer; inside a transaction. -/
def inTx : Wave := { regs with tx := some { depth := 1, members := 0xF#32, perLane := false, tryPc := 4#32, tryMode := modeStart } }
def lost : Wave := { regs with lostPeers := [2] }
theorem meets_FenceAndLineOperations :
    Issues (.fence 1#8 4#8 0#8) anyType (onPath firm grp regs pth .reset) (ctxOn firm grp regs pth .reset) ∧
    Issues (.fence 3#8 4#8 1#8) anyType (onPath firm grp regs pth .reset) (ctxOn firm grp regs pth .reset) ∧
    (∀ i, i < 4 → Tab.get 0 (ctxOn firm grp regs pth .reset).w.counts i = 0) ∧ (ctxOn firm grp regs pth .reset).settled = true ∧
    Issues (.fence 3#8 4#8 0#8) anyType (onPath firm grp regs pth busy) (ctxOn firm grp regs pth busy) ∧
    (ctxOn firm grp regs pth busy).settled = false ∧
    Issues (.fence 3#8 5#8 0#8) anyType (onPath firm grp lost pth .reset) (ctxOn firm grp lost pth .reset) ∧
    Trappable (ctxOn firm grp lost pth .reset) 0x33 ∧
    Issues (.fence 3#8 4#8 0#8) anyType (onPath user grp inTx pth .reset) (ctxOn user grp inTx pth .reset) ∧
    (ctxOn user grp inTx pth .reset).txLanes ≠ 0#32 ∧
    Issues (.fence 3#8 6#8 0#8) anyType (onPath user grp inTx pth .reset) (ctxOn user grp inTx pth .reset) :=
  ⟨issues_on (by decide), issues_on (by decide), by decide, by decide, issues_on (by decide), by decide, issues_on (by decide),
   ⟨by decide, rfl, .inl rfl, .inr (by decide)⟩,
   issues_on (by decide), by decide, issues_on (by decide)⟩
theorem meets_FenceAndLineOperations_lines :
    Issues (.pref (.k 4)) anyType (onPath firm grp inMem pth .reset) memCtx ∧
    Issues (.dropl (.k 4)) anyType (onPath firm grp inMem pth .reset) memCtx ∧ memCtx.linesBusy (memCtx.namedLines (.k 4)) = false ∧
    memCtx.s.guestDirty = [] ∧
    Issues (.wbl (.k 4)) anyType (onPath firm grp inMem pth busy) (ctxOn firm grp inMem pth busy) ∧
    (ctxOn firm grp inMem pth busy).linesBusy ((ctxOn firm grp inMem pth busy).namedLines (.k 4)) = true :=
  ⟨issues_on (by decide), issues_on (by decide), by decide +kernel, rfl, issues_on (by decide), by decide +kernel⟩

/-! ## Witnesses: row 0x8 -/

/-- i issues on a user wave w, at path p, in state s. -/
abbrev UserIssues (i : Instr) (w : Wave) (p : Path) (s : State) : Prop := Issues i anyType (onPath user grp w p s) (ctxOn user grp w p s)
/-- The same of a group g. -/
abbrev GroupIssues (i : Instr) (g : Group) (w : Wave) (p : Path) (s : State) : Prop := Issues i anyType (onPath user g w p s) (ctxOn user g w p s)
abbrev uc (w : Wave) (p : Path) (s : State) : Ctx := ctxOn user grp w p s

/-- A transaction of some lanes at a depth. -/
def txOf (members : LaneMask) (depth : Nat) : Tx := { depth := depth, members := members, perLane := false, tryPc := 4#32, tryMode := modeStart }
def inTx' (members : LaneMask) (depth : Nat) : Wave := { regs with tx := some (txOf members depth) }

/-- The path waits at its TCOMMIT already while the depth is 2. -/
def again : Wave := { regs with tx := some { txOf 0xF#32 2 with waiting := 0xF#32 } }

theorem frees_slot (w : Wave) : FreesSlot (uc w pth .reset) 0xF#32 := ⟨false, fun p hp => by cases hp; decide⟩

/-- TRY with no transaction to a good and to a bad target, from a path that is no member, nested, for the fifth time; TCOMMIT without
members, nested, of the outermost TRY; TSTAT and TADDR. -/
theorem meets_TransactionBasics_try :
    UserIssues (.tryT false 1#23) regs pth .reset ∧ (uc regs pth .reset).w.tx = none ∧ goodTarget (uc regs pth .reset) 8 ∧
    UserIssues (.tryT false 0x7FFFFF#23) regs pth .reset ∧ ¬goodTarget (uc regs pth .reset) 0 ∧
    UserIssues (.tryT false 1#23) (inTx' 0x30#32 1) pth .reset ∧ (uc (inTx' 0x30#32 1) pth .reset).memberLanes = 0#32 ∧
    UserIssues (.tryT false 1#23) (inTx' 0xF#32 3) pth .reset ∧ (uc (inTx' 0xF#32 3) pth .reset).memberLanes ≠ 0#32 ∧
    UserIssues (.tryT false 1#23) (inTx' 0xF#32 4) pth .reset ∧ FreesSlot (uc (inTx' 0xF#32 4) pth .reset) 0xF#32 ∧
    (uc (inTx' 0xF#32 4) pth .reset).w.unplaced = none ∧ (uc (inTx' 0xF#32 4) pth .reset).w.live ≠ 0#32 :=
  ⟨issues_on (by decide), rfl, good_target rfl (by decide +kernel), issues_on (by decide), fun h => absurd h.2.2.2.1 (by decide),
   issues_on (by decide), by decide, issues_on (by decide), by decide, issues_on (by decide), frees_slot _, rfl, by decide⟩
theorem meets_TransactionBasics_commit :
    UserIssues .tcommit regs pth .reset ∧ (uc regs pth .reset).memberLanes = 0#32 ∧
    UserIssues .tcommit (inTx' 0xF#32 2) pth .reset ∧ (uc (inTx' 0xF#32 2) pth .reset).memberLanes ≠ 0#32 ∧
    UserIssues .tcommit (inTx' 0xF#32 1) pth .reset ∧ (uc (inTx' 0xF#32 1) pth .reset).w.entries = [] ∧
    UserIssues .tcommit again pth .reset ∧ (uc again pth .reset).memberLanes ≠ 0#32 ∧
    again.tx = some { txOf 0xF#32 2 with waiting := 0xF#32 } ∧ (uc again pth .reset).act &&& 0xF#32 ≠ 0#32 ∧
    UserIssues (.tstat (.v 4)) regs pth .reset ∧ UserIssues (.taddr (.v 4)) regs pth .reset :=
  ⟨issues_on (by decide), by decide, issues_on (by decide), by decide, issues_on (by decide), by decide, issues_on (by decide), by decide, rfl,
   by decide, issues_on (by decide), issues_on (by decide)⟩
/-- TABORT of members and of others, an instruction that is not allowed inside, a cause. -/
theorem meets_TransactionAborts :
    (onPath user grp (inTx' 0xF#32 1) pth .reset).ctx? = some (uc (inTx' 0xF#32 1) pth .reset) ∧
    (uc (inTx' 0xF#32 1) pth .reset).w.handler = none ∧ (uc (inTx' 0xF#32 1) pth .reset).w.live ≠ 0#32 ∧ (uc (inTx' 0xF#32 1) pth .reset).w.unplaced = none ∧
    UserIssues (.tabort 0x80#8) (inTx' 0xF#32 1) pth .reset ∧
    (uc (inTx' 0xF#32 1) pth .reset).S &&& (uc (inTx' 0xF#32 1) pth .reset).memberLanes ≠ 0#32 ∧
    FreesSlot (uc (inTx' 0xF#32 1) pth .reset) 0xF#32 ∧
    UserIssues (.tabort 0x80#8) (inTx' 0x30#32 1) pth .reset ∧
    (uc (inTx' 0x30#32 1) pth .reset).S &&& (uc (inTx' 0x30#32 1) pth .reset).memberLanes = 0#32 ∧
    unsupportedInside .earlygo = true ∧ (uc (inTx' 0xF#32 1) pth .reset).precheck .earlygo true = none ∧
    (uc (inTx' 0xF#32 1) pth .reset).interlocked (readNames modeStart .earlygo ++ writtenNames modeStart .earlygo) = false ∧
    0x20 ∉ [0x50, 0x10, 0x12] :=
  ⟨onPath_ctx .., rfl, by decide, rfl, issues_on (by decide), by decide, frees_slot _, issues_on (by decide), by decide, rfl, by decide, by decide, by decide⟩

/-- Two lanes at their TCOMMIT: lane 0 has read the byte at 0x2000 and lane 1 has written another, or the same; the byte read is 0. -/
def rwTx (read : Byte) (written : Nat) : Tx :=
  { txOf 0x3#32 1 with reads := [(0x2000 * 32, read)], writes := [(written * 32 + 1, 7#8)], readLines := [64 * 32], writeLines := [64 * 32 + 1], waiting := 0x3#32 }
def committing (t : Tx) : Wave := { lanes := 0x3#32, live := 0x3#32, n := 64, tx := some t }
def atCommit : Path := { pc := 4#32, mask := 0x3#32, mode := modeStart, wait := .commit }
def commitCtx (t : Tx) (s : State) : Ctx :=
  ⟨onPath user grp (committing t) atCommit s, user, { grp with waves := [{ committing t with slotA := some atCommit }] }, 0,
   { committing t with slotA := some atCommit }, false, { pc := 0xFFFFFFFF#32, mask := 0#32, mode := modeStart },
   { g := user, w := 0, slotB := false, word := 0#32, code := 0#4, slot := 1, literal := 0#32, next := 0#32, yieldHint := false }⟩
theorem can_commit {c : Ctx} {tx : Tx} (ho : c.w.tx = some tx) (hm : tx.members &&& c.w.live ≠ 0#32) (hs : c.w.slot false = some atCommit)
    (hl : ∀ l, l < 32 → (tx.members &&& c.w.live).getLsbD l = true → tx.waiting.getLsbD l = true ∧ atCommit.mask.getLsbD l = true) (hh : c.w.handler = none)
    (hf : c.g.halted = false ∧ c.s.quiet c.gk c.wi = true ∧ c.w.entries = []) (hu : c.w.unplaced = none)
    (hk : ∀ k ∈ tx.readLines ++ tx.writeLines, k / 32 < 2 ^ 45 ∧ c.s.writeServed (k / 32) c.gk c.wi = true ∧
      c.s.queueOf (k / 32) = []) (hr : c.rival { tx with firstLine := some (tx.firstLine.getD (c.s.serial + 1)) } = false) (hq : tx.skipped = [])
    (hp : ∀ e ∈ tx.reads ++ tx.writes, e.1 / 32 < 2 ^ 52) : CanCommit c tx :=
  ⟨ho, hm, fun l h hl' => ⟨(hl l h hl').1, false, atCommit, hs, (hl l h hl').2⟩, ⟨hh, hf.1, hf.2.1, hf.2.2, hu⟩,
   fun k h => ⟨(hk k h).1, (hk k h).2.1, .inl (hk k h).2.2⟩, hr, hq, hp⟩
theorem commit_frees (t : Tx) (s : State) : FreesSlot (commitCtx t s) 0x3#32 := ⟨false, fun p hp => by cases hp; decide⟩
theorem meets_TransactionCommit :
    (onPath user grp (committing (rwTx 0#8 0x2010)) atCommit .reset).waveCtx? user 0 = some (commitCtx (rwTx 0#8 0x2010) .reset) ∧
    CanCommit (commitCtx (rwTx 0#8 0x2010) .reset) (rwTx 0#8 0x2010) ∧ (rwTx 0#8 0x2010).torn = [] ∧
    (∀ e ∈ (rwTx 0#8 0x2010).reads, State.reset.byteAt (e.1 / 32) = e.2) ∧
    (∀ x ∈ (rwTx 0#8 0x2010).writes, ∀ y ∈ (rwTx 0#8 0x2010).reads, x.1 / 32 / 4 ≠ y.1 / 32 / 4) :=
  ⟨by rfl, can_commit rfl (by decide) rfl (by decide) rfl (by decide) rfl (by decide +kernel) (by decide +kernel) rfl (by decide), rfl, by decide, by decide⟩
/-- The same word read and written; a byte that has changed since it was read. -/
theorem meets_TransactionCommit_conflict :
    (onPath user grp (committing (rwTx 0#8 0x2000)) atCommit .reset).waveCtx? user 0 = some (commitCtx (rwTx 0#8 0x2000) .reset) ∧
    CanCommit (commitCtx (rwTx 0#8 0x2000) .reset) (rwTx 0#8 0x2000) ∧ FreesSlot (commitCtx (rwTx 0#8 0x2000) .reset) 0x3#32 ∧
    Conflict (rwTx 0#8 0x2000) 0 1 :=
  ⟨by rfl, can_commit rfl (by decide) rfl (by decide) rfl (by decide) rfl (by decide +kernel) (by decide +kernel) rfl (by decide), commit_frees .., _, List.mem_cons_self .., _, List.mem_cons_self .., rfl, .inr ⟨rfl, rfl⟩⟩
theorem meets_TransactionCommit_stale :
    CanCommit (commitCtx (rwTx 5#8 0x2010) .reset) (rwTx 5#8 0x2010) ∧ FreesSlot (commitCtx (rwTx 5#8 0x2010) .reset) 0x3#32 ∧
    ¬(∀ e ∈ (rwTx 5#8 0x2010).reads, State.reset.byteAt (e.1 / 32) = e.2) :=
  ⟨can_commit rfl (by decide) rfl (by decide) rfl (by decide) rfl (by decide +kernel) (by decide +kernel) rfl (by decide), commit_frees .., by decide⟩
/-- A member that does not wait yet: lanes 4 and 5, at another place of the code. -/
def early : Wave :=
  { inTx' 0x3F#32 1 with live := 0x3F#32, slotA := some { pth with wait := .commit }, slotB := some (other 32#32),
                         tx := some { txOf 0x3F#32 1 with waiting := 0xF#32 } }
theorem meets_TransactionCommit_early :
    ∃ c, (onPath user grp early { pth with wait := .commit } .reset).waveCtx? user 0 = some c ∧ c.gk = user ∧ c.wi = 0 ∧ c.waitingLanes ≠ 0#32 ∧
      c.w.live &&& 0x3F#32 &&& ~~~c.waitingLanes ≠ 0#32 :=
  ⟨_, rfl, rfl, rfl, by decide, by decide⟩

/-- A grid of one group whose wave is in team 2, alone or with a second wave that is not there yet. -/
def inGrid : Group := { grp with launch := some 7 }
def teamOne (t : Team) : State := { State.reset with launches := [(7, { ctx := 0, queue := 0, teams := [{ members := [] }, { members := [] }, t] })] }
def alone : Team := { members := [(0, 0)] }
def shared : Team := { members := [(0, 0), (1, 0)] }
def absent : State := { teamOne shared with gangs := [(3, { launch := 7, index := 0, groups := [1] })] }
/-- The grid's wave has a write under way. -/
def busyTeam (t : Team) : State := { teamOne t with posted := [{ id := 1, g := user, w := 0, core := 1, tag := 0, bytes := [(0x2000, 1#8)] }], serial := 1 }
abbrev gc (w : Wave) (p : Path) (s : State) : Ctx := ctxOn user inGrid w p s

theorem member_of {t : Team} {s : State} {w : Wave} {p : Path} (ho : (gc w p s).txLanes = 0#32) (ht : (gc w p s).s.team 7 2 = some t)
    (hm : ((gc w p s).g.linear, (gc w p s).wi) ∈ t.members) : MemberOf (gc w p s) 2 7 t := ⟨ho, rfl, ht, hm⟩

/-- No member; BARA with a write under way and without; BARW as the last one and not (another member is not there; its own write is under way),
in its phase and behind it; BARWT behind, before and in the phase; BARX. -/
theorem meets_BarrierResults_none :
    UserIssues (.barw 2#8) regs pth .reset ∧ teamOf (.barw 2#8) = some 2 ∧ (uc regs pth .reset).txLanes = 0#32 ∧
    ∀ l t, ¬MemberOf (uc regs pth .reset) 2 l t := ⟨issues_on (by decide), rfl, by decide, fun l t h => nomatch h.launch⟩
theorem meets_BarrierResults_bara :
    GroupIssues (.bara (.k 6) 2#8) inGrid regs pth (teamOne alone) ∧ MemberOf (gc regs pth (teamOne alone)) 2 7 alone ∧
    GroupIssues (.bara (.k 6) 2#8) inGrid regs pth (busyTeam alone) ∧ MemberOf (gc regs pth (busyTeam alone)) 2 7 alone ∧
    (gc regs pth (busyTeam alone)).settled = false :=
  ⟨issues_on (by decide), member_of (by decide) rfl (by decide), issues_on (by decide), member_of (by decide) rfl (by decide), by decide⟩
def waiting : Path := { pth with wait := .barrier }
def arrivedIn (ph : Word) : Wave := { regs with arrived := [(4, ph)] }
theorem meets_BarrierResults_barw :
    GroupIssues (.barw 2#8) inGrid regs pth (busyTeam alone) ∧ ¬LastArrival (gc regs pth (busyTeam alone)) 7 alone ∧
    GroupIssues (.barw 2#8) inGrid regs pth (teamOne alone) ∧ LastArrival (gc regs pth (teamOne alone)) 7 alone ∧
    GroupIssues (.barw 2#8) inGrid regs pth absent ∧ MemberOf (gc regs pth absent) 2 7 shared ∧ ¬LastArrival (gc regs pth absent) 7 shared ∧
    GroupIssues (.barw 2#8) inGrid (arrivedIn 0#32) waiting absent ∧ MemberOf (gc (arrivedIn 0#32) waiting absent) 2 7 shared ∧
    (arrivedIn 0#32).arrived.find? (fun x => x.1 == 4) = some (4, 0#32) ∧ shared.phase = 0#32 ∧
    GroupIssues (.barw 2#8) inGrid (arrivedIn 9#32) waiting absent ∧ shared.phase ≠ 9#32 := by
  refine ⟨issues_on (by decide), fun h => absurd (h.2.2.2.1 (0, 0, 1) (by decide)) (by decide), issues_on (by decide),
    ⟨by decide, rfl, by decide, by decide, by decide⟩, issues_on (by decide), member_of (by decide) rfl (by decide), fun h => ?_,
    issues_on (by decide), member_of (by decide) rfl (by decide), rfl, rfl, issues_on (by decide), by decide⟩
  rcases h.2.2.1 (1, 0) (by decide) with h | h
  · exact absurd h (by decide)
  · exact absurd h (by decide)
theorem meets_BarrierResults_barwt :
    GroupIssues (.barwt 2#8 (.k 4)) inGrid (sleeper 1#32) pth (teamOne alone) ∧
    2 ^ 31 ≤ (alone.phase - (gc (sleeper 1#32) pth (teamOne alone)).val (.k 4) 0).toNat ∧
    GroupIssues (.barwt 2#8 (.k 4)) inGrid (sleeper 0xFFFFFFFF#32) pth (teamOne alone) ∧
    (alone.phase - (gc (sleeper 0xFFFFFFFF#32) pth (teamOne alone)).val (.k 4) 0).toNat = 1 ∧
    GroupIssues (.barwt 2#8 (.k 4)) inGrid (sleeper 0#32) pth (teamOne alone) ∧
    (alone.phase - (gc (sleeper 0#32) pth (teamOne alone)).val (.k 4) 0).toNat = 0 ∧
    GroupIssues (.barwt 2#8 (.k 4)) inGrid (sleeper 0#32) pth absent ∧
    GroupIssues (.barx 2#8 (.k 4)) inGrid (sleeper 1#32) pth (teamOne alone) :=
  ⟨issues_on (by decide), by decide, issues_on (by decide), by decide, issues_on (by decide), by decide, issues_on (by decide), issues_on (by decide)⟩

/-- A round that begins and is not over, one that is over with its first arrival, an arrival under another type. -/
def intMode : Path := { pth with mode := 0x030200#24 }
def rounds : Team := { shared with sums := [⟨some 0x000200#24, [(1, 0)], [1#32], []⟩] }
theorem meets_ReductionResults :
    Issues (.tredadd (.v 4) (.v 2) 2#8) (fun x => modeType x ∈ [0x0, 0x6, 0x7]) (onPath user inGrid regs intMode absent) (gc regs intMode absent) ∧
    reduceForm (.tredadd (.v 4) (.v 2) 2#8) = some (.sum, .v 4, .v 2, 2#8) ∧ MemberOf (gc regs intMode absent) 2 7 shared ∧
    shared.arrived = [] ∧ shared.rounds .sum = [] ∧ (∀ j, j ≠ .sum → shared.rounds j = []) ∧
    (shared.rounds .sum).find? (fun r => !r.arrived.contains (0, 0)) = none ∧
    ¬(∀ x ∈ shared.members, x = (0, 0) ∨ x ∈ ([] : List (Nat × Nat)) ∨ (gc regs intMode absent).s.memberEnded 7 x.1 x.2 = true) :=
  ⟨issues_on (by decide), rfl, member_of (by decide) rfl (by decide), rfl, rfl, fun j _ => by cases j <;> rfl, by decide, by decide⟩
theorem meets_ReductionResults_last :
    Issues (.tredadd (.v 4) (.v 2) 2#8) (fun x => modeType x ∈ [0x0, 0x6, 0x7]) (onPath user inGrid regs intMode (teamOne alone)) (gc regs intMode (teamOne alone)) ∧
    MemberOf (gc regs intMode (teamOne alone)) 2 7 alone ∧ (∀ x ∈ alone.members, x = (0, 0)) ∧
    Issues (.tredadd (.v 4) (.v 2) 2#8) (fun x => modeType x ∈ [0x0, 0x6, 0x7]) (onPath user inGrid regs intMode (teamOne rounds)) (gc regs intMode (teamOne rounds)) ∧
    MemberOf (gc regs intMode (teamOne rounds)) 2 7 rounds ∧ rounds.rounds .sum = [⟨some 0x000200#24, [(1, 0)], [1#32], []⟩] ∧
    modeType 0x000200#24 ≠ modeType intMode.mode :=
  ⟨issues_on (by decide), member_of (by decide) rfl (by decide), by decide, issues_on (by decide), member_of (by decide) rfl (by decide), rfl, by decide⟩

/-- GROW past 192 registers and to 192; its grant; SHRINK below 8, under a result on its way, and to 8. -/
def widened : State := { State.reset with grows := [(user, 0, false, 8)], awakeBanks := List.range' 16 16 }
def awaited : Wave := { regs with scoreboard := [{ id := 1, regs := [.v 60], lanes := 0xF#32, old := [] }] }
theorem meets_WindowResults :
    UserIssues (.grow 17#8) regs pth .reset ∧ 192 < regs.n + 8 * 17 ∧ UserIssues (.grow 16#8) regs pth .reset ∧ regs.n + 8 * 16 = 192 ∧ (uc regs pth .reset).txLanes = 0#32 ∧
    (onPath user grp regs pth widened).grows = [(user, 0, false, 8)] ∧
    (onPath user grp regs pth widened).groups.find? user = some (uc regs pth widened).g ∧
    (uc regs pth widened).g.waves[0]? = some (uc regs pth widened).w ∧ (uc regs pth widened).w.slot false = some pth ∧
    (onPath user grp regs pth widened).storeUsed (coreOfGroup user) + 1024 * 8 ≤ coreStore ∧
    regs.n + 8 * 8 ≤ 192 ∧ (onPath user grp regs pth widened).bankWake (coreOfGroup user) (regs.n + 8 * 8) = 0 ∧ grp.halted = false ∧
    UserIssues (.shrink 8#8) regs pth .reset ∧ regs.n < 8 * 8 + 8 ∧
    UserIssues (.shrink 7#8) awaited pth .reset ∧ 8 * 7 + 8 = regs.n ∧ UserIssues (.shrink 7#8) regs pth .reset :=
  ⟨issues_on (by decide), by decide, issues_on (by decide), rfl, by decide, rfl, by rfl, rfl, rfl, by decide, by decide, by decide, rfl, issues_on (by decide), by decide, issues_on (by decide),
   rfl, issues_on (by decide)⟩

/-- EARLYGO of the only wave of a launch; WAITC at its limit, above it, and with B = 63. -/
def counted : Wave := { regs with counts := [(1, 5)] }
theorem meets_EarlyAndWait :
    GroupIssues .earlygo inGrid regs pth (teamOne alone) ∧ (gc regs pth (teamOne alone)).txLanes = 0#32 ∧
    (gc regs pth (teamOne alone)).g.launch = some 7 ∧ (gc regs pth (teamOne alone)).s.launches.find? 7 ≠ none ∧
    UserIssues (.waitc 1#8 5#8) counted pth .reset ∧ Tab.get 0 (uc counted pth .reset).w.counts 1 = 5 ∧
    UserIssues (.waitc 1#8 4#8) counted pth .reset ∧ UserIssues (.waitc 1#8 63#8) counted pth .reset :=
  ⟨issues_on (by decide), by decide, rfl, by decide, issues_on (by decide), rfl, issues_on (by decide), issues_on (by decide)⟩

/-! ## Witnesses: row 0x9 -/

/-- Context 0 with a fork of tags 1 and 2, in the states given. -/
def forked (done : Bool) (a b : TagState) : State :=
  { State.reset with
    contexts := [(0, { forkTags := [1, 2], forkId := 5, forkCommitted := done })]
    tags := [(1, { state := a, fork := 5 }), (2, { state := b, fork := 5 })] }
def inFuture (tag : Nat) : Group := { grp with tag := tag }
/-- k6 names a tag. -/
def naming (tag : Word) : Wave := { regs with k := [(6, tag)] }
def busyUser (s : State) : State := { s with posted := [{ id := 1, g := user, w := 0, core := 1, tag := 0, bytes := [(0x2000, 1#8)] }], serial := 1 }

theorem meets_FutureDecisions :
    (uc (naming 1#32) pth (forked false .sealed .live)).txLanes = 0#32 ∧ (uc (naming 1#32) pth (forked false .sealed .live)).S ≠ 0#32 ∧
    UserIssues (.fcommit (.k 8) (.k 6)) regs guarded .reset ∧ UserIssues (.fsquash (.k 8) (.k 6)) regs guarded .reset ∧
    UserIssues (.fstate (.k 8) (.k 6)) regs guarded .reset ∧ (uc regs guarded .reset).S = 0#32 ∧
    UserIssues (.fstate (.k 8) (.k 6)) (naming 16#32) pth .reset ∧ UserIssues (.fstate (.k 8) (.k 6)) (naming 1#32) pth (forked false .sealed .live) ∧
    UserIssues (.fcommit (.k 8) (.k 6)) (naming 1#32) pth (forked false .sealed .live) ∧
    (uc (naming 1#32) pth (forked false .sealed .live)).tag = 0 :=
  ⟨by decide, by decide, issues_on (by decide), issues_on (by decide), issues_on (by decide), by decide, issues_on (by decide), issues_on (by decide),
   issues_on (by decide), rfl⟩
/-- The four statuses. -/
theorem meets_FutureDecisions_status :
    CommitStatus (forked false .sealed .live) 0 1 0 ∧ CommitStatus (forked false .live .live) 0 1 1 ∧ CommitStatus (forked false .squashed .live) 0 1 2 ∧
    CommitStatus (forked true .committed .squashed) 0 2 3 ∧ CommitStatus .reset 0 16 2 := by
  refine ⟨?_, ?_, ?_, ?_, ?_⟩ <;> (unfold CommitStatus TagIs; decide)
theorem meets_FutureDecisions_squash :
    GroupIssues (.fcommit (.k 8) (.k 6)) (inFuture 1) (naming 1#32) pth (forked false .live .live) ∧
    GroupIssues (.fsquash (.k 8) (.k 6)) (inFuture 1) (naming 2#32) pth (forked false .live .live) ∧
    (ctxOn user (inFuture 1) (naming 2#32) pth (forked false .live .live)).tag ≠ 0 ∧
    UserIssues (.fsquash (.k 8) (.k 6)) (naming 1#32) pth (forked false .sealed .live) ∧
    GroupIssues (.fsquash (.k 8) (.k 6)) (inFuture 1) (naming 1#32) pth (forked false .live .live) ∧
    ((ctxOn user (inFuture 1) (naming 1#32) pth (forked false .live .live)).val (.k 6) 0).toNat = 1 :=
  ⟨issues_on (by decide), issues_on (by decide), by decide, issues_on (by decide), issues_on (by decide), by decide⟩

/-- Page tables of context 5 that map the page 0x2000 onto itself with a leaf's attributes (R405, R406, R410): ASID table at 0x10000, level 4 to
level 0 at 0x20000 to 0x24000. -/
def paged (leaf : Nat) : State :=
  { State.reset with
    window := { asidBase := 0x10000 }
    mem := Tab.putAll 0#8 [] (placed 0x100A0 (natBytes 8 0x20000) ++ placed 0x20000 (natBytes 8 0x21001) ++ placed 0x21000 (natBytes 8 0x22001) ++
      placed 0x22000 (natBytes 8 0x23001) ++ placed 0x23000 (natBytes 8 0x24001) ++ placed 0x24010 (natBytes 8 leaf)) }
/-- A leaf for 0x2000 that is resident, readable and writable, of a future attribute. -/
def leafOf (fut : Nat) : Nat := 0x203B + fut * 128
def inContext5 : Group := { grp with ctx := 5, tag := 1 }
abbrev futCtx (w : Wave) (p : Path) (s : State) : Ctx := ctxOn user inContext5 w p s
def one : Path := { pth with mask := 0x1#32 }

/-- A store and an atomic of a future to pages that are UNVER, VER and DEFER, and to a page of another card. -/
theorem meets_FutureLoads :
    Issues (.st32 (.v 2) (.k 4) (.c 0)) (accessTypes (.st32 (.v 2) (.k 4) (.c 0))) (onPath user inContext5 inMem one (paged (leafOf 0))) (futCtx inMem one (paged (leafOf 0))) ∧
    (futCtx inMem one (paged (leafOf 0))).tag ≠ 0 ∧ modeOrder (futCtx inMem one (paged (leafOf 0))).mode < 2 ∧
    (futCtx inMem one (paged (leafOf 0))).accessLanes (.v 0) = laneBit 0 ∧ (futCtx inMem one (paged (leafOf 0))).address (.k 4) (.c 0) 0 = 0x2000 ∧
    (futCtx inMem one (paged (leafOf 0))).s.fill 5 0x2000 (controllerOf 5 0x2000) = .ok ⟨0x2000, 12, true, true, false, 0⟩ ∧
    (futCtx inMem one (paged (leafOf 0))).s.remote 0x2000 = false ∧
    (futCtx inMem one (paged (leafOf 2))).s.fill 5 0x2000 (controllerOf 5 0x2000) = .ok ⟨0x2000, 12, true, true, false, 2⟩ ∧
    (futCtx inMem one (paged (leafOf 2))).s.reach 0x2000 = .gddr 0 0x2000 ∧ ((paged (leafOf 2)).tag 1).effects.length < 256 ∧
    NoCommit (futCtx inMem one (paged (leafOf 2))) ∧
    Issues (.aadd (.v 4) (.k 4) (.v 2)) (accessTypes (.aadd (.v 4) (.k 4) (.v 2))) (onPath user inContext5 inMem { one with mode := 0x030200#24 } (paged (leafOf 2)))
      (futCtx inMem { one with mode := 0x030200#24 } (paged (leafOf 2))) :=
  ⟨issues_on (by decide), by decide, by decide, by decide, by decide, by decide +kernel, by decide +kernel, by decide +kernel, by decide +kernel, by decide,
   rfl, issues_on (by decide)⟩
def naming2 (tag : Word) (lo hi : Word) : Wave := { regs with k := [(4, lo), (5, hi), (6, tag)] }
/-- v6:v7 hold an address in lanes 0 to 3. -/
def vAddr (tag : Word) (lo hi : Word) : Wave :=
  { wav with v := ((List.range 4).map fun l => (192 + l, lo)) ++ (List.range 4).map (fun l => (224 + l, hi)), k := [(6, tag)] }
abbrev ldf : Instr := .ldf32 (.v 4) (.v 6) (.k 6)
abbrev ldfCtx : Ctx := uc (vAddr 1#32 0x2000#32 0#32) pth (forked false .live .live)
theorem meets_FutureLoads_ldf32 :
    UserIssues ldf (vAddr 16#32 0x2000#32 0#32) pth .reset ∧ ((uc (vAddr 16#32 0x2000#32 0#32) pth .reset).val (.k 6) 0).toNat = 16 ∧
    GroupIssues ldf (inFuture 1) (vAddr 2#32 0x2000#32 0#32) pth (forked false .live .live) ∧
    UserIssues ldf (vAddr 1#32 0#32 0xFF800000#32) one (forked false .live .live) ∧
    (uc (vAddr 1#32 0#32 0xFF800000#32) one (forked false .live .live)).S = laneBit 0 ∧
    regionOf ((uc (vAddr 1#32 0#32 0xFF800000#32) one (forked false .live .live)).address1 (.v 6) 0) = .aperture .scratch 0 ∧
    UserIssues ldf (vAddr 1#32 0x2000#32 0#32) pth (forked false .live .live) ∧
    (∀ l, l < 32 → ldfCtx.S.getLsbD l = true → ldfCtx.address1 (.v 6) l = 0x2000) ∧
    Storage ldfCtx 4 0x2000 page2 ∧ NoCommit ldfCtx ∧ ldfCtx.s.reach 0x2000 = .gddr ldfCtx.s.ownCard 0x2000 ∧
    ldfCtx.readable (ldfCtx.s.viewLine (64 + 2 ^ 45), page2.page) = true ∧ ldfCtx.s.health.poisonedLines.find? 64 = none :=
  ⟨issues_on (by decide), by decide, issues_on (by decide), issues_on (by decide), by decide, by decide, issues_on (by decide), by decide +kernel,
   ⟨rfl, by decide, by decide +kernel, .inl ⟨0, 0x2000, by decide +kernel, .inl (by decide +kernel)⟩⟩, rfl, by decide +kernel,
   by decide +kernel, by decide +kernel⟩

/-- FLIP, SIGNAL and GLAUNCH with S empty, under a future with room and without, with a write of the wave under way, and acting. -/
def full256 : State := { State.reset with tags := [(1, { state := .live, effects := List.replicate 256 (.flip 0 0) })] }
def running (dev : Bool) : State :=
  { State.reset with
    contexts := [(0, { graphs := [(0, { nodes := [{ devLaunch := dev }], run := some 9 })] })]
    runs := [(9, { ctx := 0, slot := 0, queue := 0, packet := 0#32, completion := 0, fence := 0, nodes := [{ node := 0, tag := 0, counter := 1, param := 0 }] })] }
theorem meets_FrontEndInstructions :
    UserIssues (.flip (.k 4) 1#8) regs guarded .reset ∧ deferredForm (uc regs guarded .reset) (.flip (.k 4) 1#8) ≠ none ∧ (uc regs guarded .reset).S = 0#32 ∧
    GroupIssues (.flip (.k 4) 1#8) (inFuture 1) inMem pth (forked false .live .live) ∧
    GroupIssues (.flip (.k 4) 1#8) (inFuture 1) inMem pth full256 ∧ (full256.tag 1).effects.length = 256 ∧ (full256.tag 1).state = .live ∧
    UserIssues (.flip (.k 4) 1#8) inMem pth (busyUser .reset) ∧ (uc inMem pth (busyUser .reset)).settled = false ∧
    UserIssues (.flip (.k 4) 1#8) inMem pth .reset ∧ (uc inMem pth .reset).settled = true ∧ State.reset.refused = [] ∧
    (match (uc inMem pth .reset).s.frontRead (.flip 1) 0 0x2000 32 with | .ok bs => bs = List.replicate 32 0#8 | _ => False) :=
  ⟨issues_on (by decide), nofun, by decide, issues_on (by decide), issues_on (by decide), by decide +kernel, by decide, issues_on (by decide), by decide,
   issues_on (by decide), by decide, rfl, rfl⟩
theorem meets_FrontEndInstructions_surface : SurfaceLegal (0x1100 + 2 ^ 64 * 256 + 2 ^ 96 * 8192 + 2 ^ 112 * 1 + 2 ^ 128 * 0x18) ∧ ¬SurfaceLegal 0 :=
  ⟨⟨by decide, by decide, by decide +kernel, by decide +kernel, by decide, by decide⟩, fun h => absurd h.2.2.1 (by decide +kernel)⟩
theorem meets_FrontEndInstructions_signal :
    UserIssues (.signal 1#8 (.k 4) (.c 1)) inMem pth .reset ∧ Storage (uc inMem pth .reset) 4 0x2000 page2 ∧ (uc inMem pth .reset).p.wait ≠ .front ∧
    modeOrder (uc inMem pth .reset).mode = 0 ∧
    UserIssues (.signal 1#8 (.k 4) (.c 1)) inMem ordered .reset ∧ modeOrder (uc inMem ordered .reset).mode = 3 ∧
    UserIssues (.signal 1#8 (.k 4) (.c 1)) inMem { ordered with wait := .front } .reset ∧ State.reset.quiet user 0 = true ∧
    NoCommit (uc inMem pth .reset) ∧ GroupIssues (.signal 1#8 (.k 4) (.c 1)) (inFuture 1) inMem pth (forked false .live .live) ∧
    regionOf 0x2000 = .memory :=
  ⟨issues_on (by decide), ⟨rfl, by decide, by decide +kernel, .inl ⟨0, 0x2000, by decide +kernel, .inl (by decide +kernel)⟩⟩, by decide, by decide,
   issues_on (by decide), by decide, issues_on (by decide), by decide, rfl, issues_on (by decide), by decide⟩
theorem meets_FrontEndInstructions_glaunch :
    UserIssues (.glaunch (.k 6) (.k 4)) (naming2 0#32 0x2000#32 0#32) pth .reset ∧ ((uc (naming2 0#32 0x2000#32 0#32) pth .reset).s.graph 0 0).run = none ∧
    UserIssues (.glaunch (.k 6) (.k 4)) (naming2 0#32 0x2000#32 0#32) pth (running true) ∧
    ((running true).graph 0 0).run = some 9 ∧ (running true).runs.find? 9 ≠ none ∧ (((running true).graph 0 0).nodes.getD 0 {}).devLaunch = true ∧
    (∀ x, (running true).runs.find? 9 = some x → ∀ y ∈ x.nodes, y.launched = false ∧ y.ready = false) ∧
    UserIssues (.glaunch (.k 6) (.k 4)) (naming2 0#32 0x2000#32 0#32) pth (running false) ∧
    (((running false).graph 0 0).nodes.getD 0 {}).devLaunch = false :=
  ⟨issues_on (by decide), by decide, issues_on (by decide), by decide, by decide, by decide, (fun x h y hy => by cases h; revert y; decide), issues_on (by decide), by decide⟩

/-- The commit point before its clk and at it; folding with an effect left and with none; scrubbing before and after the squash is noted. -/
def tagged (x : FutureTag) : State := { State.reset with tags := [(3, x)], versions := [versionKey 3 64] }
theorem meets_FutureSteps :
    (let s := tagged { state := .committed, committing := true, commitAt := 66 }
     (s.tag 3).state = .committed ∧ (s.tag 3).committing = true ∧ s.clk < (s.tag 3).commitAt) ∧
    (let s := tagged { state := .committed, committing := true, effects := [.flip 0 0] }
     (s.tag 3).committing = true ∧ (s.tag 3).commitAt ≤ s.clk ∧ (s.tag 3).committer = none ∧ versionKey 3 64 ∈ s.versions) ∧
    ((tagged { state := .committed, effects := [.flip 0 0] }).tag 3).effects ≠ [] ∧
    (let s := tagged { state := .committed }; (s.tag 3).state = .committed ∧ (s.tag 3).committing = false ∧ (s.tag 3).effects = []) ∧
    (let s := tagged { state := .squashed, noted := true }; (s.tag 3).state = .squashed ∧ (s.tag 3).noted = true) ∧
    (let s := tagged { state := .squashed }; (s.tag 3).state = .squashed ∧ (s.tag 3).noted = false) := by decide

/-! ## Witnesses: row 0xA -/

/-- A linear f32 tensor of 4 × 1 × 1 × 1 at an address, with rows of 16 bytes (R235); `more` adds other fields. -/
def rec (base more : Nat) : TRecord :=
  BitVec.ofNat 512 (0x01 + 3 * 2 ^ 8 + base * 2 ^ 32 + 4 * 2 ^ 160 + 2 ^ 192 + 2 ^ 224 + 2 ^ 256 + 16 * 2 ^ 288 + 16 * 2 ^ 320 + 16 * 2 ^ 352 + more)
/-- Context 0 with tensors 3 and 5 loaded: both f32, 5 of another format, or 3 with landing team 2. -/
def loaded (a b : TRecord) : State := { State.reset with contexts := [(0, { tensors := [(3, a), (5, b)] })] }
def two : State := loaded (rec 0x4000 0) (rec 0x2000 0)
/-- The record of tensor 3 stands at 0x2000. -/
def recorded : State := { State.reset with mem := Tab.putAll 0#8 [] (placed 0x2000 (natBytes 64 (rec 0x4000 0).toNat)) }

theorem meets_TensorTable :
    (uc inMem pth .reset).txLanes = 0#32 ∧ (uc inMem pth .reset).S ≠ 0#32 ∧
    GroupIssues (.tdef 3#8 (.k 4)) (inFuture 1) inMem pth .reset ∧ (ctxOn user (inFuture 1) inMem pth .reset).tag ≠ 0 ∧
    UserIssues (.trel 3#8) inMem pth two ∧ (uc inMem pth two).tag = 0 ∧
    UserIssues (.tdef 3#8 (.k 4)) inMem pth recorded ∧ Storage (uc inMem pth recorded) 64 0x2000 page2 ∧
    (uc inMem pth recorded).s.reach 0x2000 = .gddr 0 0x2000 ∧ (uc inMem pth recorded).s.softRegions = [] ∧
    NoCommit (uc inMem pth recorded) ∧ (uc inMem pth recorded).readable ((uc inMem pth recorded).s.viewLine 64, page2.page) = true ∧
    recordFault (rec 0x4000 0) = 0 ∧ recordFault 0#512 = 1 :=
  ⟨by decide, by decide, issues_on (by decide), by decide, issues_on (by decide), by decide, issues_on (by decide),
   ⟨rfl, by decide, by decide +kernel, .inl ⟨0, 0x2000, by decide +kernel, .inl (by decide +kernel)⟩⟩, by decide +kernel, rfl, rfl, by decide +kernel,
   by decide +kernel, by decide +kernel⟩
theorem meets_TensorTable_cursor :
    UserIssues (.tcur 3#8 (.k 4)) inMem pth two ∧ UserIssues (.tcurhi 3#8 (.k 4)) inMem pth two ∧
    ((uc inMem pth two).s.context 0).tensors.find? 3 = some (rec 0x4000 0) ∧ knownFormat (bitField (rec 0x4000 0) 0 8) ∧
    UserIssues (.tquery (.k 6) 3#8 14#8) inMem pth two ∧ UserIssues (.tquery (.k 6) 3#8 2#8) inMem pth two ∧
    UserIssues (.tcur 3#8 (.k 4)) inMem guarded two ∧ (uc inMem guarded two).S = 0#32 ∧
    UserIssues (.tquery (.k 6) 4#8 2#8) inMem pth two ∧ ((uc inMem pth two).s.context 0).tensors.find? 4 = none :=
  ⟨issues_on (by decide), issues_on (by decide), rfl, .inl (by decide +kernel), issues_on (by decide), issues_on (by decide), issues_on (by decide),
   by decide, issues_on (by decide), rfl⟩

theorem meets_CopyIssue :
    UserIssues (.cpy (.k 6) 3#8 5#8) inMem guarded two ∧ (uc inMem guarded two).S = 0#32 ∧
    UserIssues (.gath (.k 6) 4#8 (.v 2)) inMem pth two ∧ ((uc inMem pth two).s.context 0).tensors.find? 4 = none ∧
    UserIssues (.cpy (.k 6) 4#8 5#8) inMem pth two ∧ UserIssues (.cpy (.k 6) 3#8 4#8) inMem pth two :=
  ⟨issues_on (by decide), by decide, issues_on (by decide), rfl, issues_on (by decide), issues_on (by decide)⟩
/-- Formats that CPY does not accept together; a landing team of which the wave is no member; a copy between tensors of one format, with the
slot's counter at 63 and below. -/
def mixed : State := loaded (rec 0x4000 0) (rec 0x2000 1)
def landing : State := loaded (rec 0x4000 (2 ^ 15 + 2 * 2 ^ 16)) (rec 0x2000 0)
def busyCopies : Wave := { inMem with counts := [(0, 63)] }
theorem meets_CopyIssue_checks :
    UserIssues (.cpy (.k 6) 3#8 5#8) inMem pth mixed ∧ ¬CopyAccepts .cpy (rec 0x4000 0) (rec 0x2000 1) 0#32 0#32 ∧
    UserIssues (.cpy (.k 6) 3#8 5#8) inMem pth landing ∧ bitField (rec 0x4000 (2 ^ 15 + 2 * 2 ^ 16)) 15 1 = 1 ∧
    (∀ l t, ¬MemberOf (uc inMem pth landing) 2 l t) ∧
    UserIssues (.cpy (.k 6) 3#8 5#8) inMem pth two ∧ CopyAccepts .cpy (rec 0x4000 0) (rec 0x2000 0) 0#32 0#32 ∧ bitField (rec 0x4000 0) 15 1 = 0 ∧
    (uc inMem pth two).tag = 0 ∧ knownFormat (bitField (rec 0x2000 0) 0 8) ∧
    cursorNow inMem 3 (rec 0x4000 0) = (0#32, 0#32, 0#32, 0#32) ∧ Tab.get 0 (uc inMem pth two).w.counts 0 < 63 ∧
    UserIssues (.cpy (.k 6) 3#8 5#8) busyCopies pth two ∧ Tab.get 0 (uc busyCopies pth two).w.counts 0 = 63 :=
  ⟨issues_on (by decide), fun h => absurd h.2.1 (by decide +kernel), issues_on (by decide), by decide +kernel, fun _ _ h => (nomatch h.launch),
   issues_on (by decide),
   ⟨⟨by decide +kernel, by decide +kernel⟩, by decide +kernel, fun h => by rcases h with h | h <;> exact absurd h (by decide +kernel)⟩,
   by decide +kernel, rfl, .inl (by decide +kernel), by decide +kernel, by decide, issues_on (by decide), by decide⟩
theorem meets_CopyIssue_addresses :
    let o := copyOf (uc inMem pth two) .cpy (rec 0x4000 0) (rec 0x2000 0) ⟨3, 0#32, 0#32, 0#32, 0#32⟩ ⟨5, 0#32, 0#32, 0#32, 0#32⟩ []
    ∀ va ∈ o.dstAddrs ++ o.srcAddrs, regionOf va = .memory := by decide +kernel

/-- A copy inside the group's scratchpad: one unit on its way, behind an earlier store and not; all of its bytes landed; a copy of no
bytes before its promise. -/
def scratchCopy (left : List Nat) (bytes landed promise : Nat) : CopyOp :=
  { id := 5, g := user, w := 0, kind := .cpy, dst := rec 0xFF80000000000080 0, src := rec 0xFF80000000000000 0, dstCur := ⟨3, 0#32, 0#32, 0#32, 0#32⟩,
    srcCur := ⟨5, 0#32, 0#32, 0#32, 0#32⟩, rows := [], mode := modeStart, ctx := 0, tag := 0, promise := promise, bytes := bytes, landed := landed,
    left := left }
def copying (o : CopyOp) : State := { State.reset with groups := [(user, { grp with waves := [wav] })], copies := [o] }
theorem meets_CopySteps_cells :
    let o := scratchCopy [] 16 0 0
    o.kind = .cpy ∧ bitField o.dst 10 2 = 0 ∧ bitField o.src 10 2 = 0 ∧ bitField o.dst 0 8 = bitField o.src 0 8 ∧
    bitField o.dst 0 8 ∈ [0x01, 0x02, 0x03, 0x04, 0x05, 0x06, 0x0B, 0x0C] ∧ bitField o.dst 8 2 = 3 ∧ bitField o.src 8 2 = 3 := by decide +kernel
theorem meets_CopySteps_landing :
    let o := scratchCopy [0xFF8000000000008] 16 0 0
    (copying o).copies = [o] ∧ (copying o).groups.find? o.g = some { grp with waves := [wav] } ∧ bitField o.dst 15 1 = 0 ∧ o.read = [] ∧
    { copying o with posted := [{ id := 1, g := user, w := 0, core := 1, tag := 0, bytes := [(0x2000, 1#8)] }] }.earlierDone o.g o.w o.id = false ∧
    (copying o).earlierDone o.g o.w o.id = true ∧
    regionOf (16 * 0xFF8000000000008) = .aperture .scratch 0x80 ∧ 0x80 / 128 * 128 + 128 ≤ grp.scratchBytes := by
  refine ⟨rfl, rfl, ?_, rfl, ?_, ?_, ?_, ?_⟩ <;> decide +kernel
theorem meets_CopySteps_reach :
    let o := scratchCopy [0xFF8000000000008] 16 0 0
    ∀ x ∈ cellsOf o.cells 0xFF8000000000008, ∀ a ∈ x.at_.addrs ++ x.val.reads.flatMap Bits.addrs,
      (match regionOf a with | .aperture .scratch off => decide (off < 1024) | _ => false) = true := by decide +kernel
theorem meets_CopySteps_complete :
    (let o := scratchCopy [] 0 0 9; (copying o).copies = [o] ∧ o.left = [] ∧ (copying o).lags = [] ∧ (copying o).refused = [] ∧ o.bytes = 0 ∧
      (copying o).clk < o.promise) ∧
    (let o := scratchCopy [] 16 16 9; o.left = [] ∧ o.bytes ≠ 0 ∧ o.bytes ≤ o.landed) :=
  ⟨⟨rfl, rfl, rfl, rfl, rfl, by decide⟩, rfl, by decide, by decide⟩

/-! ## Witnesses: row 0xB -/

/-- A tensor of 1 × 1 × 1 × 1 of a format and a layout at an address. -/
def tiny (format layout base : Nat) : TRecord :=
  BitVec.ofNat 512 (format + 3 * 2 ^ 8 + layout * 2 ^ 10 + base * 2 ^ 32 + 2 ^ 160 + 2 ^ 192 + 2 ^ 224 + 2 ^ 256 + 4096 * 2 ^ 288 + 4096 * 2 ^ 320 + 4096 * 2 ^ 352)
/-- A group with eight tiles and a macro whose tile of i8 has been loaded. -/
def mgroup : Group := { grp with accTiles := 8, macros := [{ loaded := true, dim0 := 1, format := 0x06, filled := true }] }
/-- Tensor 3 is a linear i8, 4 a B tensor, 5 an A tensor, 6 a linear i32. -/
def tensors : State :=
  { State.reset with contexts := [(0, { tensors := [(3, tiny 0x06 0 0x2000), (4, tiny 0x06 2 0x2000), (5, tiny 0x06 1 0x2000), (6, tiny 0x0C 0 0x2000)] })] }
abbrev mc (w : Wave) (p : Path) : Ctx := ctxOn user mgroup w p tensors
abbrev MIssues (i : Instr) (w : Wave) (p : Path) : Prop := Issues i anyType (onPath user mgroup w p tensors) (mc w p)
def start (t : Nat) : Cursor := ⟨t, 0#32, 0#32, 0#32, 0#32⟩
theorem names3 : NamesTensor (mc regs pth) 3 (tiny 0x06 0 0x2000) (start 3) := ⟨rfl, .inl (by decide +kernel), by decide +kernel⟩
theorem names4 : NamesTensor (mc regs pth) 4 (tiny 0x06 2 0x2000) (start 4) := ⟨rfl, .inl (by decide +kernel), by decide +kernel⟩
theorem names5 : NamesTensor (mc regs pth) 5 (tiny 0x06 1 0x2000) (start 5) := ⟨rfl, .inl (by decide +kernel), by decide +kernel⟩
theorem names6 : NamesTensor (mc regs pth) 6 (tiny 0x0C 0 0x2000) (start 6) := ⟨rfl, .inl (by decide +kernel), by decide +kernel⟩

theorem quarter0 : QuarterIn 0xF#32 0 := ⟨by decide, 0, by decide, by decide⟩
theorem only_quarter0 (q : Nat) (h : QuarterIn 0xF#32 q) : q = 0 := by
  obtain ⟨hq, l, hl, hb⟩ := h
  have : ∀ q, q < 4 → q ≠ 0 → ∀ l, l < 8 → (0xF#32 : LaneMask).getLsbD (8 * q + l) = false := by decide
  rcases Nat.eq_zero_or_pos q with h0 | h0
  · exact h0
  · rw [this q hq (Nat.ne_of_gt h0) l hl] at hb
    exact absurd hb (by decide)

/-- S empty; each field out of its range; an id that is not loaded. -/
theorem meets_MatrixIssue_stops :
    (mc regs pth).txLanes = 0#32 ∧ (mc regs pth).tag = 0 ∧ (mc regs pth).S = 0xF#32 ∧ MIssues (.mzero 0#8) regs guarded ∧ (mc regs guarded).S = 0#32 ∧
    (onPath user mgroup regs pth tensors).ctx? = some (mc regs pth) ∧ mgroup.macros.length = 1 ∧ QuarterIn 0xF#32 0 ∧ mgroup.accTiles = 8 ∧
    (∀ i ∈ [Instr.mbld 1#8 4#8, .mma 8#8 5#8 0#8, .mma 7#8 5#8 1#8, .mzero 8#8, .mwr 8#8 (.v 4) (.k 6), .mdrain 6#8 8#8, .mrd (.v 4) 8#8 (.k 6)],
      operandFault (mc regs pth).mode i = none) ∧
    MIssues (.mrd (.v 4) 7#8 (.k 6)) (naming 8#32) pth ∧ ((mc (naming 8#32) pth).val (.k 6) 0).toNat = 8 ∧
    Issues (.mwr 7#8 (.v 4) (.k 6)) wordType (onPath user mgroup (naming 8#32) pth tensors) (mc (naming 8#32) pth) ∧
    MIssues (.mbld 0#8 9#8) regs pth ∧ (tensors.context 0).tensors.find? 9 = none :=
  ⟨by decide, by decide, by decide, issues_on (by decide), by decide, onPath_ctx .., rfl, quarter0, rfl, by decide,
   issues_on (by decide), by decide, issues_on (by decide), issues_on (by decide), rfl⟩
/-- MBLD of a linear tensor and of a B tensor. -/
theorem meets_MatrixIssue_mbld :
    MIssues (.mbld 0#8 3#8) regs pth ∧ NamesTensor (mc regs pth) 3 (tiny 0x06 0 0x2000) (start 3) ∧ bitField (tiny 0x06 0 0x2000) 10 2 = 0 ∧
    MIssues (.mbld 0#8 4#8) regs pth ∧ NamesTensor (mc regs pth) 4 (tiny 0x06 2 0x2000) (start 4) ∧ bitField (tiny 0x06 2 0x2000) 10 2 = 2 ∧
    bitField (tiny 0x06 2 0x2000) 0 8 ∈ [0x06, 0x07, 0x08, 0x09, 0x0A] ∧
    (∀ va ∈ addrsOf (tileReads (tiny 0x06 2 0x2000) (start 4) 64 0 64), EngineOperand va) :=
  ⟨issues_on (by decide), names3, by decide +kernel, issues_on (by decide), names4, by decide +kernel, by decide +kernel,
   fun va h => .inl ((by decide +kernel : ∀ va ∈ addrsOf (tileReads (tiny 0x06 2 0x2000) (start 4) 64 0 64), regionOf va = .memory) va h)⟩
/-- MMA of a B tensor and of an A tensor. -/
theorem meets_MatrixIssue_mma :
    MIssues (.mma 0#8 4#8 0#8) regs pth ∧ ¬MatrixAccepts false (tiny 0x06 2 0x2000) (start 4) (mgroup.macros.getD 0 {}) regs [0] .int ∧
    MIssues (.mma 0#8 5#8 0#8) regs pth ∧ NamesTensor (mc regs pth) 5 (tiny 0x06 1 0x2000) (start 5) ∧
    MatrixAccepts false (tiny 0x06 1 0x2000) (start 5) (mgroup.macros.getD 0 {}) regs [0] .int ∧
    (∀ t, t ∈ [0] ↔ ∃ q, QuarterIn 0xF#32 q ∧ t = (0#8 : Selector).toNat + q) ∧ (∀ q, QuarterIn 0xF#32 q → 0 + q < mgroup.accTiles) ∧
    (∀ q, QuarterIn 0xF#32 q → ∀ va ∈ addrsOf (tileReads (tiny 0x06 1 0x2000) (start 5) 64 (8 * q) 8), EngineOperand va) :=
  ⟨issues_on (by decide), fun h => absurd h.1 (by decide +kernel), issues_on (by decide), names5,
   ⟨by decide +kernel, by decide +kernel, by decide, by decide, rfl, by decide +kernel, rfl, rfl, fun t _ => .inl (by rfl)⟩,
   fun t => ⟨fun h => ⟨0, quarter0, by simpa using h⟩, fun ⟨q, hq, h⟩ => by rw [only_quarter0 q hq] at h; simpa using h⟩,
   fun q hq => by rw [only_quarter0 q hq]; decide,
   fun q hq va h => by
    rw [only_quarter0 q hq] at h
    exact .inl ((by decide +kernel : ∀ va ∈ addrsOf (tileReads (tiny 0x06 1 0x2000) (start 5) 64 (8 * 0) 8), regionOf va = .memory) va h)⟩
def batches (n : Nat) : Wave := { regs with counts := [(1, n)] }
/-- MBATCH at 63 and below, MZERO, a drain to a blocked tensor and to a linear one, MRD and MWR of a tile with work left and without. -/
def working : Wave := { regs with matOps := [{ id := 1, kind := .zero, tile := 7, mode := modeStart, lanes := 0xF#32, ctx := 0, tag := 0 }] }
theorem meets_MatrixIssue_tiles :
    MIssues .mbatch (batches 63) pth ∧ Tab.get 0 (mc (batches 63) pth).w.counts 1 = 63 ∧ MIssues .mbatch (batches 62) pth ∧ MIssues (.mzero 7#8) regs pth ∧
    MIssues (.mdrain 5#8 7#8) regs pth ∧ bitField (tiny 0x06 1 0x2000) 10 2 ≠ 0 ∧
    MIssues (.mdraina 6#8 7#8) regs pth ∧ NamesTensor (mc regs pth) 6 (tiny 0x0C 0 0x2000) (start 6) ∧
    (bitField (tiny 0x0C 0 0x2000) 10 2 = 0 ∧ bitField (tiny 0x0C 0 0x2000) 0 8 ∈ [0x01, 0x02, 0x03, 0x0C]) ∧
    (∀ e ∈ drainElems (tiny 0x0C 0 0x2000) (start 6), ∀ va ∈ e.2.addrs, EngineOperand va) ∧
    MIssues (.mrd (.v 4) 7#8 (.k 6)) working pth ∧ (∃ o ∈ (mc working pth).w.matOps, 7 ∈ o.tiles) ∧ MIssues (.mrd (.v 4) 7#8 (.k 6)) regs pth ∧
    Issues (.mwr 7#8 (.v 2) (.k 6)) wordType (onPath user mgroup working pth tensors) (mc working pth) ∧
    Issues (.mwr 7#8 (.v 2) (.k 6)) wordType (onPath user mgroup regs pth tensors) (mc regs pth) :=
  ⟨issues_on (by decide), by decide, issues_on (by decide), issues_on (by decide), issues_on (by decide), by decide +kernel, issues_on (by decide), names6,
   by decide +kernel,
   fun e he va h => .inl ((by decide +kernel : ∀ e ∈ drainElems (tiny 0x0C 0 0x2000) (start 6), ∀ va ∈ e.2.addrs, regionOf va = .memory) e he va h),
   issues_on (by decide), ⟨_, List.mem_cons_self .., by decide⟩, issues_on (by decide), issues_on (by decide), issues_on (by decide)⟩

/-- A wave's oldest matrix operation, over tensors in the scratchpad; granule 0 is valid. -/
def mop (kind : MatKind) (r : TRecord) : MatOp :=
  { id := 5, kind := kind, record := r, cursor := start 5, mode := modeStart, lanes := 0xF#32, ctx := 0, tag := 0, tileKind := .int }
def engaged (o : MatOp) (g : Group) : State := { State.reset with groups := [(user, { g with waves := [{ regs with matOps := [o] }] })] }
def store16 (s : State) : State := { s with posted := [{ id := 1, g := user, w := 0, core := 1, tag := 0, bytes := [(0x2000, 1#8)] }] }
def scratchA : TRecord := tiny 0x06 1 0xFF80000000000000
def ready : Group := { mgroup with granules := [(0, 1)] }
theorem meets_MatrixSteps :
    (let s := engaged (mop .zero scratchA) ready
     s.groups.find? user = some { ready with waves := [{ regs with matOps := [mop .zero scratchA] }] } ∧ s.refused = [] ∧
     s.earlierDone user 0 5 = true ∧ (store16 s).earlierDone user 0 5 = false) ∧
    ({ ready with macros := [{}] }.macros.getD 0 {}).filled = false ∧
    (ready.macros.getD 0 {}).filled = true ∧ (ready.macros.getD 0 {}).thin = false ∧ (ready.macros.getD 0 {}).scaled = false ∧
    (ready.macros.getD 0 {}).held ≤ State.reset.clk ∧ ({ ready with macros := [{ filled := true, held := 9 }] }.macros.getD 0 {}).held > State.reset.clk ∧
    bitField scratchA 0 8 = 0x06 ∧ bitField scratchA 10 2 = 1 ∧ bitField scratchA 8 2 = 3 ∧
    (∀ va ∈ addrsOf (tileReads scratchA (start 5) 64 (8 * 0) 8), (match regionOf va with | .aperture .scratch off => decide (off < 1024) | _ => false) = true) := by
  refine ⟨⟨rfl, rfl, by decide, by decide⟩, ?_⟩
  decide +kernel
/-- The integer 0 and the integer -3 as a macro holds them. -/
theorem meets_MatrixSteps_residues : HoldsResidues (2 ^ 30) 0 ∧ HoldsResidues (1020 + 1021 * 2 ^ 10 + 1021 * 2 ^ 20) (-3) := by
  unfold HoldsResidues; decide
def scratchD : TRecord := tiny 0x0C 0 0xFF80000000000000
def drainOp : MatOp := { mop .drain scratchD with started := true, left := [0xFF8000000000000] }
theorem meets_MatrixSteps_drain :
    (engaged drainOp ready).groups.find? user ≠ none ∧ drainOp.started = true ∧ drainOp.left = [0xFF8000000000000] ∧ drainOp.error = false ∧
    (∀ x ∈ cellsOf (drainCells drainOp {}) 0xFF8000000000000, ∀ a ∈ x.at_.addrs,
      (match regionOf a with | .aperture .scratch off => decide (off < 1024) | _ => false) = true) ∧
    (unitBytes 0 (fun _ => 0#8) (cellsOf (drainCells drainOp {}) 0xFF8000000000000) 0xFF8000000000000).length ≠ 0 ∧
    regionOf (16 * 0xFF8000000000000) = .aperture .scratch 0 ∧ granuleValid ready 0 = true ∧
    drainOp.tileKind = .int ∧ bitField scratchD 0 8 = 0x0C ∧ bitField scratchD 10 2 = 0 ∧ bitField scratchD 8 2 = 3 := by decide +kernel
def scratchB : TRecord := tiny 0x06 2 0xFF80000000000000
theorem meets_MatrixSteps_load :
    (engaged (mop .load scratchB) ready).groups.find? user ≠ none ∧ (engaged (mop .load scratchB) ready).earlierDone user 0 5 = true ∧
    (mop .load scratchB).mac = 0 ∧ (mop .load scratchB).ends = none ∧ 0 < ready.macros.length ∧ bitField scratchB 0 8 = 0x06 ∧ bitField scratchB 10 2 = 2 ∧ bitField scratchB 8 2 = 3 ∧
    (∀ va ∈ addrsOf (tileReads scratchB (start 5) 64 0 64), (match regionOf va with | .aperture .scratch off => decide (off < 1024) | _ => false) = true) := by
  decide +kernel
/-- The tile's load is filled: before and after its 64 clk. -/
theorem meets_MatrixSteps_held :
    (let o := { mop .load scratchB with ends := some 64 }; (engaged o ready).groups.find? user ≠ none ∧ (engaged o ready).earlierDone user 0 5 = true ∧
      o.error = false ∧ State.reset.clk < 64) ∧
    (let o := { mop .load scratchB with ends := some 0 }; (engaged o ready).earlierDone user 0 5 = true ∧ 0 ≤ State.reset.clk) := by decide +kernel
/-- A batch with an operation left, with a replica of one that lags, and without. -/
theorem meets_MatrixSteps_batch :
    (let w : Wave := { regs with matOps := [mop .zero scratchA], matBatches := [5] }; w.matBatches = 5 :: [] ∧ ∃ o ∈ w.matOps, o.id ≤ 5) ∧
    (let w : Wave := { regs with matOps := [mop .zero scratchA], matBatches := [4] }; w.matBatches = 4 :: [] ∧ (∀ o ∈ w.matOps, 4 < o.id) ∧ State.reset.lags = []) ∧
    (∃ r ∈ [({ id := 3, g := user, w := 0 + 64, die := 1, place := 0x2000, old := 0#8 } : ReplicaLag)], r.g = user ∧ r.w = 0 + 64 ∧ r.id ≤ 4) := by decide
/-- A core whose passes are capped at 50 % has had them for 32 clk of the window, or for none (R446). -/
theorem meets_MatrixSteps_capped :
    (let s := { State.reset with power := [(0, { matrixCap := 50 })], matrix := [(1, { window := 0, clks := 32, last := 0 })] }; s.passHeld (user / 16) = true) ∧
    State.passHeld { State.reset with power := [(0, { matrixCap := 50 })] } (user / 16) = false ∧
    (State.reset.power.find? (user / 384)).all (fun p => p.matrixCap == 100) = true := by decide +kernel

/-! ## Witnesses: row 0xC -/

/-- Tensor 2 is a structure of one triangle, 7 a texture of one texel, 3 a linear f32. -/
def bvhRec : TRecord := BitVec.ofNat 512 (0x10 + 3 * 2 ^ 8 + 0xFF80000000000080 * 2 ^ 32 + 0xFF80000000000000 * 2 ^ 96 + 2 ^ 160 + 2 ^ 192 + 2 ^ 224 + 2 ^ 256)
def texRec : TRecord := BitVec.ofNat 512 (0x15 + 3 * 2 ^ 8 + 0xFF80000000000080 * 2 ^ 96 + 2 ^ 160 + 2 ^ 192 + 2 ^ 224 + 2 ^ 256)
def lanesState : State := { State.reset with contexts := [(0, { tensors := [(2, bvhRec), (7, texRec), (3, rec 0x2000 0)] })] }
abbrev lc (w : Wave) (p : Path) : Ctx := uc w p lanesState
abbrev LIssues (i : Instr) (w : Wave) (p : Path) : Prop := UserIssues i w p lanesState
def asked (n : Nat) : Wave := { regs with counts := [(2, n), (3, n)] }
theorem meets_LaneUnits_issue :
    laneForm (.rayq (.v 8) (.v 0) 2#8) = some (0, 8, 2, [0x10], .v 8, .v 0, 2#8) ∧ (lc regs pth).txLanes = 0#32 ∧
    LIssues (.rayq (.v 8) (.v 0) 2#8) regs guarded ∧ (lc regs guarded).S = 0#32 ∧ (lc regs pth).S ≠ 0#32 ∧
    LIssues (.rayqa (.v 8) (.v 0) 9#8) regs pth ∧ ((lc regs pth).s.context 0).tensors.find? 9 = none ∧
    LIssues (.tex (.v 8) (.v 0) 3#8) regs pth ∧ ((lc regs pth).s.context 0).tensors.find? 3 = some (rec 0x2000 0) ∧ bitField (rec 0x2000 0) 0 8 = 0x01 ∧
    LIssues (.texg (.v 8) (.v 0) 7#8) (asked 63) pth ∧ Tab.get 0 (lc (asked 63) pth).w.counts 3 = 63 ∧ bitField texRec 0 8 = 0x15 ∧
    LIssues (.texl (.v 8) (.v 0) 7#8) (asked 62) pth ∧ (lc (asked 62) pth).p.wait ≠ .engine :=
  ⟨rfl, by decide, issues_on (by decide), by decide, by decide, issues_on (by decide), rfl, issues_on (by decide), rfl, by decide +kernel,
   issues_on (by decide), by decide, by decide +kernel, issues_on (by decide), by decide⟩

/-- A ray from (¼, ¼, 0) along z in lane 0 and its unit triangle at z = 1; a texture whose texel holds 1.0. -/
def laneOp (kind : Nat) (r : TRecord) (args : List Nat) : LaneOp :=
  { id := 5, g := user, w := 0, kind := kind, dest := 8, lanes := 1#32, args := Tab.putAll 0#32 [] (((List.range 8).zip args).map fun x => (x.1, BitVec.ofNat 32 x.2)),
    record := r, mode := modeStart, ctx := 0, tag := 0 }
def aRay : LaneOp := laneOp 0 bvhRec [0x3E800000, 0x3E800000, 0, 0, 0, 0x3F800000, 0, 0x7F800000]
def deadRay : LaneOp := laneOp 1 bvhRec [0x7FC00000]
def aTap : LaneOp := laneOp 2 texRec [0, 0, 0, 0]
def corners : List Nat := [0, 0, 0x3F800000, 0x3F800000, 0, 0x3F800000, 0, 0x3F800000, 0x3F800000]
def lanesBusy (o : LaneOp) (earlier : List LaneOp) : State :=
  { State.reset with
    laneOps := earlier ++ [o]
    groups := [(user, { grp with granules := [(0, 1), (1, 1)], scratch := Tab.putAll 0#8 [] (placed 0 ((corners ++ [9]).flatMap fun x => natBytes 4 x) ++
                 placed 128 (natBytes 8 0xFF80000000000090) ++ placed 0x90 (natBytes 4 0x3F800000)), waves := [{ regs with counts := [(2, 1), (3, 1)], scoreboard := [⟨5, [.v 8, .v 9, .v 10, .v 11], 1#32, []⟩] }] })] }
/-- A read that came to an answer, as a computation. -/
def got {α : Type} [DecidableEq α] (x : Fetch α) (a : α) : Bool := match x with | .ok y => y == a | _ => false
def failed {α : Type} (x : Fetch α) : Bool := match x with | .fails => true | _ => false
theorem of_got {α : Type} [DecidableEq α] {x : Fetch α} {a : α} (h : got x a = true) : x = .ok a := by
  unfold got at h
  split at h
  · rw [eq_of_beq h]
  · exact absurd h (by decide)
theorem of_failed {α : Type} {x : Fetch α} (h : failed x = true) : x = .fails := by
  unfold failed at h
  split at h
  · rfl
  · exact absurd h (by decide)
theorem meets_LaneUnits_complete :
    (let s := lanesBusy deadRay []
     (s.laneOps.find? fun x => x.id == deadRay.id) = some deadRay ∧ s.groups.find? user ≠ none ∧ s.refused = [] ∧ s.earlierDone user 0 5 = true ∧
     ((s.groups.find? user).bind fun g => g.waves[0]?).any (fun w => w.scoreboard.any fun x => x.id == 5) = true ∧
     (∀ x ∈ s.laneOps, x.g = user → x.w = 0 → x.id < 5 → ¬(x.kind ≤ 1 ↔ deadRay.kind ≤ 1))) ∧
    ¬(∀ x ∈ (lanesBusy aTap [{ aTap with id := 4 }]).laneOps, x.g = user → x.w = 0 → x.id < 5 → ¬(x.kind ≤ 1 ↔ aTap.kind ≤ 1)) := by decide +kernel
theorem meets_LaneUnits_answers :
    LaneAnswer (lanesBusy deadRay []) deadRay 0 (some [0x7F800000#32, 0xFFFFFFFF#32, 0#32, 0#32]) ∧
    LaneAnswer (lanesBusy aRay []) { aRay with record := BitVec.ofNat 512 (0x10 + 2 ^ 92 + 2 ^ 160) } 0 none ∧
    LaneAnswer (lanesBusy aTap []) aTap 0 (some [0x3F800000#32, 0#32, 0#32, 0x3F800000#32]) :=
  ⟨.inr (.inl ⟨of_got (by decide +kernel), rfl⟩), .inl ⟨of_failed (by decide +kernel), rfl⟩, .inr ⟨_, of_got (by decide +kernel), rfl⟩⟩
/-- The ray's hit, t = 1, u = v = ¼, alone and as the leaf's. -/
theorem meets_LaneUnits_values :
    (aRay.ray 0).triangle corners 9 = some ⟨0x3F800000, 9, 0x3E800000, 0x3E800000⟩ ∧
    (lanesBusy aRay []).leaf aRay (aRay.ray 0) false none [0] = .ok (some ⟨0x3F800000, 9, 0x3E800000, 0x3E800000⟩) ∧
    fmtF32.value false (Tab.get 0#32 deadRay.args 0).toNat = .nan :=
  ⟨by decide +kernel, of_got (by decide +kernel), by decide +kernel⟩

/-! ## Witnesses: row 0xD -/

abbrev FirmIssues (i : Instr) (w : Wave) (p : Path) (s : State) : Prop := Issues i anyType (onPath firm grp w p s) (ctxOn firm grp w p s)
abbrev fc (w : Wave) (p : Path) (s : State) : Ctx := ctxOn firm grp w p s
def busyFirm : State := { State.reset with posted := [{ id := 1, g := firm, w := 0, core := 0, tag := 0, bytes := [(0x2000, 1#8)] }], serial := 1 }

theorem noTx {c : Ctx} (h : c.w.tx = none) (hg : c.tag = 0) : Alone c := ⟨by simp [Ctx.txLanes, Ctx.memberLanes, h], .inl hg⟩

theorem meets_SpecialRegisters :
    UserIssues (.rdtime (.k 4)) regs pth .reset ∧ UserIssues (.rdsr (.k 4) 0x01#8) regs pth .reset ∧ specialOf (uc regs pth .reset) 0x01 = some (1, 0) ∧
    FirmIssues (.rdsr (.k 4) 0x41#8) regs pth .reset ∧ specialOf (fc regs pth .reset) 0x41 = some (2, 0) ∧
    FirmIssues (.rdsr (.k 4) 0x4A#8) regs pth .reset ∧ (∀ k, k < 4 → ((fc regs pth .reset).s.die k).link < 4) ∧
    UserIssues (.wrsr (.k 4) 0x02#8) regs pth .reset ∧ Alone (fc regs pth .reset) ∧
    FirmIssues (.wrsr (.k 4) 0x41#8) regs pth busyFirm ∧ (fc regs pth busyFirm).settled = false ∧ (fc regs pth busyFirm).p.wait ∉ [Wait.engine, .front] ∧
    (∀ b ∈ [0x40#8, 0x41#8, 0x42#8, 0x43#8, 0x45#8, 0x48#8, 0x49#8, 0x4B#8], checks (.wrsr (.k 4) b) anyType (fc regs pth .reset) = true) ∧
    (fc regs pth .reset).settled = true ∧ maskDie (fc regs pth .reset) 0x40#8 = some 0 ∧ maskDie (fc regs pth .reset) 0x45#8 = some 0 ∧
    maskDie (fc regs pth .reset) 0x48#8 = some 3 :=
  ⟨issues_on (by decide), issues_on (by decide), by decide, issues_on (by decide), by decide +kernel, issues_on (by decide), by decide +kernel,
   issues_on (by decide), noTx rfl rfl, issues_on (by decide), by decide, by decide, by decide +kernel, by decide, by decide, by decide, by decide⟩

/-- k4 is a handle, k6 and k7 an address. -/
def handle (h a b : Word) : Wave := { regs with k := [(4, h), (6, a), (7, b)] }
/-- A group at handle 0x80, which runs or is halted. -/
def beside (halted : Bool) : State :=
  { State.reset with groups := [(user, { grp with halted := halted, waves := [{ regs with slotA := some pth }] })] }
/-- The firmware wave's own stores are under way, issued while its path waits. -/
def storing : State := { beside true with posted := busyFirm.posted, serial := 1 }
theorem legal80 : HandleLegal 0x80#32 := by unfold HandleLegal; decide
theorem not_legal0 : ¬HandleLegal 0#32 := by unfold HandleLegal; decide
theorem meets_SystemOperations :
    Alone (fc regs pth .reset) ∧ FirmIssues (.irq 9#8) regs pth busyFirm ∧ (fc regs pth busyFirm).settled = false ∧
    FirmIssues .park regs pth .reset ∧ ((fc regs pth .reset).s.die 0).event = false ∧
    (let s := { State.reset with dies := [(0, { event := true })] }; FirmIssues .park regs pth s ∧ ((fc regs pth s).s.die 0).event = true) ∧
    FirmIssues (.irq 9#8) regs pth .reset ∧ (fc regs pth .reset).settled = true ∧
    FirmIssues (.tlbinv (.k 6) (.k 4)) (handle 11#32 0#32 0#32) pth .reset ∧ ((fc (handle 11#32 0#32 0#32) pth .reset).val (.k 4) 0).toNat % 2 ^ 6 = 11 ∧
    FirmIssues (.tlbinv (.k 6) (.k 4)) (handle 57#32 0#32 0x1000000#32) pth .reset ∧
    canonical ((fc (handle 57#32 0#32 0x1000000#32) pth .reset).val64 (.k 6) 0).toNat = false ∧
    FirmIssues (.tlbinv (.k 6) (.k 4)) (handle 12#32 0x2000#32 0#32) pth .reset ∧
    canonical ((fc (handle 12#32 0x2000#32 0#32) pth .reset).val64 (.k 6) 0).toNat = true ∧ (fc regs pth .reset).s.guestDirty = [] :=
  ⟨noTx rfl rfl, issues_on (by decide), by decide, issues_on (by decide), by decide +kernel, ⟨issues_on (by decide), by decide⟩, issues_on (by decide), by decide,
   issues_on (by decide), by decide, issues_on (by decide), by decide, issues_on (by decide), by decide, rfl⟩
theorem meets_SystemOperations_groups :
    FirmIssues (.haltg (.k 8) (.k 4)) (handle 0#32 0#32 0#32) pth .reset ∧ ¬HandleLegal ((fc (handle 0#32 0#32 0#32) pth .reset).val (.k 4) 0) ∧
    HandleLegal ((fc (handle 0x80#32 0#32 0#32) pth .reset).val (.k 4) 0) ∧ keyOf 0x80#32 = user ∧
    FirmIssues (.haltg (.k 8) (.k 4)) (handle 0x80#32 0#32 0#32) pth .reset ∧ (fc (handle 0x80#32 0#32 0#32) pth .reset).s.groups.find? user = none ∧
    (∀ i ∈ [Instr.haltg (.k 8) (.k 4), .resumeg (.k 8) (.k 4), .gsave (.k 8) (.k 4) (.k 6)], ∀ h, checks i anyType (fc (handle 0x80#32 0#32 0#32) pth (beside h)) = true) ∧
    (fc (handle 0x80#32 0#32 0#32) pth (beside true)).s.groups.find? user = some { grp with halted := true, waves := [{ regs with slotA := some pth }] } ∧
    (fc (handle 0x80#32 0#32 0#32) pth (beside false)).s.groups.find? user = some { grp with halted := false, waves := [{ regs with slotA := some pth }] } ∧
    FirmIssues (.gsave (.k 8) (.k 4) (.k 6)) (handle 0x80#32 0x80#32 0#32) pth (beside true) ∧
    FirmIssues (.gload (.k 8) (.k 4) (.k 6)) (handle 0x80#32 0x80#32 0#32) pth .reset ∧
    (fc (handle 0x80#32 0#32 0#32) pth (beside true)).settled = true ∧ (fc (handle 0x80#32 0#32 0#32) pth (beside true)).s.groupQuiet user = true ∧
    checks (.gsave (.k 8) (.k 4) (.k 6)) anyType (fc (handle 0x80#32 0#32 0#32) { pth with wait := .front } (beside true)) = true ∧
    (fc (handle 0x80#32 0#32 0#32) { pth with wait := .front } (beside true)).settled = true ∧ (beside true).quiet firm 0 = true ∧
    checks (.gsave (.k 8) (.k 4) (.k 6)) anyType (fc (handle 0x80#32 0#32 0#32) { pth with wait := .front } storing) = true ∧
    (fc (handle 0x80#32 0#32 0#32) { pth with wait := .front } storing).settled = true ∧ storing.quiet firm 0 = false :=
  ⟨issues_on (by decide), not_legal0, legal80, by decide, issues_on (by decide), rfl, by decide, rfl, rfl, issues_on (by decide), issues_on (by decide),
   by decide, by decide, by decide, by decide, by decide, by decide, by decide, by decide⟩
/-- GSAVE's image at 0x4000 under the identity of ASID 0: every byte below 2^20 is storage. -/
theorem low_storage {c : Ctx} (hc : c.g.ctx = 0) (hf : c.s.faults = []) (ht : c.s.tlb = []) (ho : c.s.ownCard = 0) (va : Nat) (h : va < 2 ^ 20) :
    Storage c 1 va ⟨va / 4096 * 4096, 12, true, true, false, 0⟩ := by
  have hr (a : Nat) (ha : a < 2 ^ 20) : c.s.reach a = .gddr 0 a := by
    have h1 : bitsOf a 43 8 = 0 := by simp only [bitsOf]; omega
    have h2 : bitsOf a 41 2 = 0 := by simp only [bitsOf]; omega
    have h3 : a % 2 ^ 41 = a := by omega
    have h4 : a < Config.cardBytes := Nat.lt_trans ha (by decide)
    have h5 : ¬2 ^ 52 ≤ a ∧ ¬2 ^ 51 ≤ a := by omega
    simp only [State.reach, h1, h2, h3, h4, h5.1, h5.2, ho, if_true, if_false, ne_eq, not_true]
    simp
  have hpa : va / 4096 * 4096 < 2 ^ 20 := by omega
  refine ⟨Nat.mod_one _, ?_, ?_, .inl ⟨0, va, ?_, ?_⟩⟩
  · have h2 : bitOf va 56 = false := by
      have : bitsOf va 56 1 = 0 := by simp only [bitsOf]; omega
      simp [bitOf, this]
    have h1 : canonical va = true := by
      have : bitsOf va 57 7 = 0 := by simp only [bitsOf]; omega
      simp [canonical, this, h2]
    simp [regionOf, h1, h2]
  · simp [State.fill, hf, State.translate, ht, hc, State.walk, hr _ hpa]
  · have : va / 4096 * 4096 / 4096 * 4096 + va % 2 ^ 12 = va := by omega
    simp only [Translation.pa, this]; exact hr va h
  · exact .inl ho.symm
theorem meets_SystemOperations_image (k : Nat) (h : k < 200000) :
    Storage (fc (handle 0x80#32 0x4000#32 0#32) pth (beside true)) 1 (0x4000 + k) ⟨(0x4000 + k) / 4096 * 4096, 12, true, true, false, 0⟩ :=
  low_storage rfl rfl rfl rfl _ (by omega)
/-- An image of 256 bytes at 0x4000, and one whose size is 0. -/
def imaged : State := { beside true with mem := Tab.putAll 0#8 [] (placed 0x4028 (natBytes 8 256)) }
theorem meets_SystemOperations_load (k : Nat) (h : k < 256) :
    let c := fc (handle 0x80#32 0x4000#32 0#32) pth imaged
    Storage c 1 (0x4000 + k) ⟨(0x4000 + k) / 4096 * 4096, 12, true, true, false, 0⟩ ∧
      capBlocks (c.s.line (lineOf (memPlace 0 (0x4000 + k)))) c.gk c.wi = false :=
  ⟨low_storage rfl rfl rfl rfl _ (by omega), rfl⟩
theorem meets_SystemOperations_size :
    bytesNat ((List.range 8).map fun j => (fc (handle 0x80#32 0x4000#32 0#32) pth imaged).memByte (memPlace 0 (0x4000 + 40 + j))) = 256 ∧
    bytesNat ((List.range 8).map fun j => (fc (handle 0x80#32 0x4000#32 0#32) pth (beside true)).memByte (memPlace 0 (0x4000 + 40 + j))) = 0 := by
  decide +kernel
/-- A group that can be halted, and a halted one whose frame says where it goes on. -/
def restingGroup : Group := { grp with waves := [{ regs with slotA := some pth }] }
theorem meets_SystemOperations_halting :
    (beside false).groups.find? user = some restingGroup ∧ restingGroup.tag < 16 ∧ bitsOf ((beside false).context 0).traceCfg.toNat 0 5 < 12 ∧
    (∀ w ∈ restingGroup.waves, w.handler = none ∧ w.tx = none) ∧ restingGroup.waves[0]? = some { regs with slotA := some pth } ∧
    (match ((beside false).haltGroup user 1 none).groups.find? user with
     | some g => g.waves.all fun w => w.handler.isNone && w.unplaced.isNone && w.live != 0#32 && (w.slot (savedField w 0 179 1 = 1)).isSome &&
         savedField w 0 187 1 == 0 && savedField w 0 160 8 == 0x42
     | none => false) = true :=
  ⟨rfl, by decide, by decide, by decide, rfl, by decide +kernel⟩

/-- Other dies up, quiesced, in reset, training, with bypass; the own die; a user group on the die; a home that is not ready. -/
def dieAt (x : Die) : State := { State.reset with dies := [(1, x)] }
theorem meets_DieMaintenance :
    (∀ i ∈ [Instr.linkq (.k 4) 1#8, .linkup (.k 4) 1#8, .dierst (.k 4) 1#8, .flushd (.k 4) 1#8, .homebyp (.k 4) 1#8 0#8, .homebyp (.k 4) 1#8 1#8, .linkq (.k 4) 0#8],
      ∀ x ∈ [{}, { link := 1 }, { link := 2 }, { link := 3 }, { ready := true }, { bypass := true, ready := true }],
        checks i anyType (fc regs pth (dieAt x)) = true ∧ (fc regs pth (dieAt x)).settled = true ∧ (fc regs pth (dieAt x)).s.die 1 = x) ∧
    (fc regs pth .reset).die = 0 ∧ Alone (fc regs pth .reset) ∧ FirmIssues (.linkq (.k 4) 1#8) regs pth busyFirm ∧ (fc regs pth busyFirm).settled = false ∧
    FirmIssues (.linkup (.k 4) 1#8) regs { pth with wait := .engine } (dieAt { link := 3 }) ∧
    (fc regs pth .reset).s.userOn 1 = false ∧ (State.userOn { State.reset with groups := [(400, restingGroup)] } 1) = true ∧
    FirmIssues (.flushd (.k 4) 1#8) regs pth { State.reset with groups := [(400, restingGroup)] } :=
  ⟨by decide +kernel, by decide, noTx rfl rfl, issues_on (by decide), by decide, issues_on (by decide), by decide +kernel, by decide +kernel, issues_on (by decide)⟩
/-- LINKQ while a write of another group crosses the link, within the 2,000 clk and after them; HOMEBYP while a lease of die 1's lines runs,
and when none does; a handle whose group has retired. -/
def crossing (x : Die) : State := { dieAt x with posted := [{ id := 1, g := user, w := 0, core := 1, tag := 0, bytes := [(0x2080, 1#8)] }], serial := 1 }
def leasedHome : State := { dieAt { ready := true } with leases := [(65 * 128 + 1, 9)] }
theorem meets_DieMaintenance_closing :
    FirmIssues (.linkq (.k 4) 1#8) regs pth (crossing {}) ∧ (fc regs pth (crossing {})).settled = true ∧ (crossing {}).onLink 1 (crossing {}).serial = true ∧
    (crossing {}).clk < (crossing {}).clk + 2000 ∧ FirmIssues (.linkq (.k 4) 1#8) regs { pth with wait := .engine } (crossing { closing := some (1, 0) }) ∧
    (fc regs { pth with wait := .engine } (crossing { closing := some (1, 0) })).settled = true ∧ 0 ≤ (crossing { closing := some (1, 0) }).clk ∧
    (dieAt {}).onLink 1 (dieAt {}).serial = false ∧
    FirmIssues (.homebyp (.k 4) 1#8 1#8) regs pth leasedHome ∧ (fc regs pth leasedHome).settled = true ∧ (leasedHome.recallHome 1).homeLeased 1 = true ∧
    ((dieAt { ready := true }).recallHome 1).homeLeased 1 = false ∧ (dieAt { ready := true }).guestDirty = [] :=
  ⟨issues_on (by decide), by decide, by decide +kernel, by decide, issues_on (by decide), by decide, by decide, by decide, issues_on (by decide), by decide,
   by decide +kernel, by decide +kernel, rfl⟩
theorem meets_SystemOperations_retired :
    let s := { State.reset with groups := [(user, { grp with retired := true })] }
    FirmIssues (.haltg (.k 8) (.k 4)) (handle 0x80#32 0#32 0#32) pth s ∧ s.groups.find? (keyOf 0x80#32) = some { grp with retired := true } :=
  ⟨issues_on (by decide), rfl⟩

/-! ## Witnesses: steps of the home and of the outside -/

/-- Line 65 as l; a posted write of its first byte. -/
def lineAt (l : Line) : State := { State.reset with lines := [(65, l)] }
def write1 : PostedWrite := { id := 1, g := user, w := 0, core := 1, tag := 0, bytes := [(0x2080, 7#8)] }
def posting (ps : List PostedWrite) (l : Line) : State := { lineAt l with posted := ps }
theorem in_turn (_ : Line) (s : State) (h : s.posted = [write1]) (hr : s.reach 0x2080 = .gddr s.ownCard 0x2080) : InTurn s write1 65 where
  known := by rw [h]; rfl
  bytes := by decide
  own := by intro x hx; rw [List.mem_singleton.1 hx]; exact ⟨_, hr⟩
  plain := ⟨rfl, rfl⟩
  first := by rw [h]; exact fun _ hx => (nomatch hx)
  replicas := nofun
theorem line_free (s : State) (l : Line) (hs : s = posting [write1] l) (h : l.cap = none ∧ l.exp = 0 ∧ l.owner = none ∧ l.guests = [] ∧ l.shared = false) :
    LineFree s 65 (partyDie user) ∧ LineFree s 65 4 := by
  subst hs
  have hl : (posting [write1] l).line 65 = l := rfl
  unfold LineFree
  rw [hl]
  exact ⟨⟨h.1, Nat.le_of_eq h.2.1, h.2.2.1, h.2.2.2.1, h.2.2.2.2, rfl, rfl⟩, h.1, Nat.le_of_eq h.2.1, h.2.2.1, h.2.2.2.1, h.2.2.2.2, rfl, rfl⟩
theorem meets_HomeWrites :
    (let s := posting [write1, { write1 with id := 2 }] {}
     (s.posted.find? fun x => x.id == 2) = some { write1 with id := 2 } ∧ write1 ∈ s.posted.takeWhile fun x => x.id ≠ 2) ∧
    InTurn (posting [write1] {}) write1 65 ∧ (posting [write1] {}).softLine 65 = false ∧ LineFree (posting [write1] {}) 65 (partyDie write1.g) ∧
    (posting [write1] {}).queueOf 65 = [] ∧ InTurn (posting [write1] { exp := 1 }) write1 65 ∧
    (posting [write1] { exp := 1 }).clk < ((posting [write1] { exp := 1 }).line 65).exp ∧
    InTurn { posting [write1] {} with softRegions := [0] } write1 65 ∧ State.softLine { posting [write1] {} with softRegions := [0] } 65 = true ∧
    partyDie write1.g < 4 ∧ 65 % 4 ≠ partyDie write1.g :=
  ⟨by decide, in_turn {} _ rfl (by decide +kernel), by decide, (line_free _ {} rfl (by decide)).1, rfl, in_turn {} _ rfl (by decide +kernel), by decide,
   in_turn {} _ rfl (by decide +kernel), by decide, by decide, by decide⟩
/-- WBL's and DROPL's write-backs of line 65. -/
def back1 (drop : Bool) : PostedWrite := { write1 with bytes := [], back := some (65, drop) }
theorem meets_HomeWrites_back (drop : Bool) :
    let s := posting [back1 drop] {}
    (s.posted.find? fun x => x.id == 1) = some (back1 drop) ∧ (back1 drop).bytes = [] ∧ (back1 drop).back = some (65, drop) ∧ TrunkLine 65 ∧
      s.reach (65 * 128) = .gddr s.ownCard 0x2080 ∧ (back1 drop).ordered = false ∧ (s.posted.takeWhile fun x => x.id ≠ 1) = [] ∧ s.guestDirty = [] :=
  ⟨rfl, rfl, rfl, by unfold TrunkLine; decide, by decide +revert +kernel, rfl, rfl, rfl⟩
def wanted (l : Line) : State := { lineAt { l with waiting := [.cap user 0 100] } with groups := [(user, { grp with waves := [{ regs with cap0 := .asked 0x2080 65 }] })] }
theorem meets_HomeWrites_cap :
    TrunkLine 65 ∧ (wanted {}).queueOf 65 = [.cap user 0 100] ∧ LineFree (wanted {}) 65 (partyDie user) ∧
    ((wanted { owner := some 3 }).line 65).owner ≠ none ∧ (wanted {}).groups.find? user = some { grp with waves := [{ regs with cap0 := .asked 0x2080 65 }] } ∧
    ((lineAt { cap := some ⟨user, 0, 1⟩ }).line 65).cap = some ⟨user, 0, 1⟩ ∧ (lineAt { cap := some ⟨user, 0, 1⟩ }).clk < 1 ∧
    ((lineAt { cap := some ⟨user, 0, 0⟩ }).line 65).cap = some ⟨user, 0, 0⟩ ∧ 0 ≤ (lineAt { cap := some ⟨user, 0, 0⟩ }).clk :=
  ⟨by unfold TrunkLine; decide, rfl, by unfold LineFree; decide, by decide, rfl, rfl, by decide, rfl, by decide⟩

theorem meets_LeaseSteps :
    TrunkLine 65 ∧ (∀ s ∈ [lineAt {}, lineAt { heat := 3 }, lineAt { owner := some 7 }, lineAt { owner := some 8 }], s.lineClass 65 = .plain ∧ s.bypassed 65 = false ∧
      s.softLine 65 = false ∧ s.leased 65 7 = false ∧ s.committing 65 = false ∧ s.homeHeld 65 0 = false ∧ (s.line 65).cap = none ∧ s.queueOf 65 = []) ∧
    State.leased { State.reset with leases := [(65 * 128 + 7, 9)] } 65 7 = true ∧ (lineAt {}).leased 65 7 = false ∧
    (lineAt {}).hasVersions 65 = false ∧ 65 % 4 ≠ 0 ∧ 2 ∈ ((lineAt { guests := [2] }).line 65).guests ∧
    State.leased { lineAt { guests := [2] } with leases := [(65 * 128 + 48, 9)] } 65 48 = true ∧ 48 / 24 = 2 ∧
    (∀ core, (lineAt { guests := [2] }).leased 65 core = false) ∧ ((lineAt { heat := 1 }).line 65).heat < 2 ∧ LineFree (lineAt { heat := 1 }) 65 4 ∧
    0 < ((lineAt { heat := 1 }).line 65).heat ∧ (lineAt { heat := 1 }).clk < 0 + 4096 ∧ 0 + 4096 ≤ State.clk { lineAt { heat := 1 } with clk := 4096 } :=
  ⟨by unfold TrunkLine; decide, by decide +kernel, by decide, by decide, by decide, by decide, by decide, by decide, by decide, fun core => by rfl, by decide,
   by unfold LineFree; decide, by decide, by decide, by decide⟩
/-- A write that the replicas of dies 1 and 2 lack. -/
def lagged : State := { State.reset with lags := [⟨4, user, 0, 1, 0x2080, 0#8⟩, ⟨4, user, 0, 2, 0x2080, 0#8⟩] }
theorem meets_LeaseSteps_replicas :
    (lagged.lags.find? fun x => x.id == 4) = some ⟨4, user, 0, 1, 0x2080, 0#8⟩ ∧ 0x2080 / 128 = 65 ∧
    State.leased { lagged with leases := [(65 * 128 + 24, 9)] } 65 24 = true ∧ 24 / 24 = 1 ∧ (∀ core, lagged.leased 65 core = false) ∧
    (⟨4, user, 0, 2, 0x2080, 0#8⟩ : ReplicaLag) ∈ lagged.lags ∧
    lagged.lagBehind 4 1 = false ∧ lagged.groups.find? user = none ∧
    (let s := { lagged with lags := ⟨3, user, 1, 1, 0x2080, 0#8⟩ :: lagged.lags }
     (⟨3, user, 1, 1, 0x2080, 0#8⟩ : ReplicaLag) ∈ s.lags.takeWhile (fun x => x.id ≠ 4) ∧ (s.lags.find? fun x => x.id == 4) = some ⟨4, user, 0, 1, 0x2080, 0#8⟩) :=
  ⟨by decide, by decide, by decide, by decide, fun core => by rfl, by decide, by decide, rfl, by decide⟩

theorem meets_OutsideAccesses :
    TrunkLine 65 ∧ (∀ c ∈ ((lineAt { cards := [0] }).line 65).cards, c ≠ (lineAt { cards := [0] }).ownCard → (lineAt { cards := [0] }).peer c ≠ .retraining) ∧
    (let s := { lineAt { cards := [1] } with window := { fabricCfg := 0x10104#32 }, ports := [(0, { state := 2 })] }; ∃ c ∈ (s.line 65).cards, c ≠ s.ownCard ∧ s.peer c = .retraining) ∧
    (let l := (lineAt {}).line 65; l.cap = none ∧ l.owner = none ∧ l.guests = [] ∧ l.exp ≤ (lineAt {}).clk) ∧
    (let l := (lineAt { owner := some 3, guests := [2] }).line 65; l.owner ≠ none ∧ 2 ∈ l.guests) ∧
    64 ≤ 64 ∧ 0x2080 + 64 ≤ Config.cardBytes ∧
    (∀ k, 0x2080 / 128 ≤ k ∧ 128 * k < 0x2080 + 64 → (State.reset.line k).cap = none ∧ State.reset.committing k = false ∧ State.reset.homeHeld k 4 = false ∧ State.reset.queueOf k = []) ∧
    State.reset.posted = [] ∧ ((lineAt { cap := some ⟨user, 0, 9⟩ }).line 65).cap ≠ none ∧
    (∀ k, 0x2080 / 128 ≤ k ∧ 128 * k < 0x2080 + 64 → LineFree .reset k 4) ∧ State.reset.guestDirty = [] ∧
    (65 ∈ [65] ∧ (lineAt { exp := 9 }).clk < ((lineAt { exp := 9 }).line 65).exp ∧ (lineAt { exp := 9 }).softLine 65 = false) := by
  have only (k : Nat) (h : 0x2080 / 128 ≤ k ∧ 128 * k < 0x2080 + 64) : k = 65 := by omega
  exact ⟨by unfold TrunkLine; decide, by decide, by decide, by decide, by decide, by decide, by decide +kernel, fun k h => by rw [only k h]; decide, rfl, by decide,
    fun k h => by rw [only k h]; unfold LineFree; decide, rfl, by decide⟩

/-! ## Witnesses: fills, services and regions -/

/-- A fault of the page 0x2000 at which the user's path waits, and how far the firmware has come with it. -/
def entry (service : Service) : FaultEntry :=
  { id := 3, die := 0, index := 0, va := 0x2000, asid := 0, tag := 0, kind := 1, type := 2, ctrl := 0, leaf := 0, t := 0,
    waiters := [.path user 0 false, .record], addrs := [(.path user 0 false, 0x2008)], service := service }
def faulted (service : Service) : State := { State.reset with faults := [entry service] }
theorem none_waits (s : State) (h : s.frontWrites = []) (hr : s.runs = []) : NoneWaits s :=
  ⟨h, fun _ _ hk => by rw [hr] at hk; exact absurd hk List.not_mem_nil⟩
theorem meets_FaultSteps :
    canonical 0x2000 = true ∧ 0x2000 / 2 ^ 56 % 2 = 0 ∧ State.reset.translate 5 0x2000 = .fault 1 0 12 ∧ State.reset.translate 0 0x2000 = .ok page2 ∧
    State.reset.remap.find? 2 = none ∧ page2.pa 0x2000 / 4096 = 2 ∧
    (let s := { State.reset with remap := [(2, ⟨0, 3⟩)] }; s.remap.find? 2 = some ⟨0, 3⟩ ∧ s.translate 0 (3 * 4096) = .ok ⟨0x3000, 12, true, true, false, 0⟩) ∧
    faultOf (faulted .queued) 3 = some (entry .queued) ∧ NoneWaits (faulted .queued) ∧ (∀ frame done x, (entry .queued).service ≠ .nvme frame done (some x)) ∧
    faultOf (faulted .queued) 4 = none ∧
    (∀ x, faultOf (faulted (.nvme 0x10000 0 (some x))) 3 = some (entry (.nvme 0x10000 0 (some x)))) ∧
    (faulted (.nvme 0x10000 0 (some 1))).clk < 1 ∧ 0 ≤ (faulted (.nvme 0x10000 0 (some 0))).clk :=
  ⟨by decide, by decide, by decide +kernel, by decide +kernel, rfl, by decide, by decide +kernel, rfl, none_waits _ rfl rfl, nofun, rfl, fun _ => rfl,
   by decide, by decide⟩
/-- The page 0x2000 of context 5 is not resident, its backing (index 0 of a list at 0x30000) is of the kind given (R416); the die's firmware runs. -/
def backed (kind : Nat) (retired : List (Nat × Nat)) (e : FaultEntry) : State :=
  { paged 0x1B with
    dies := [(0, { ready := true })], faults := [e], health := { State.reset.health with retiredPages := retired }
    mem := Tab.putAll 0#8 (paged 0x1B).mem (placed 0x100A8 (natBytes 8 0x30000) ++ placed 0x100B0 (natBytes 4 1) ++ placed 0x30000 (natBytes 1 kind)) }
def unserved (type : Nat) (service : Service) : FaultEntry := { entry service with asid := 5, type := type, leaf := 0x24010 }
/-- The firmware meets an entry without a translation, one whose backing has no place to come from, one of a retired page, and one whose page it has copied. -/
theorem meets_FaultSteps_service :
    (let s := backed 0 [] (unserved 1 .queued); (s.die 0).ready = true ∧ (s.die 0).failed = false ∧ (s.die 0).link < 2 ∧ s.walk 5 0x2000 = .fault 2 0x24010 12) ∧
    (∀ b, (backed 0 [] (unserved 2 .queued)).backing (unserved 2 .queued) = some b → (backed 0 [] (unserved 2 .queued)).physNat b 1 % 4 = 0) ∧
    (∃ x ∈ (backed 1 [(5, 2)] (unserved 2 .queued)).health.retiredPages, x.1 = 5 ∧ x.2 * 4096 / 2 ^ 12 = 0x2000 / 2 ^ 12) ∧
    (let e := unserved 2 (.host 0x10000000); let s := backed 1 [] e; faultOf s 3 = some e ∧ s.backing e = some 0x30000 ∧ Memory.wf s.mem = true ∧
      0x10000000 % 2 ^ e.bits = 0 ∧ e.bits = 12 ∧ e.leaf + 8 ≤ 0x10000000 ∧ 2 ^ 51 + s.physNat 0x30008 8 = 2 ^ 51 ∧ s.physNat e.leaf 8 = 0x1B) :=
  ⟨by decide +kernel, fun b h => by
      have : b = 0x30000 := by
        have : (backed 0 [] (unserved 2 .queued)).backing (unserved 2 .queued) = some 0x30000 := by decide +kernel
        rw [this] at h; exact (Option.some.inj h).symm
      subst this; decide +kernel, ⟨(5, 2), by decide +kernel⟩, by decide +kernel⟩
/-- The firmware's copy of a page from host memory (R416): the leaf names the frame and is resident, and its first byte is the host's. -/
theorem test_service_host :
    let s := backed 1 [] (unserved 2 (.host 0x10000000))
    let t := State.serveFault { s with mem := Tab.putAll 0#8 s.mem [(2 ^ 51 + 5, 0xA5#8)] } 3
    t.physNat 0x24010 8 = 0x1000003B ∧ t.byteAt 0x10000005 = 0xA5#8 := by
  decide +kernel
/-- No switch and a switch of region 0, with a lease of another die's copy and without; a dirty byte of die 1's copy. -/
def switching : State := { State.reset with window := { region := some (0, true) }, guestDirty := [2 ^ 56 + 0x2000], guestCopies := [(2 ^ 56 + 0x2000, 7)] }
theorem meets_FaultSteps_regions :
    State.reset.window.region = none ∧ (3#64).getLsbD 0 = true ∧ (2#64).getLsbD 0 = false ∧ switching.window.region = some (0, true) ∧
    (let s := { switching with leases := [(64 * 128 + 24, 9)] }; ∃ k e, (k, e) ∈ s.leases ∧ s.clk < e ∧ k / 128 * 128 / 2 ^ 21 = s.ownCard * 2 ^ 20 + 0 ∧ k % 128 / 24 ≠ k / 128 % 4) ∧
    switching.leases = [] ∧ 1 * 2 ^ 56 + 0x2000 ∈ switching.guestDirty ∧ (∀ d', 1 < d' → d' < 4 → d' * 2 ^ 56 + 0x2000 ∉ switching.guestDirty) ∧
    Tab.wf ({} : Line) switching.lines = true ∧ 0x2008 / 2 ^ 21 = switching.ownCard * 2 ^ 20 + 0 :=
  ⟨rfl, by decide, by decide, rfl, ⟨64 * 128 + 24, 9, by decide⟩, rfl, by decide, fun d h1 h2 => by
    have : d = 2 ∨ d = 3 := by omega
    rcases this with rfl | rfl <;> decide, by decide, by decide⟩
theorem meets_FaultSteps_paths :
    (beside false).groups.find? user = some restingGroup ∧ restingGroup.waves[0]? = some { regs with slotA := some pth } ∧
    waveOf (beside false) user 0 = some { regs with slotA := some pth } ∧ ({ regs with slotA := some pth } : Wave).slot false = some pth ∧ pth.wait ≠ .sleep ∧
    (let p := { pth with wait := .sleep }; waveOf { State.reset with groups := [(user, { grp with waves := [{ regs with slotA := some p }] })] } user 0 = some { regs with slotA := some p } ∧
      ({ regs with slotA := some p } : Wave).slot false = some p ∧ p.wait = .sleep) :=
  ⟨rfl, rfl, by decide, rfl, by decide, by decide⟩

/-! ## Witnesses: queues and packets -/

/-- What the front end read, as a computation. -/
def gotten {α : Type} [DecidableEq α] (x : Got α) (a : α) : Bool := match x with | .ok y => y == a | _ => false
theorem of_gotten {α : Type} [DecidableEq α] {x : Got α} {a : α} (h : gotten x a = true) : x = .ok a := by
  unfold gotten at h
  split at h
  · rw [eq_of_beq h]
  · exact absurd h (by decide)
def turnedAway {α : Type} (x : Got α) (cause addr : Nat) : Bool := match x with | .fails c a => c == cause && a == addr | _ => false
theorem of_turnedAway {α : Type} {x : Got α} {cause addr : Nat} (h : turnedAway x cause addr = true) : x = .fails cause addr := by
  unfold turnedAway at h
  split at h
  · simp only [Bool.and_eq_true, beq_iff_eq] at h; rw [h.1, h.2]
  · exact absurd h (by decide)

/-- Queue 0 as x. -/
def queued (x : Queue) : State := { State.reset with queues := [(0, x)] }
/-- A slot of a type and a length, with bits of the payload. -/
def slotOf (type length more : Nat) : BitVec 2048 := BitVec.ofNat 2048 (more + length * 2 ^ 2016 + type * 2 ^ 2032)
def withSlot (slot : BitVec 2048) (pending : List (Nat × Pending)) : Queue := { level := 0, enable := true, tail := 1#32, fetched := some slot, pending := pending }
/-- A ring at 0x2000 whose first slot holds a packet, with its lap byte. -/
def ringQueue (pending : List (Nat × Pending)) : Queue := { level := 0, enable := true, ringBase := 0x2000#64, tail := 1#32, pending := pending }
def ring (trailer : Nat) (pending : List (Nat × Pending)) : State :=
  { queued (ringQueue pending) with mem := Tab.putAll 0#8 [] (placed 0x20FC (natBytes 4 trailer)) }
theorem meets_QueueSteps :
    ((queued { level := 0 }).queue 0).enable = false ∧ ((queued { level := 0, enable := true }).queue 0).enable = true ∧
    2 ^ 4 < (17#32 - 0#32 : Word).toNat ∧ (16#32 - 0#32 : Word).toNat ≤ 2 ^ 4 ∧
    (2 ^ 496 * 2 + 2 ^ 480 * 4) / 2 ^ 496 % 2 ^ 8 = 2 ∧ (2 ^ 496 * 2 + 2 ^ 480 * 4) / 2 ^ 480 % 2 ^ 8 = 4 ∧
    2 ^ 4 ≤ (((queued { level := 0, enable := true, tail := 16#32 }).queue 0).tail - 0#32).toNat ∧
    (((queued { level := 0, enable := true, tail := 15#32 }).queue 0).tail - 0#32).toNat < 2 ^ 4 ∧
    State.reset.fill 0 0x2000 12 = .ok page2 ∧ State.reset.hostWaits = false ∧
    State.hostWaits { State.reset with posted := [{ write1 with g := hostParty }] } = true ∧ 0x2000 / 2 ^ 56 = 0 ∧ page2.write = true ∧
    ((ring 0 []).queue 0).enable = true ∧ ((ring 0 []).queue 0).tail ≠ ((ring 0 []).queue 0).head ∧ ((ring 0 []).queue 0).fetched = none ∧
    page2.pa 0x2000 % 256 = 0 ∧ (ring 0 []).lineHeld 64 = false ∧ (ring 0 []).lineHeld 65 = false :=
  ⟨by decide, by decide, by decide, by decide, by decide +kernel, by decide +kernel, by decide, by decide, by decide +kernel, by decide, by decide, by decide, rfl, by decide, by decide, by decide,
   by decide, by decide, by decide⟩
theorem meets_QueueSteps_page : ∀ i, i < 256 → (ring 0 []).fill 0 (0x2000 + i) 12 = .ok page2 := fun i h => by
  have hp : (0x2000 + i) / 4096 * 4096 = 0x2000 := by omega
  have hr : (ring 0 []).reach 0x2000 = .gddr 0 0x2000 := by decide +kernel
  show (ring 0 []).walk 0 (0x2000 + i) = _
  simp only [State.walk, hp, if_true, hr]
  rfl
/-- The other lap's byte; this lap's, on a serial NOP behind a packet and alone; on a type that does not exist. -/
theorem meets_QueueSteps_laps :
    (let b := fun (s : State) i => s.waveByte 0 frontParty 0 (memPlace 0 (page2.pa 0x2000 + i))
     (b (ring 0xA5010000 []) 255).toNat = 0xA5 ∧ (b (ring 0x5A010000 []) 255).toNat = 0x5A ∧
     BitVec.ofNat 2048 (bytesNat ((List.range 256).map (b (ring 0x5A010000 [(1, .writes)])))) = BitVec.ofNat 2048 (0x5A010000 * 2 ^ 2016)) ∧
    (let slot : BitVec 2048 := BitVec.ofNat 2048 (0x5A010000 * 2 ^ 2016)
     slot.toNat / 2 ^ 2028 % 2 ^ 4 = 0 ∧ slotFault slot = none) ∧ ((ring 0x5A010000 [(1, .writes)]).queue 0).pending ≠ [] ∧
    slotType (BitVec.ofNat 2048 (0x5A0D0000 * 2 ^ 2016)) = 13 := by decide +kernel

theorem fetched_at {x : Queue} {slot : BitVec 2048} {type : Nat} {lengths : List Nat} (hx : x.fetched = some slot)
    (h : slotType slot = type ∧ (lengths = [] ∨ slotLength slot ∈ lengths)) : Claims.Fetched (queued x) 0 slot type lengths := ⟨hx, h⟩

/-- Packets at the head of queue 0: NOP; SIGNAL to 0x2000, to 0x2001, to where nothing is; WAIT; COPY; ACCOUNT_OPEN and CLOSE; COMMIT; TENSOR_DEF. -/
theorem meets_PacketSteps :
    Claims.Fetched (queued (withSlot (slotOf 1 0 0) [])) 0 (slotOf 1 0 0) 0x01 [] ∧
    Claims.Fetched (queued (withSlot (slotOf 6 2 0x2000) [])) 0 (slotOf 6 2 0x2000) 0x06 [2] ∧ slotField (slotOf 6 2 0x2000) 0 8 = 0x2000 ∧
    Claims.Fetched (queued (withSlot (slotOf 6 2 0x2001) [])) 0 (slotOf 6 2 0x2001) 0x06 [2] ∧ slotField (slotOf 6 2 0x2001) 0 8 % 4 ≠ 0 ∧
    Claims.Fetched (queued (withSlot (slotOf 7 2 0x2000) [])) 0 (slotOf 7 2 0x2000) 0x07 [2] ∧ slotField (slotOf 7 2 0x2000) 12 1 ≤ 2 ∧
    Claims.Fetched (queued (withSlot (slotOf 8 3 0x2000) [])) 0 (slotOf 8 3 0x2000) 0x08 [3] ∧
    Claims.Fetched (queued (withSlot (slotOf 8 3 (2 ^ 163)) [])) 0 (slotOf 8 3 (2 ^ 163)) 0x08 [3] ∧ slotField (slotOf 8 3 (2 ^ 163)) 20 1 = 8 ∧
    Claims.Fetched (queued (withSlot (slotOf 9 2 0x2000) [])) 0 (slotOf 9 2 0x2000) 0x09 [2] ∧ slotField (slotOf 9 2 0x2000) 0 8 % 64 = 0 ∧
    Claims.Fetched (queued (withSlot (slotOf 10 1 0x2000) [])) 0 (slotOf 10 1 0x2000) 0x0A [1] ∧
    Claims.Fetched (queued (withSlot (slotOf 11 2 (0x2000 * 2 ^ 64)) [])) 0 (slotOf 11 2 (0x2000 * 2 ^ 64)) 0x0B [2] ∧ slotField (slotOf 11 2 (0x2000 * 2 ^ 64)) 8 8 = 0x2000 ∧
    Claims.Fetched (queued (withSlot (slotOf 12 2 0x2000) [])) 0 (slotOf 12 2 0x2000) 0x0C [2] :=
  ⟨fetched_at rfl (by decide +kernel), fetched_at rfl (by decide +kernel), by decide +kernel, fetched_at rfl (by decide +kernel), by decide +kernel, fetched_at rfl (by decide +kernel), by decide +kernel, fetched_at rfl (by decide +kernel), fetched_at rfl (by decide +kernel), by decide +kernel, fetched_at rfl (by decide +kernel), by decide +kernel, fetched_at rfl (by decide +kernel), fetched_at rfl (by decide +kernel), by decide +kernel, fetched_at rfl (by decide +kernel)⟩
theorem meets_PacketSteps_addresses :
    (let s := queued (withSlot (slotOf 6 2 0x2000) [])
     s.frontAccess (.packet 0) 0 0x2000 2 false true = .ok page2 0x2000 ∧ s.bar0Offset 0x2000 = none ∧ page2.pa 0x2000 = 0x2000 ∧
     s.frontAccess (.packet 0) 0 (2 ^ 56) 2 false true = .fails 0x12 ∧ s.frontProbe (.packet 0) 0 true false (blockParts 4096 0x2000 64) = none ∧
     s.frontProbe (.packet 0) 0 false true (blockParts 4096 0x3000 64) = none) ∧
    (queued (withSlot (slotOf 6 2 0x2000) [])).frontRead (.packet 0) 0 0x2000 4 = .ok [0#8, 0#8, 0#8, 0#8] ∧
    (queued (withSlot (slotOf 6 2 0x2000) [])).frontRead (.packet 0) 0 (2 ^ 56) 4 = .fails 0x12 (2 ^ 56) :=
  ⟨by decide +kernel, of_gotten (by decide +kernel), of_turnedAway (by decide +kernel)⟩
/-- An account's record has been performed, or waits. -/
theorem meets_PacketSteps_account :
    let s := queued { level := 0, enable := true, pending := [(1, .account 0)] }
    (s.queue 0).pending = [(1, .account 0)] ∧ s.frontWrites = [] ∧ s.recordOpen 0 3 1 = false ∧
    State.recordOpen { s with posted := [{ write1 with g := frontParty, front := some (0, 3, 1) }] } 0 3 1 = true := by decide
/-- Packets under way: writes not performed and performed; a WAIT for 0 and for 1; a COPY of 64 bytes not yet and all posted. -/
def underWay (p : Pending) : Queue := { level := 0, enable := true, pending := [(1, p)] }
def opened : Queue := { withSlot (slotOf 10 1 0x2000) [] with accounts := [{ addr := 0x2000, stamp := 0, opened := 0, mark := 1, queue := 0 }] }
theorem meets_PacketSteps_underWay :
    ((queued (underWay .writes)).queue 0).fetched = none ∧ (∃ p ∈ ((queued (underWay .writes)).queue 0).pending, p.2 = .writes) ∧
    (queued (underWay .writes)).quiet frontParty 1 = true ∧
    State.quiet { queued (underWay .writes) with posted := [{ id := 1, g := frontParty, w := 1, core := frontCore, tag := 0, bytes := [(0x2000, 1#8)] }] } frontParty 1 = false ∧
    ((queued (underWay (.wait 0x2000 0#32 0))).queue 0).pending = [(1, .wait 0x2000 0#32 0)] ∧ ((queued (underWay (.wait 0x2000 1#32 0))).queue 0).pending = [(1, .wait 0x2000 1#32 0)] ∧
    ((queued (underWay (.copy 0 0x2000 0x3000 64 0))).queue 0).pending = [(1, .copy 0 0x2000 0x3000 64 0)] ∧
    ((queued (underWay (.copy 0 0x2000 0x3000 64 64))).queue 0).pending = [(1, .copy 0 0x2000 0x3000 64 64)] ∧
    (queued (underWay (.copy 0 0x2000 0x3000 64 0))).frontAccess (.copy 0) 0 0x3000 6 false true = .ok ⟨0x3000, 12, true, true, false, 0⟩ 0x3000 ∧
    Claims.Fetched (queued opened) 0 (slotOf 10 1 0x2000) 0x0A [1] ∧
    (((queued opened).queue 0).accounts.find? fun y => y.addr == 0x2000) = some { addr := 0x2000, stamp := 0, opened := 0, mark := 1, queue := 0 } ∧
    (queued opened).frontAccess .record 0 0x2000 2 false true = .ok page2 0x2000 :=
  ⟨by decide +kernel, by decide +kernel, by decide +kernel, by decide +kernel, by decide +kernel, by decide +kernel, by decide +kernel, by decide +kernel, by decide +kernel, fetched_at rfl (by decide +kernel), by decide +kernel, by decide +kernel⟩
theorem meets_PacketSteps_reads :
    (queued (underWay (.copy 0 0x2000 0x3000 4 0))).frontRead (.copy 0) 0 0x2000 4 = .ok [0#8, 0#8, 0#8, 0#8] ∧
    (let r := rec 0x4000 0
     State.frontRead { queued (withSlot (slotOf 12 2 0x2000) []) with mem := Tab.putAll 0#8 [] (placed 0x2000 (natBytes 64 r.toNat)) } (.packet 0) 0 0x2000 64 = .ok (natBytes 64 r.toNat)) ∧
    TRecord.check (BitVec.ofNat 512 (bytesNat (natBytes 64 (rec 0x4000 0).toNat))) = 0 ∧ TRecord.check 0#512 ≠ 0 :=
  ⟨of_gotten (by decide +kernel), of_gotten (by decide +kernel), by decide +kernel, by decide +kernel⟩

/-! ## Witnesses: launches, placement, retirement -/

/-- A launch record of one group of 32 lanes at 0x1000 that passes its checks, and its number. -/
def record1 : LaunchRecord := { codeBase := 0x1000, codeLen := 32, entry := 4 }
def record1Nat : Nat :=
  0x1000 + 32 * 2 ^ 64 + 4 * 2 ^ 96 + 2 ^ 128 + 2 ^ 160 + 2 ^ 176 + 32 * 2 ^ 192 + 2 ^ 203 + 8 * 2 ^ 206
/-- The user cores of die 0 are enabled. -/
def enabledCores : State := { State.reset with dies := [(0, { schedmask := 0xFFFFFE#32 })] }
def headed (slot : BitVec 2048) (graphs : Tab Graph) : State :=
  { enabledCores with
    queues := [(0, withSlot slot [])], contexts := [(0, { graphs := graphs })]
    mem := Tab.putAll 0#8 [] (placed 0x2000 (natBytes 128 record1Nat)) }
def launchSlot : BitVec 2048 := slotOf 2 16 record1Nat
def shortSlot : BitVec 2048 := slotOf 2 4 (0x2000 + (1 + 2 ^ 32 + 2 ^ 48) * 2 ^ 192)
def loadSlot : BitVec 2048 := slotOf 4 2 (0x2000 + 2 ^ 64)
def runSlot : BitVec 2048 := slotOf 3 2 0
theorem fetched_in {slot : BitVec 2048} {graphs : Tab Graph} {type : Nat} {lengths : List Nat} (hx : ((headed slot graphs).queue 0).fetched = some slot)
    (h : slotType slot = type ∧ (lengths = [] ∨ slotLength slot ∈ lengths)) : Claims.Fetched (headed slot graphs) 0 slot type lengths := ⟨hx, h⟩
theorem launchable {s : State} {r : LaunchRecord} (h : (s.recordFault 0 true r).isNone = true ∧ r.teamCount = 0 ∧ r.coresident = false) : Launchable s 0 true r :=
  ⟨by simpa using h.1, h.2⟩
theorem meets_LaunchPackets :
    Claims.Fetched (headed launchSlot []) 0 launchSlot 0x02 [16] ∧ slotField launchSlot 32 8 % 16 = 0 ∧ slotField launchSlot 64 8 % 64 = 0 ∧
    Launchable (headed launchSlot []) 0 true (parseRecord (launchSlot.toNat % 2 ^ 1024)) ∧ ((headed launchSlot []).recordFault 0 true {}).isSome = true ∧
    Claims.Fetched (headed shortSlot []) 0 shortSlot 0x02 [4] ∧ slotField shortSlot 0 8 = 0x2000 ∧
    (headed shortSlot []).frontRead (.packet 0) 0 0x2000 128 = .ok (natBytes 128 record1Nat) ∧ (natBytes 128 record1Nat).length = 128 ∧
    Launchable (headed shortSlot []) 0 true { parseRecord (bytesNat (natBytes 128 record1Nat)) with
      gridX := slotField shortSlot 24 4, gridY := slotField shortSlot 28 2, gridZ := slotField shortSlot 30 2, param := slotField shortSlot 8 8, completion := slotField shortSlot 16 8 } :=
  ⟨fetched_in rfl (by decide +kernel), by decide +kernel, by decide +kernel, launchable (by decide +kernel), by decide +kernel, fetched_in rfl (by decide +kernel),
   by decide +kernel, of_gotten (by decide +kernel), by decide +kernel, launchable (by decide +kernel)⟩
theorem meets_LaunchPackets_graphs :
    Claims.Fetched (headed loadSlot []) 0 loadSlot 0x04 [2] ∧ slotField loadSlot 0 8 % 128 = 0 ∧ slotField loadSlot 8 2 = 1 ∧ slotField loadSlot 10 1 ≤ 63 ∧
    ((headed loadSlot [(0, { run := some 1 })]).graph 0 0).run ≠ none ∧ ((headed loadSlot []).graph 0 0).run = none ∧
    (headed loadSlot []).frontRead (.packet 0) 0 0x2000 (128 * 1) = .ok (natBytes 128 record1Nat) ∧
    (headed loadSlot []).recordFault 0 false (parseRecord (bytesNat (natBytes 128 record1Nat))) = none ∧ graphFault [parseRecord (bytesNat (natBytes 128 record1Nat))] = none ∧
    graphFault [{ succ := [1] }] ≠ none ∧
    Claims.Fetched (headed runSlot []) 0 runSlot 0x03 [2] ∧ slotField runSlot 0 1 ≤ 63 ∧ slotField runSlot 8 8 % 64 = 0 ∧ ((headed runSlot []).graph 0 0).nodes = [] ∧
    ((headed runSlot [(0, { nodes := [record1] })]).graph 0 0).nodes ≠ [] ∧ ((headed runSlot [(0, { nodes := [record1] })]).graph 0 0).run = none ∧
    64 = slotField (slotOf 3 2 64) 0 1 :=
  ⟨fetched_in rfl (by decide +kernel), by decide +kernel, by decide +kernel, by decide +kernel, by decide, by decide, of_gotten (by decide +kernel), by decide +kernel,
   by decide +kernel, by decide +kernel, fetched_in rfl (by decide +kernel), by decide +kernel, by decide +kernel, by decide, by decide, by decide, by decide +kernel⟩

/-- Launch 5 of queue 0 with one waiting gang, 7; launch 6 with gang 8 of queue 1. -/
def gang7 : Gang := { launch := 5, index := 0, groups := [0] }
def launch5 : Launch := { ctx := 0, queue := 0, record := record1, gangs := [7] }
def waitingGangs : State :=
  { enabledCores with
    queues := [(0, { level := 0, enable := true, gangs := [7] }), (1, { level := 0, enable := true, gangs := [8] })]
    gangs := [(7, gang7), (8, { gang7 with launch := 6 })], launches := [(5, launch5), (6, { launch5 with queue := 1, gangs := [8] })] }
theorem meets_LaunchSteps_placement :
    waitingGangs.gangs.find? 7 = some gang7 ∧ waitingGangs.gangSaved gang7 = false ∧ waitingGangs.gangWaits gang7 = true ∧ waitingGangs.gangWaits { gang7 with placed := true } = false ∧
    waitingGangs.placingLevel = some 0 ∧ waitingGangs.nextPlacing (waitingGangs.visitOrder 0) = some (0, 1) ∧ waitingGangs.fitting 0 = some (.fresh [(7, gang7)] [[1]] 0) ∧
    waitingGangs.placeFrom ≤ waitingGangs.clk ∧ waitingGangs.clk < State.placeFrom { waitingGangs with placeFrom := 4 } ∧ launch5.record.coresident = false ∧ gang7.restarts = [] ∧
    waitingGangs.waitingGang 0 = some (7, gang7) ∧ 7 ≠ 8 ∧ waitingGangs.launches.find? 5 = some launch5 ∧ [1].Nodup ∧ [1].length = gang7.groups.length ∧
    (∀ core ∈ [1], waitingGangs.groups.find? (core * 16 + 0) = none) ∧ waitingGangs.loadReady = none := by decide +kernel
/-- The firmware wave may issue a GLOAD, fetched from 0x2000. -/
def loader : State :=
  { waitingGangs with
    groups := [(firm, { grp with waves := [{ regs with slotA := some { pth with pc := 0x1000#32 } }] })], tlb := [(2, ⟨0x2000, 12, true, true, false, 0⟩)]
    mem := Tab.putAll 0#8 waitingGangs.mem (placed 0x2000 (natBytes 8 (0xD9 * 2 ^ 24))) }
theorem meets_LaunchSteps_load : loader.placeFrom ≤ loader.clk ∧ loader.loadReady = some (firm, 0, false) := by decide +kernel

/-- A group of launch 5 that has ended, alone in its gang and beside group 1; a group of no launch; one that lives, and one whose write is under way. -/
def ceased (launch : Option Nat) : Group := { grp with launch := launch, waves := [{ wav with live := 0#32, fmask := 3#32 }] }
def retiring (g : Group) (rest : List Nat) : State :=
  { State.reset with groups := [(user, g)], gangs := [(7, { gang7 with groups := 0 :: rest, placed := true })], launches := [(5, launch5)] }
theorem group_over (launch : Option Nat) (rest : List Nat) : GroupOver (retiring (ceased launch) rest) user (ceased launch) :=
  ⟨rfl, fun w h => by rw [List.mem_singleton.1 h]; exact ⟨rfl, rfl⟩, fun _ h => absurd h List.not_mem_nil, fun _ h => absurd h List.not_mem_nil,
   fun _ h => absurd h List.not_mem_nil, fun _ h => absurd h List.not_mem_nil⟩
theorem meets_LaunchSteps_retirement :
    (∃ w ∈ restingGroup.waves, w.live ≠ 0#32) ∧ (beside false).groups.find? user = some restingGroup ∧
    (ceased none).retired = false ∧ (∀ w ∈ (ceased none).waves, w.live = 0#32) ∧
    (let s := { retiring (ceased none) [] with posted := [write1] }; s.groups.find? user = some (ceased none) ∧ ∃ wi p, wi < (ceased none).waves.length ∧ p ∈ s.posted ∧ p.g = user ∧ p.w = wi) ∧
    GroupOver (retiring (ceased none) []) user (ceased none) ∧ GroupOver (retiring (ceased (some 5)) []) user (ceased (some 5)) ∧
    (retiring (ceased (some 5)) []).launches.find? 5 = some launch5 ∧
    List.find? (fun (y : Nat × Gang) => y.2.launch == 5 && y.2.index == (ceased (some 5)).gang) (retiring (ceased (some 5)) []).gangs = some (7, { gang7 with placed := true }) ∧
    gang7.groups = [(ceased (some 5)).linear] ∧ launch5.gangs = [7] ∧
    List.find? (fun (y : Nat × Gang) => y.2.launch == 5 && y.2.index == (ceased (some 5)).gang) (retiring (ceased (some 5)) [1]).gangs = some (7, { gang7 with groups := [0, 1], placed := true }) ∧
    [0, 1].erase (ceased (some 5)).linear ≠ [] :=
  ⟨by decide, rfl, rfl, by decide, ⟨rfl, 0, write1, by decide⟩, group_over _ _, group_over _ _, rfl, by decide, rfl, rfl, by decide, by decide⟩
/-- A launch whose group is past its early point, with a write under way and none; one that has triggered; a launch without gangs, with a completion record and without. -/
def early5 : Launch := { launch5 with earlyWaves := [(0, 0, 1)] }
def earlyState (ps : List PostedWrite) : State := { retiring (ceased (some 5)) [] with launches := [(5, early5)], posted := ps }
def ended (completion : Nat) : Launch := { launch5 with gangs := [], completion := completion }
theorem meets_LaunchSteps_ends :
    early5.triggered = false ∧ (earlyState []).launches.find? 5 = some early5 ∧ (earlyState [write1]).groupOf 5 0 = some (user, ceased (some 5)) ∧
    (earlyState [write1]).waveQuiet user 0 1 = false ∧ (earlyState []).waveQuiet user 0 1 = true ∧ (ended 0).gangs = [] ∧ (ended 0).node = none ∧
    (ended 0).written = false ∧ ({ ended 0 with written := true } : Launch).written = true ∧ State.reset.recordOpen 0 1 5 = false ∧
    State.recordOpen { State.reset with posted := [{ write1 with g := frontParty, front := some (0, 1, 5) }] } 0 1 5 = true ∧
    State.reset.fill 0 0x2000 12 = .ok page2 ∧
    0x2000 % 64 = 0 ∧ 0x2000 / 2 ^ 56 = 0 ∧ 12 ≤ page2.bits ∧ page2.read = true ∧ (ended 0x2000).tally.fmasks = [] ∧ State.reset.frontWrites = [] ∧
    State.reset.lineHeld (page2.pa 0x2000 / 128) = false ∧ (∀ k, k < 64 → State.reset.bar0Offset (page2.pa 0x2000 + k) = none) := by decide +kernel
/-- Runs whose node 0 waits for tags, alone and behind another; a deadline not reached and reached; deferred effects. -/
def forkNode : NodeState := { node := 0, tag := 0, counter := 0, param := 0x2000, ready := true }
def forkRecord : LaunchRecord := { record1 with fork := true, futures := 1 }
def forkRun : Run := { ctx := 0, slot := 0, queue := 0, packet := 0#32, completion := 0, fence := 0, nodes := [forkNode] }
def forking (waits : List (Nat × Nat)) : State :=
  { State.reset with contexts := [(0, { graphs := [(0, { nodes := [forkRecord], run := some 3 })] })], runs := [(3, forkRun)], forkWaits := waits }
theorem meets_LaunchSteps_forks :
    (forking []).runs.find? 3 = some forkRun ∧ forkRun.node? 0 0 = some forkNode ∧ (3, 0) ∉ (forking []).forkWaits ∧ (3, 0) ∈ (forking [(4, 0), (3, 0)]).forkWaits ∧
    (forking [(4, 0), (3, 0)]).forkWaits.head? ≠ some (3, 0) ∧ (forking [(3, 0)]).forkWaits = [(3, 0)] ∧ ((forking [(3, 0)]).nodesOf forkRun).getD 0 {} = forkRecord ∧
    ((List.range 16).filter fun t => t ≠ 0 && ((forking [(3, 0)]).tag t).state = .free).head? = some 1 ∧ (forking [(3, 0)]).forkLive 0 = false ∧
    page2.pa 0x2000 % 4 = 0 ∧ (forking [(3, 0)]).frontAccess (.node 3 0 0) 0 0x2000 2 false true = .ok page2 0x2000 ∧
    forkRun.taking = [] ∧ forkRecord.futures = 1 ∧ (forking [(3, 0)]).reach 0x2000 = .gddr (forking [(3, 0)]).ownCard 0x2000 := by decide +kernel
theorem meets_LaunchSteps_line : LineFree (forking [(3, 0)]) (page2.pa 0x2000 / 128) 4 := by unfold LineFree; decide +kernel
/-- The fork's block has been posted, and performed. -/
def posted1 : State := { forking [(3, 0)] with runs := [(3, { forkRun with taking := [1] })] }
theorem meets_LaunchSteps_taking :
    posted1.runs.find? 3 = some { forkRun with taking := [1] } ∧ ({ forkRun with taking := [1] } : Run).node? 0 0 = some forkNode ∧ posted1.forkWaits.head? = some (3, 0) ∧
    forkRecord.futures ≤ ((List.range 16).filter fun t => t ≠ 0 && (posted1.tag t).state = .free).length ∧ posted1.forkLive 0 = false ∧ posted1.quiet frontParty (forkWave 3) = true ∧
    State.quiet { posted1 with posted := [{ write1 with g := frontParty, w := forkWave 3 }] } frontParty (forkWave 3) = false := by decide +kernel
def runWith (tags : List Nat) : State :=
  { State.reset with runs := [(3, { forkRun with tags := tags })], contexts := [(0, { graphs := [(0, { nodes := [{ record1 with join := true }], run := some 3 })] })],
                     tags := [(1, { state := .live, run := 3 })], clk := 10 ^ 9 }
/-- The deadline that the latch takes is not reached, and is. -/
theorem meets_LaunchSteps_deadline :
    (let s := { runWith [1] with clk := 3 }; s.clk + 0 < ({ forkRun with latchAt := 9 } : Run).latchAt) ∧ ({ forkRun with latchAt := 9 } : Run).latchAt ≤ (runWith [1]).clk + 0 := by
  decide
/-- A committed tag with effects. -/
def deferring (e : Effect) : State := { State.reset with tags := [(1, { state := .committed, effects := [e] })] }
theorem meets_LaunchSteps_effects :
    (runWith [1]).runs.find? 3 = some { forkRun with tags := [1] } ∧ ((runWith [1]).tag 1).run = 3 ∧ ((runWith [1]).tag 1).state = .live ∧
    (∀ e ∈ [Effect.store 0x2000 [1#8], .store (2 ^ 56) [1#8], .flip 0x2010 0, .glaunch 0#32 0],
      ((deferring e).tag 1).state = .committed ∧ ((deferring e).tag 1).committing = false ∧ ((deferring e).tag 1).effects = [e] ∧ (deferring e).quiet frontParty 0 = true) ∧
    State.quiet { deferring (.glaunch 0#32 0) with posted := [{ id := 1, g := frontParty, w := 0, core := frontCore, tag := 0, bytes := [(0x2000, 1#8)] }] } frontParty 0 = false ∧
    (deferring (.store 0x2000 [1#8])).frontAccess (.effect 1) 0 0x2000 2 false true = .ok page2 0x2000 ∧
    (deferring (.store (2 ^ 56) [1#8])).frontAccess (.effect 1) 0 (2 ^ 56) 2 false true = .fails 0x12 ∧ 0x2010 % 32 ≠ 0 ∧
    ((deferring (.glaunch 0#32 0)).graph 0 0).run = none := by decide +kernel

/-! ## Witnesses: commands and deadlines of a context -/

/-- Context 5 as c, with one group of launch 5, halted or not. -/
def owned (halted : Bool) : Group := { grp with ctx := 5, launch := some 5, halted := halted, waves := [{ regs with slotA := some pth }] }
def ctx5 (c : Context) (gs : Tab Group) : State := { State.reset with contexts := [(5, c)], groups := gs }
def taken (v : Nat) : Context := { cmdStatus := 1, cmd := v }
theorem is_taken (v : Nat) (gs : Tab Group) : Taken (ctx5 (taken v) gs) 5 v := ⟨by decide, rfl, rfl⟩
theorem is_named (v : Nat) (h : Bool) : Names (ctx5 (taken v) [(user, owned h)]) 5 (owned h) := ⟨rfl, by simp [owned], rfl, .inr rfl⟩
theorem meets_ContextCommands :
    commandStep 5 4 = some (.haltCmd 5) ∧ (4#64 : BitVec 64).toNat = 4 ∧ ((ctx5 (taken 4) []).context 5).cmdStatus = 1 ∧ (ctx5 (taken 4) []).hostWaits = false ∧ State.reset.hostWaits = false ∧ (State.reset.context 5).cmdStatus ≠ 1 ∧
    ¬Taken .reset 5 4 ∧ (∀ v, Taken (ctx5 (taken v) []) 5 v) ∧ ((ctx5 (taken 1) []).context 5).saveCapable = false ∧
    (∀ v k g, (k, g) ∈ (ctx5 (taken v) []).groups → ¬Names (ctx5 (taken v) []) 5 g) ∧
    (∀ v h, Taken (ctx5 (taken v) [(user, owned h)]) 5 v ∧ (ctx5 (taken v) [(user, owned h)]).groups.find? user = some (owned h) ∧
      Names (ctx5 (taken v) [(user, owned h)]) 5 (owned h) ∧ (owned h).halted = h) ∧
    (ctx5 (taken 6) [(user, owned true)]).groupQuiet user = true ∧
    State.groupQuiet { ctx5 (taken 6) [(user, owned true)] with posted := [write1] } user = false :=
  ⟨rfl, rfl, rfl, rfl, rfl, by decide, fun h => absurd h.2.1 (by decide), fun v => is_taken v _, rfl, fun _ _ _ h => absurd h List.not_mem_nil,
   fun v h => ⟨is_taken v _, rfl, is_named v h, rfl⟩, by decide, by decide⟩
/-- LOAD of an image that is only a header, at a page that context 5 maps, to core 24 and to core 1; and one at a page it does not map. -/
def imageHead : List Byte := natBytes 36 0 ++ natBytes 4 5 ++ natBytes 8 256 ++ natBytes 208 0
def loading (addr core : Nat) : State :=
  { paged (leafOf 0) with
    mem := Tab.putAll 0#8 (paged (leafOf 0)).mem (placed 0x2000 (natBytes 64 (bytesNat imageHead)))
    contexts := [(5, { taken 7 with arg1 := BitVec.ofNat 64 addr, arg2 := BitVec.ofNat 32 core })] }
theorem meets_ContextCommands_load :
    Taken (loading 0x2000 1) 5 7 ∧ (loading 0x2000 1).frontRead .record 5 0x2000 256 = .ok imageHead ∧ fieldAt imageHead 36 4 = 5 ∧ fieldAt imageHead 40 8 = 256 ∧
    ((loading 0x2000 24).context 5).arg2.toNat % 2 ^ 8 = 24 ∧ ((loading 0x2000 1).context 5).arg2.toNat / 2 ^ 8 % 2 ^ 8 < 4 ∧
    (loading 0x3000 1).frontRead .record 5 0x3000 256 = .fails 0x11 0x3000 :=
  ⟨⟨by decide, by decide +kernel, by decide +kernel⟩, of_gotten (by decide +kernel), by decide +kernel, by decide +kernel, by decide +kernel, by decide +kernel,
   of_turnedAway (by decide +kernel)⟩

/-- Context 5 holds a gang, and a gang of context 6 waits; context 5's block is c, its group g. -/
def sharing (c : Context) (g : Group) : State :=
  { State.reset with
    contexts := [(5, c)], groups := [(user, g)]
    queues := [(0, { level := 0, ctx := 5, enable := true }), (1, { level := 0, ctx := 6, gangs := [8] })]
    launches := [(5, { launch5 with ctx := 5 }), (6, { launch5 with ctx := 6, queue := 1, gangs := [8] })]
    gangs := [(7, { gang7 with placed := true }), (8, { gang7 with launch := 6 })] }
def idle5 : Group := { owned false with waves := [{ regs with idemIn := true }] }
theorem meets_ContextTimers :
    (let s := sharing { slice := 1#32, heldAge := 1023 } (owned false)
     (s.context 5).slice ≠ 0#32 ∧ (s.context 5).stopped = false ∧ s.competitors 5 ≠ [] ∧ (s.context 5).heldAge < 1024 * 1 ∧ s.deadlineAhead 5 = false) ∧
    1024 * 1 ≤ ((sharing { slice := 1#32, heldAge := 1024 } (owned false)).context 5).heldAge ∧
    (let s := sharing { preempting := true } (owned true); s.deadlineAhead 5 = true ∧ s.contextHalted 5 = true) ∧
    (let s := sharing { preempting := true, preemptAge := 1400 * 200 } idle5
     (s.context 5).preempting = true ∧ (s.context 5).d1Done = false ∧ (s.context 5).saveCapable = false ∧ s.contextHalted 5 = false ∧ 1400 * (s.context 5).d1.toNat ≤ (s.context 5).preemptAge ∧
     s.gangs.find? 7 = some { gang7 with placed := true } ∧ s.discardable { gang7 with placed := true } = true ∧ s.gangsDue 5 (1400 * 2000) true = []) ∧
    (sharing {} (owned false)).discardable { gang7 with placed := true } = false ∧
    (let s := sharing { preempting := true, preemptAge := 1400 * 2000 } (owned false)
     s.gangs.find? 7 = some { gang7 with placed := true } ∧ s.launches.find? 5 = some { launch5 with ctx := 5 } ∧ (s.context 5).preempting = true ∧
     1400 * (s.context 5).d2.toNat ≤ (s.context 5).preemptAge ∧ s.deadlineAhead 5 = true ∧ s.contextHalted 5 = false) := by decide +kernel
/-- A team with nobody at its barrier, with a wave that has waited for less than the limit and for as long; samples that are off, not due and due. -/
def watched (t : Team) : State := { State.reset with contexts := [(5, { wdLimit := 1#32 })], launches := [(5, { launch5 with ctx := 5, teams := [t] })] }
def team2 (arrived : List (Nat × Nat)) (age : Nat) : Team := { members := [(0, 0), (1, 0)], arrived := arrived, age := age }
theorem meets_ContextTimers_watchdog :
    (watched (team2 [] 0)).team 5 0 = some (team2 [] 0) ∧ (team2 [] 0).arrived = [] ∧ (watched (team2 [(0, 0)] 1023)).team 5 0 = some (team2 [(0, 0)] 1023) ∧
    (team2 [(0, 0)] 1023).age < 1024 * ((watched (team2 [(0, 0)] 1023)).context 5).wdLimit.toNat ∧
    1024 * ((watched (team2 [(0, 0)] 1024)).context 5).wdLimit.toNat ≤ (team2 [(0, 0)] 1024).age ∧ (team2 [(0, 0)] 1024).logged = false ∧
    ((sharing { traceCfg := 0x10200#32 } (owned false)).context 5).traceCfg.getLsbD 9 = true ∧ (sharing { traceCfg := 0x10200#32 } (owned false)).wavesOn 5 1 ≠ [] ∧
    (sharing {} (owned false)).clk < 0 + 256 * (0x10200 / 2 ^ 16) ∧ 0 + 256 * (0x200 / 2 ^ 16) ≤ (sharing {} (owned false)).clk := by decide +kernel

/-! ## Witnesses: the card -/

/-- A head with a request of clk 0; a port of each state towards card 1; a write of the user's wave under way to card 1. -/
def flipping (clk : Nat) : State := { State.reset with clk := clk, heads := [(0, { requests := [⟨0, 5, 1#256⟩] })] }
def linked (p : Port) (clk : Nat) : State := { State.reset with clk := clk, window := { fabricCfg := 0x10104#32 }, ports := [(0, p)] }
def farWrite : PostedWrite := { write1 with bytes := [(2 ^ 41 + 0x2000, 7#8)] }
theorem meets_PortSteps :
    (((flipping 127).head 0).requests.filter fun r => decide (r.at? + 128 ≤ (flipping 127).clk)) = [] ∧
    (((flipping 128).head 0).requests.filter fun r => decide (r.at? + 128 ≤ (flipping 128).clk)) = [] ++ [⟨0, 5, 1#256⟩] ∧
    ((linked { state := 3 } 0).port 0).state ≠ 1 ∧ ((linked { state := 1 } 0).port 0).state = 1 ∧ ((linked { state := 1, replays := 6 } 0).port 0).replays + 1 < 8 ∧
    8 ≤ ((linked { state := 1, replays := 7 } 0).port 0).replays + 1 ∧ ((linked { state := 2 } 0).port 0).state = 2 ∧
    (let s := linked { state := 2 } (1400 * 2000)
     s.window.fabricCfg.toNat / 2 ^ (16 + 0) % 2 = 1 ∧ s.window.fabricCfg.toNat / 2 ^ (8 + 2 * 0) % 4 = 1 ∧ (s.port 0).state = 2 ∧ (s.port 0).since + 1400 * s.window.linkWindow ≤ s.clk ∧
     (∀ k, k < 4 → s.window.fabricCfg.toNat / 2 ^ (16 + k) % 2 = 1 → k = 0)) ∧
    ¬((linked { state := 2 } (1400 * 2000 - 1)).port 0).since + 1400 * 2000 ≤ 1400 * 2000 - 1 ∧
    (let s := { linked { state := 2 } (1400 * 2000) with posted := [farWrite], serial := 1, groups := [(user, restingGroup)] }
     farWrite ∈ s.posted ∧ farWrite.bytes = (2 ^ 41 + 0x2000, 7#8) :: [] ∧ s.awayCard (2 ^ 41 + 0x2000) = some 1 ∧ farWrite.id ≤ s.serial ∧
     waveOf s user 0 = some { regs with slotA := some pth }) := by decide +kernel

/-- A latch point that a join's deadline has put off; a head that shows a surface, in slice mode before its first slice and at it; one that scans its
first line out. -/
def shown (latches : List (Nat × Nat)) (slice : Nat) (scan : Option Scan) : State :=
  { State.reset with heads := [(0, { surface := some (0, BitVec.ofNat 256 (0x2000 + 2 ^ 64 * 256 + 2 ^ 96 * 64 + 2 ^ 112 * 64 + 2 ^ 128 * 0x18)), latches := latches, slice := slice, scan := scan })] }
def lineScan : Scan := { ctx := 0, surface := BitVec.ofNat 256 (0x2000 + 2 ^ 64 * 256 + 2 ^ 96 * 64 + 2 ^ 112 * 64 + 2 ^ 128 * 0x18), mark := 0, row := 0, line := 0, stop := 64 }
theorem meets_PortSteps_display :
    (∃ x ∈ ((shown [(0, 9)] 0 none).head 0).latches, x.1 ≤ (shown [(0, 9)] 0 none).clk ∧ (shown [(0, 9)] 0 none).clk < x.2) ∧
    ((shown [] 0 none).head 0).latches = [] ∧ ((shown [] 0 none).head 0).surface ≠ none ∧ ((shown [] 0 none).head 0).slice = 0 ∧ ((shown [] 1 none).head 0).slice ≠ 0 ∧
    ((shown [] 0 none).head 0).requests = [] ∧
    ((shown [] 0 (some lineScan)).head 0).scan = some lineScan ∧ lineScan.mark ≤ (shown [] 0 (some lineScan)).writes ∧ surfaceLine lineScan.surface 0 0 = 0x2000 ∧
    (shown [] 0 (some lineScan)).frontAccess (.flip 0) 0 0x2000 1 true false = .ok page2 0x2000 := by decide +kernel

def ailing (h : Health) : State := { State.reset with health := h, groups := [(user, restingGroup)] }
theorem meets_HealthSteps :
    0 ≠ 5 ∧ (Tab.get (0, 0) (ailing {}).health.corrected (rowKey 0 1 2 3)).2 + 1 ≠ 3 ∧
    (let h := { corrected := [(rowKey 0 1 2 3, (0, 2))] : Health }; Tab.get (0, 0) (ailing h).health.corrected (rowKey 0 1 2 3) = (0, 2) ∧ (ailing h).poweredHours = 0 ∧
      Tab.get 0 h.sparesUsed (arrayKey 0 1 2) = 0 ∧ h.toSpare = [] ∧ h.retiredFrames.length < 4096) ∧
    isScratch (((user * 64 + 0) * 32 + 3) * 256 + 9) = false ∧ waveOf (ailing {}) user 0 = some { regs with slotA := some pth } ∧ 2 ∉ [0, 1, 5, 6] ∧
    State.window { ailing {} with window := { spillSize := 0 } } = { spillSize := 0 } ∧ (ailing {}).mappings (0x2000 % 2 ^ 52 / 4096) = [] ∧
    (ailing { poisonedLines := [(0x2000 / 128, 5)] }).health.poisonedLines.find? (0x2000 / 128) = some 5 ∧ (ailing {}).health.poisonedLines.find? 64 ≠ some 5 ∧
    64 * 128 % 2 ^ 52 / 4096 ∉ (ailing { poisonedLines := [(64, 5)] }).health.retiredFrames := by decide +kernel
def powered (hours : Nat) (p : Power) : State := { State.reset with health := { hours := hours }, power := [(0, p)] }
theorem meets_HealthSteps_power :
    (powered 999 {}).poweredHours < ((powered 999 {}).powerOf 0).planned + 1000 ∧ ((powered 1000 {}).powerOf 0).planned + 1000 ≤ (powered 1000 {}).poweredHours ∧
    ((powered 0 { offset := 11 }).powerOf 0).offset < 12 ∧ 12 ≤ ((powered 0 { offset := 12 }).powerOf 0).offset ∧ ((powered 0 { thermal := true }).powerOf 0).thermal = true ∧
    ((powered 0 {}).powerOf 0).thermal = false ∧ (beside false).bankHeld 1 0 = true ∧ State.reset.bankHeld 1 0 = false ∧
    (1 < 96 ∧ (user, restingGroup) ∈ (beside false).groups ∧ user / 16 = 1) ∧ (96 ≤ 96 ∧ ∃ p ∈ (posting [write1] {}).posted, partyDie p.g = 96 - 96) := by decide +kernel

/-- Bank 0 of core 1 is awake and free, for less than 10 µs and for as long. -/
def idleBank (clk : Nat) : State := { State.reset with awakeBanks := [16], bankFreed := [(16, 0)], clk := clk }
theorem meets_HealthSteps_banks :
    (idleBank 13999).bankHeld 1 0 = false ∧ 1 * 16 + 0 ∈ (idleBank 13999).awakeBanks ∧ (idleBank 13999).clk < Tab.get 0 (idleBank 13999).bankFreed 16 + 14000 ∧
    (idleBank 14000).bankHeld 1 0 = false ∧ Tab.get 0 (idleBank 14000).bankFreed 16 + 14000 ≤ (idleBank 14000).clk := by decide +kernel

/-- What boots, and what does not; whether an image verifies is free. -/
def onBus : State := { State.reset with bar0 := some Config.bar0Base }
theorem meets_TrustSteps (image : Nat) :
    0 < 5 ∧ 5 ≤ 5 ∧ onBus.bar0 ≠ none ∧ State.reset.bar0 = none ∧ (onBus.die 0).link = 0 ∧ (onBus.die 0).ready = false ∧
    ((Config.imageVerifies image = true ∧ Config.fusedVersion ≤ Config.imageVersion image) ∨ ¬(Config.imageVerifies image = true ∧ Config.fusedVersion ≤ Config.imageVersion image)) ∧
    (2#32 : BitVec 32) ≠ 1#32 ∧
    (let s := { State.reset with device := { attStatus := 1 } }; s.device.attStatus = 1 ∧ s.quiet frontParty 1024 = true ∧
      State.quiet { s with posted := [{ id := 1, g := frontParty, w := 1024, core := frontCore, tag := 0, bytes := [(0x2000, 1#8)] }] } frontParty 1024 = false) ∧
    (let s := { State.reset with device := { attDest := BitVec.ofNat 64 (2 ^ 52) } }; s.device.attStatus ≠ 1 ∧ s.reach s.device.attDest.toNat = .nothing) ∧
    (let s := { State.reset with device := { attDest := 0x3000#64 } }; s.device.attDest.toNat % 4096 = 0 ∧
      ∀ k, k < 3 → s.reach (s.device.attDest.toNat + 4096 * k) = .gddr s.ownCard (0x3000 + 4096 * k)) :=
  ⟨by decide, by decide, nofun, rfl, by decide, by decide, Decidable.em _, by decide, by decide, by decide +kernel, by decide +kernel⟩

/-! ## Witnesses: the step, words, reset -/

/-- A word placed where the next step fetches, with an agenda, at a clk. -/
def placedAt (word : Nat) (agenda : List Turn) (clk : Nat) : State := { State.reset.withFetchWord 32 word with agenda := agenda, clk := clk }
def placedPath : Path := { pc := 4#32, mask := 0xFFFFFFFF#32, mode := modeStart }
def placedWave : Wave := { lanes := 0xFFFFFFFF#32, live := 0xFFFFFFFF#32, n := 192, slotA := some placedPath }
def placedCtx (s : State) : Ctx :=
  ⟨s, 0, placedGroup, 0, placedWave, false, placedPath,
   { g := 0, w := 0, slotB := false, word := 0#32, code := 0#4, slot := 0, literal := 0#32, next := 0#32, yieldHint := false }⟩
theorem fetches {word : Nat} {agenda : List Turn} {clk : Nat}
    (h : (placedAt word agenda clk).mayIssue 0 placedGroup placedWave false = true ∧ pcAddress (placedCtx (placedAt word agenda clk)) < 2 ^ 64 ∧
      regionOf (pcAddress (placedCtx (placedAt word agenda clk))) = .memory ∧
      (placedAt word agenda clk).fill (placedCtx (placedAt word agenda clk)).codeAsid (pcAddress (placedCtx (placedAt word agenda clk)))
        (controllerOf (placedCtx (placedAt word agenda clk)).codeAsid (pcAddress (placedCtx (placedAt word agenda clk)))) = .ok ⟨0x1000, 12, true, true, false, 0⟩ ∧
      (placedCtx (placedAt word agenda clk)).errorWaits = none ∧ (placedCtx (placedAt word agenda clk)).atStandardHandler = false) :
    Fetches (placedAt word agenda clk) 0 0 false (placedCtx (placedAt word agenda clk)) where
  path := rfl
  may := h.1
  raises := rfl
  served := fun _ h => absurd h List.not_mem_nil
  inSpace := h.2.1
  place := h.2.2.1
  page := ⟨⟨0x1000, 12, true, true, false, 0⟩, h.2.2.2.1, rfl⟩
  sound := h.2.2.2.2.1
  own := h.2.2.2.2.2
/-- IADD in its path's turn, on the picker's choice, in an idle turn; a word that is no instruction; a step of the device; nobody ready. -/
theorem meets_StepRunsTheDecodedInstruction :
    Fetches (placedAt 0x10C4C4C4 [.issue 0 0 false] 0) 0 0 false (placedCtx (placedAt 0x10C4C4C4 [.issue 0 0 false] 0)) ∧
    decodeWord (wordAtPc (placedCtx (placedAt 0x10C4C4C4 [.issue 0 0 false] 0))) = .ok (.iadd (.k 4) (.k 4) (.k 4)) ∧
    pcCause (placedCtx (placedAt 0x10C4C4C4 [.issue 0 0 false] 0)) = none ∧
    Fetches (placedAt 0x10C4C4C4 [] 0) 0 0 false (placedCtx (placedAt 0x10C4C4C4 [] 0)) ∧ (placedAt 0x10C4C4C4 [] 0).choose = some (0, 0, false) ∧
    Fetches (placedAt 0x10C4C4C4 [.idle 1] 64) 0 0 false (placedCtx (placedAt 0x10C4C4C4 [.idle 1] 64)) ∧ (placedAt 0x10C4C4C4 [.idle 1] 64).choose = some (0, 0, false) ∧
    Fetches (placedAt 0x7F000000 [.issue 0 0 false] 0) 0 0 false (placedCtx (placedAt 0x7F000000 [.issue 0 0 false] 0)) ∧
    pcCause (placedCtx (placedAt 0x7F000000 [.issue 0 0 false] 0)) = some (0x01, 0) ∧
    State.reset.agenda = [.event (.firmwareBoot 4)] ∧ State.reset.choose = none :=
  ⟨fetches (by decide +kernel), by decide +kernel, by decide +kernel, fetches (by decide +kernel), by decide +kernel, fetches (by decide +kernel), by decide +kernel,
   fetches (by decide +kernel), by decide +kernel, rfl, by decide +kernel⟩
/-- A slot of each end; a word of each kind. -/
theorem meets_WordCauses :
    1 ≤ 7 ∧ 7 ≤ 7 ∧ NoInstruction 0xE0000000#32 ∧ ¬NoInstruction 0x02050000#32 ∧ privilegedWord 0xDF000000#32 = true ∧ privilegedWord 0x02050000#32 = false ∧
    (0x20000000#32 : Word).toNat / 2 ^ 29 ≠ 0 ∧ (0x1FFFFFFF#32 : Word).toNat / 2 ^ 29 = 0 ∧ decodeWord 0x00000001#32 = .reservedField 1 ∧ decodeWord 0x02050000#32 = .ok (.ldlit (.v 5)) := by
  unfold NoInstruction; decide +kernel
/-- Operands that do not stand, the lowest field alone and each field; a register behind the window; a type the entry does not have; an early read. -/
def paceWave : Wave := { regs with pacecheck := true }
def racing : Path := { pth with inflight := [⟨.v 2, 0xF#32, 1, []⟩] }
theorem meets_OperandCauses :
    PrivilegedForm (.park) ∧ (uc regs pth .reset).privileged = false ∧ Row1 (.iadd (.k 4) (.v 2) (.v 3)) ≠ none ∧
    BadTarget1 (.k 4) (.v 2) (.v 3) ∧ ¬BadTarget1 (.v 4) (.c 15) (.v 3) ∧ BadSource1 (.c 15) ∧ ¬BadSource1 (.v 2) ∧
    (3 : Fin 192).val % 2 = 1 ∧ OddReg (.v 3) ∧ ¬OddReg (.k 4) ∧ 8 ≤ (8#8 : PredField).toNat ∧ (7#8 : PredField).toNat < 8 ∧ wav.n ≤ (64 : Fin 192).val ∧
    (let c := uc paceWave racing .reset; c.w.pacecheck = true ∧ (∃ e ∈ c.p.inflight, 0 < e.left ∧ e.reg = .v 2) ∧ ∀ e ∈ c.p.inflight, 0 < e.left → e.reg = .v 2) :=
  ⟨trivial, by decide, by simp [Row1], Or.inl ⟨4, rfl, .inl (.inl ⟨2, rfl⟩)⟩,
   (fun h => by rcases h with ⟨n, h, _⟩ | ⟨n, h, _⟩ <;> exact absurd h (by simp)),
   ⟨15, rfl, by decide⟩, (fun ⟨_, h, _⟩ => absurd h (by simp)), by decide, (rfl : (3 : Nat) % 2 = 1), (fun h => (show ¬(4 : Nat) % 2 = 1 by decide) h), by decide, by decide, by decide, by decide⟩
theorem meets_OperandCauses_type :
    typedRow (uc regs { pth with mode := 0x018200#24 } .reset) (Instr.sqrt (.v 4) (.v 2)) ≠ none ∧
    modeType (uc regs { pth with mode := 0x018200#24 } .reset).mode = 3 := by decide
/-- A word for the two directions of encoding; an invariant state. -/
theorem meets_DecodeEncodeAgree :
    encode (.mode 0x000200#24) = some 0x01000200#32 ∧ imageOk (.mode 0x000200#24) = true ∧ decodeWord 0x01000200#32 = .ok (.mode 0x000200#24) ∧
    wellFormed modeStart (.mode 0x000200#24) = true := by decide +kernel
theorem meets_MemoryStaysCanonical : Canonical .reset := by unfold Canonical; decide

/-! ## Values from the spec's own examples -/

/-- A term that each check of well-formedness refuses: no instruction word, a reserved mode image, an odd pair, an immediate out of its range. -/
theorem test_wellFormed_refuses_a_step : wellFormed modeStart (.pageWalk 1 2) = false := by decide
theorem test_wellFormed_refuses_a_mode : wellFormed modeStart (.mode 0x000201#24) = false ∧ wellFormed modeStart (.mode 0x080200#24) = false := by decide
theorem test_wellFormed_refuses_an_odd_pair : wellFormed modeStart (.add64 (.v 3) (.v 4) (.v 6)) = false := by decide
theorem test_wellFormed_refuses_a_constant : wellFormed modeStart (.iadd (.c 1) (.v 2) (.v 3)) = false := by decide
theorem test_wellFormed_accepts : wellFormed modeStart (.iadd (.v 4) (.v 2) (.c 8)) = true ∧ wellFormed modeStart (.mode 0x000200#24) = true := by decide

/-- Words that the chapters' examples give. -/
theorem test_decode_typed : decodeWord 0x43040102#32 = .ok (.fma (.v 4) (.v 1) (.v 2)) ∧ decodeWord 0x4CC6C200#32 = .ok (.sqrt (.k 6) (.k 2)) := by decide
theorem test_decode_loads : decodeWord 0x6401C402#32 = .ok (.ld32 (.v 1) (.k 4) (.v 2)) ∧ decodeWord 0x660804E0#32 = .ok (.ld128 (.v 8) (.v 4) (.c 0)) ∧
    decodeWord 0x6BE3C402#32 = .ok (.st32 (.c 3) (.k 4) (.v 2)) := by decide
theorem test_decode_atomics : decodeWord 0x71E00803#32 = .ok (.aadd (.c 0) (.v 8) (.v 3)) ∧ decodeWord 0x7805C406#32 = .ok (.acas (.v 5) (.k 4) (.v 6)) ∧
    decodeWord 0x72020600#32 = .ok (.amin (.v 2) (.v 6) (.v 0)) := by decide
theorem test_decode_caps : decodeWord 0x7AC2C801#32 = .ok (.cap (.k 2) (.k 8) 1#8) ∧ decodeWord 0x7BC2C800#32 = .ok (.uncap (.k 2) (.k 8)) := by decide
theorem test_decode_teams : decodeWord 0x8A030100#32 = .ok (.tredmin (.v 3) (.v 1) 0#8) ∧ decodeWord 0x8F000002#32 = .ok (.waitc 0#8 2#8) ∧
    decodeWord 0x82000081#32 = .ok (.tabort 0x81#8) := by decide
theorem test_decode_futures : decodeWord 0x9501C4C6#32 = .ok (.signal 1#8 (.k 4) (.k 6)) ∧ decodeWord 0x9400C801#32 = .ok (.flip (.k 8) 1#8) ∧
    decodeWord 0x900502C7#32 = .ok (.ldf32 (.v 5) (.v 2) (.k 7)) := by decide
theorem test_decode_tensors : decodeWord 0xA4C20704#32 = .ok (.cpy (.k 2) 7#8 4#8) ∧ decodeWord 0xA8C20507#32 = .ok (.gath (.k 2) 5#8 (.v 7)) ∧
    decodeWord 0xAAC50304#32 = .ok (.tquery (.k 5) 3#8 4#8) := by decide
theorem test_decode_matrix : decodeWord 0xB6060000#32 = .ok (.mdraina 6#8 0#8) ∧ decodeWord 0xB70A02C3#32 = .ok (.mrd (.v 10) 2#8 (.k 3)) := by decide
theorem test_decode_units : decodeWord 0xC2040009#32 = .ok (.tex (.v 4) (.v 0) 9#8) := by decide
theorem test_decode_system : decodeWord 0xD1C3000C#32 = .ok (.rdsr (.k 3) 0x0C#8) ∧ decodeWord 0xD400C4C6#32 = .ok (.tlbinv (.k 4) (.k 6)) ∧
    decodeWord 0xD5000005#32 = .ok (.irq 5#8) ∧ decodeWord 0xD6C2C600#32 = .ok (.haltg (.k 2) (.k 6)) ∧ decodeWord 0xDDC20201#32 = .ok (.homebyp (.k 2) 2#8 1#8) := by decide
theorem test_table_words : decodeTableWord 32 0x43040102 = some (.fma (.v 4) (.v 1) (.v 2)) ∧ decodeTableWord 32 0xE0000000 = none := by decide

/-- Register r of lane 0 after i, with v1, v2 and v3 holding a, b and d there, under a mode image. -/
def holding (a b d : Word) : Wave := { wav with v := [(32, a), (64, b), (96, d)] }
def gives (i : Instr) (m : ModeImage) (w : Wave) (r : Nat) : Option Word :=
  match exec i (onPath user grp w { pth with mode := m } .reset) with
  | .next t => (waveOf t user 0).map fun w => Tab.get 0#32 w.v (vKey r 0)
  | _ => none
/-- Mode images: f32; f16 rtz, rne, and rne with `sat`; i8x4 with `sat` and without; f8e4x4 (R133). -/
def image (type round sat : Nat) : ModeImage := BitVec.ofNat 24 (type * 2 ^ 15 + round * 2 ^ 12 + sat * 2 ^ 11 + 0x200)
/-- R154: a = 0xFFFF_FFFF and b = 2. -/
theorem test_imul : gives (.imul (.v 3) (.v 1) (.v 2)) modeStart (holding 0xFFFFFFFF#32 2#32 0#32) 3 = some 0xFFFFFFFE#32 := by decide +kernel
theorem test_imulhi : gives (.imulhi (.v 3) (.v 1) (.v 2)) modeStart (holding 0xFFFFFFFF#32 2#32 0#32) 3 = some 0xFFFFFFFF#32 := by decide +kernel
theorem test_nmulhi : gives (.nmulhi (.v 3) (.v 1) (.v 2)) modeStart (holding 0xFFFFFFFF#32 2#32 0#32) 3 = some 1#32 := by decide +kernel
theorem test_sar : gives (.sar (.v 3) (.v 1) (.v 2)) modeStart (holding 0x80000000#32 33#32 0#32) 3 = some 0xC0000000#32 := by decide +kernel
/-- R155. -/
theorem test_bfx : gives (.bfx (.v 3) (.v 1) (.v 2)) modeStart (holding 0xDEADBEEF#32 0x1FC#32 0#32) 3 = some 0xD#32 := by decide +kernel
theorem test_bfi : gives (.bfi (.v 3) (.v 1) (.v 2)) modeStart (holding 5#32 0x4E#32 0xFFFFFFFF#32) 3 = some 0xFFFF7FFF#32 := by decide +kernel
/-- R166: a = b = 1 + 2^−12, d = −(1 + 2^−11). -/
theorem test_fma : gives (.fma (.v 3) (.v 1) (.v 2)) modeStart (holding 0x3F800800#32 0x3F800800#32 0xBF801000#32) 3 = some 0x33800000#32 := by decide +kernel
theorem test_mul_rounds : gives (.mulT (.v 3) (.v 1) (.v 2)) modeStart (holding 0x3F800800#32 0x3F800800#32 0#32) 3 = some 0x3F801000#32 := by decide +kernel
/-- R75: 300.4 to i16 in rne and in rup; 65,520.0 to f16 in rtz, in rne, and in rne with `sat` (R173). -/
theorem test_cvt_integer : gives (.cvt (.v 3) (.v 1) 0#8) (image 6 0 0) (holding 0x43963333#32 0#32 0#32) 3 = some 300#32 ∧
    gives (.cvt (.v 3) (.v 1) 0#8) (image 6 2 0) (holding 0x43963333#32 0#32 0#32) 3 = some 301#32 := by decide +kernel
theorem test_cvt_float : gives (.cvt (.v 3) (.v 1) 0#8) (image 1 1 0) (holding 0x477FF000#32 0#32 0#32) 3 = some 0x7BFF#32 ∧
    gives (.cvt (.v 3) (.v 1) 0#8) (image 1 0 0) (holding 0x477FF000#32 0#32 0#32) 3 = some 0x7C00#32 ∧
    gives (.cvt (.v 3) (.v 1) 0#8) (image 1 0 1) (holding 0x477FF000#32 0#32 0#32) 3 = some 0x7BFF#32 := by decide +kernel
/-- R174. -/
theorem test_pack : gives (.pack (.v 3) (.v 1) (.v 2)) (image 14 0 1) (holding 0x0190FF00#32 0x0005FFFF#32 0#32) 3 = some 0x05FF7F80#32 ∧
    gives (.pack (.v 3) (.v 1) (.v 2)) (image 14 0 0) (holding 0x0190FF00#32 0x0005FFFF#32 0#32) 3 = some 0x05FF9000#32 := by decide +kernel
/-- R177: four times 1.0 against −1.0, 2.0, 1.0, 0.5, and d = 0.25. -/
theorem test_dot4 : gives (.dot4 (.v 3) (.v 1) (.v 2)) (image 3 0 0) (holding 0x38383838#32 0x303840B8#32 0x3E800000#32) 3 = some 0x40300000#32 := by decide +kernel
/-- R83: the two roundings of a block's entry into the accumulator, rne and rtz. -/
theorem test_block_add : blockAdd ⟨0, false, false, none⟩ 0x4B800000 5 (127 * 4096 + 4095) (127 * 4096 + 4095) = 0x4B80000A ∧
    blockAdd ⟨1, false, false, none⟩ 0x4B800000 5 (127 * 4096 + 4095) (127 * 4096 + 4095) = 0x4B800009 := by decide +kernel
/-- R87: 100 and 0.75 in one block. -/
theorem test_quantise : quantise 127 (.fin false 100 1 :: .fin false 3 4 :: List.replicate 30 (.fin false 0 1)) =
    (126 * 4096 + 2355, 127 :: 1 :: List.replicate 30 0) := by decide +kernel
/-- R133: MODE takes effect; R140: a NOP goes on to the next word. -/
theorem test_mode : (match exec (.mode 0x018200#24) (onPath user grp wav pth .reset) with
    | .next t => (waveOf t user 0).bind fun w => (w.slot false).map fun p => (p.mode, p.pc)
    | _ => none) = some (0x018200#24, 8#32) := by decide
/-- The comb and the words of the worked example of "Edbel assembly": the codes of its control words. -/
theorem test_slot_codes : slotCode 0x00000300#32 3 = 3#4 ∧ slotCode 0x00000300#32 1 = 0#4 ∧ slotCode 0x00333803#32 1 = 3#4 ∧ slotCode 0x00333803#32 3 = 8#4 ∧
    slotCode 0x00333803#32 7 = 0#4 := by decide
/-- R400, R448: the first step after device reset boots the base die, and no path stands anywhere before firmware starts. -/
theorem test_first_step : State.reset.agenda = [.event (.firmwareBoot 4)] ∧ State.reset.groups = [] := by decide
/-- A word placed for the next fetch runs: k4 doubles. -/
theorem test_placed_word : (match step ((State.reset.withFetchWord 32 0x10C4E1E1)) with
    | .next t => (waveOf t 0 0).map fun w => Tab.get 0#32 w.k 4
    | _ => none) = some 2#32 := by decide +kernel

end Sys2Proof.Tests
end

section
/-!
PROOFS. Integer, bit and 64-bit instructions (O1; R153 to R155): the machine's words against their numbers, and the rows.
-/

namespace Sys2Proof.Claims

open Machine

/-! ## Words as numbers (R139) -/

theorem sgn_eq_toInt (a : Word) : sgn a = a.toInt := by
  have := a.isLt
  rw [sgn, BitVec.toInt_eq_toNat_cond]
  split <;> split <;> omega

/-- A bit vector's value is its signed value modulo 2^n. -/
theorem toNat_eq_toInt_emod {n : Nat} (a : BitVec n) : (a.toNat : Int) = a.toInt % (2 ^ n : Nat) := by
  rw [BitVec.toInt_eq_toNat_bmod, Int.bmod_emod]
  exact (Int.emod_eq_of_lt (by omega) (by exact_mod_cast a.isLt)).symm

/-! ## Row 0x1 (R153) -/

theorem toNat_isub (a b : Word) : ((a - b).toNat : Int) = ((a.toNat : Int) - b.toNat) % 2 ^ 32 := by
  have := a.isLt
  have := b.isLt
  rw [BitVec.toNat_sub]
  omega

/-- IMULHI's word is bits [63:32] of the signed product, whose lower 64 bits the machine computes. -/
theorem toNat_mulHighSigned (a b : Word) : ((mulHighSigned a b).toNat : Int) = sgn a * sgn b / 2 ^ 32 % 2 ^ 32 := by
  have hext (x : Word) : (x.signExtend 64).toInt = sgn x := by
    rw [sgn_eq_toInt, BitVec.toInt_signExtend_of_le (by omega)]
  have hprod : ((a.signExtend 64 * b.signExtend 64).toNat : Int) = sgn a * sgn b % 2 ^ 64 := by
    rw [toNat_eq_toInt_emod, BitVec.toInt_mul, hext, hext]
    exact Int.bmod_emod
  rw [mulHighSigned, BitVec.extractLsb'_toNat, Nat.shiftRight_eq_div_pow]
  generalize sgn a * sgn b = p at *
  push_cast
  omega

theorem toNat_mulHigh (a b : Word) : (mulHigh a b).toNat = a.toNat * b.toNat / 2 ^ 32 := by
  have hlt : a.toNat * b.toNat < 2 ^ 32 * 2 ^ 32 := Nat.mul_lt_mul'' a.isLt b.isLt
  have ha := a.isLt
  have hb := b.isLt
  rw [mulHigh, BitVec.extractLsb'_toNat, Nat.shiftRight_eq_div_pow, BitVec.toNat_mul, BitVec.toNat_setWidth, BitVec.toNat_setWidth,
    Nat.mod_eq_of_lt (by omega : a.toNat < 2 ^ 64), Nat.mod_eq_of_lt (by omega : b.toNat < 2 ^ 64)]
  omega

theorem sgn_sshiftRight (a : Word) (n : Nat) : sgn (a.sshiftRight n) = sgn a / 2 ^ n := by
  rw [sgn_eq_toInt, sgn_eq_toInt, BitVec.toInt_sshiftRight, Int.shiftRight_eq_div_pow]
  push_cast
  rfl

theorem sle_iff_sgn_le (a b : Word) : a.sle b = true ↔ sgn a ≤ sgn b := by
  rw [sgn_eq_toInt, sgn_eq_toInt, BitVec.sle_iff_toInt_le]

theorem signedMin_spec (a b : Word) :
    ((if a.sle b then a else b) = a ∨ (if a.sle b then a else b) = b) ∧ sgn (if a.sle b then a else b) = min (sgn a) (sgn b) := by
  simp only [sle_iff_sgn_le]
  split
  · exact ⟨.inl rfl, (min_eq_left ‹_›).symm⟩
  · exact ⟨.inr rfl, (min_eq_right (by omega)).symm⟩

theorem signedMax_spec (a b : Word) :
    ((if a.sle b then b else a) = a ∨ (if a.sle b then b else a) = b) ∧ sgn (if a.sle b then b else a) = max (sgn a) (sgn b) := by
  simp only [sle_iff_sgn_le]
  split
  · exact ⟨.inr rfl, (max_eq_right ‹_›).symm⟩
  · exact ⟨.inl rfl, (max_eq_left (by omega)).symm⟩

theorem toNat_unsignedMin (a b : Word) : (if a.ule b then a else b).toNat = min a.toNat b.toNat := by
  simp only [BitVec.ule_iff_toNat_le]
  split <;> omega

theorem toNat_unsignedMax (a b : Word) : (if a.ule b then b else a).toNat = max a.toNat b.toNat := by
  simp only [BitVec.ule_iff_toNat_le]
  split <;> omega

/-! ## Bits (R154, R155) -/

theorem toNat_popCount (a : Word) : (popCount a).toNat = ((List.range 32).filter fun i => a.getLsbD i).length := by
  have hle : (lanesOf a).length ≤ 32 := (List.length_filter_le ..).trans_eq List.length_range
  rw [popCount, BitVec.toNat_ofNat, Nat.mod_eq_of_lt (by omega)]
  rfl

/-- The last lane of a set holds its bit, and no higher lane does. -/
theorem getLast?_lanesOf {a : Word} {i : Nat} (h : (lanesOf a).getLast? = some i) :
    i < 32 ∧ a.getLsbD i = true ∧ ∀ j, i < j → j < 32 → a.getLsbD j = false := by
  obtain ⟨l, hl⟩ := List.getLast?_eq_some_iff.1 h
  have hi : i < 32 ∧ a.getLsbD i = true := mem_lanesOf.1 (by simp [hl])
  refine ⟨hi.1, hi.2, fun j hij hj => Bool.eq_false_iff.2 fun hb => ?_⟩
  have hsorted : (lanesOf a).Pairwise (· < ·) := List.pairwise_lt_range.filter _
  rw [hl, List.pairwise_append] at hsorted
  have hmem : j ∈ l ++ [i] := hl ▸ mem_lanesOf.2 ⟨hj, hb⟩
  rcases List.mem_append.1 hmem with hm | hm
  · exact absurd (hsorted.2.2 j hm i (by simp)) (by omega)
  · exact absurd (List.mem_singleton.1 hm) (by omega)

theorem leadingZeros_spec (a : Word) :
    (leadingZeros a).toNat ≤ 32 ∧ (∀ i, i < 32 → 32 ≤ i + (leadingZeros a).toNat → a.getLsbD i = false) ∧
      ((leadingZeros a).toNat < 32 → a.getLsbD (31 - (leadingZeros a).toNat) = true) := by
  cases h : (lanesOf a).getLast? with
  | none =>
    have hz : (leadingZeros a).toNat = 32 := by simp [leadingZeros, h]
    have hnone := List.getLast?_eq_none_iff.1 h
    refine ⟨by omega, fun i hi _ => Bool.eq_false_iff.2 fun hb => ?_, fun hlt => by omega⟩
    exact absurd (mem_lanesOf.2 ⟨hi, hb⟩) (by simp [hnone])
  | some n =>
    obtain ⟨hn, hbit, hhigh⟩ := getLast?_lanesOf h
    have hz : (leadingZeros a).toNat = 31 - n := by
      simp only [leadingZeros, h, BitVec.toNat_ofNat]
      omega
    rw [hz]
    refine ⟨by omega, fun i hi hge => hhigh i (by omega) hi, fun _ => ?_⟩
    rwa [show 31 - (31 - n) = n by omega]

theorem getLsbD_bitReverse (a : Word) (i : Nat) (hi : i < 32) : (bitReverse a).getLsbD i = a.getLsbD (31 - i) := by
  rw [bitReverse, laneSet_getLsbD, decide_eq_true hi, Bool.true_and]

theorem fieldPos_eq (b : Word) : fieldPos b = b.toNat % 32 := (extract_toNat b 0 5).trans (by simp)
theorem fieldWidth_eq (b : Word) : fieldWidth b = b.toNat / 32 % 32 + 1 := congrArg (· + 1) (extract_toNat b 5 5)

theorem toNat_bitField (a b : Word) :
    (Machine.bitField a b).toNat = a.toNat / 2 ^ (b.toNat % 32) % 2 ^ (b.toNat / 32 % 32 + 1) := by
  rw [Machine.bitField, fieldPos_eq, fieldWidth_eq, BitVec.toNat_ofNat]
  exact Nat.mod_eq_of_lt ((Nat.mod_le ..).trans_lt ((Nat.div_le_self ..).trans_lt a.isLt))

theorem getLsbD_fieldMask (b : Word) (i : Nat) (hi : i < 32) :
    (fieldMask b).getLsbD i = decide (fieldPos b ≤ i ∧ i < fieldPos b + fieldWidth b) := by
  rw [fieldMask, BitVec.getLsbD_ofNat, Nat.testBit_mul_two_pow, Nat.testBit_two_pow_sub_one]
  simp only [hi, decide_true, Bool.true_and, ← Bool.decide_and]
  exact decide_eq_decide.2 (by omega)

theorem getLsbD_insertField (a b d : Word) (i : Nat) (hi : i < 32) : (insertField a b d).getLsbD i =
    if b.toNat % 32 ≤ i ∧ i < b.toNat % 32 + (b.toNat / 32 % 32 + 1) then a.getLsbD (i - b.toNat % 32) else d.getLsbD i := by
  rw [← fieldPos_eq, ← fieldWidth_eq, insertField, BitVec.getLsbD_or, BitVec.getLsbD_and, BitVec.getLsbD_and, BitVec.getLsbD_not,
    getLsbD_fieldMask b i hi, BitVec.getLsbD_shiftLeft]
  by_cases h : fieldPos b ≤ i ∧ i < fieldPos b + fieldWidth b
  · simp [h, hi]
  · simp [h, hi]

/-! ## Instructions that put their results into lanes of S -/

/-- An instruction whose meaning puts a word into lanes of D writes those, and nothing else. -/
theorem exec_put {i : Instr} {legal : ModeImage → Bool} {d : Reg} {lanes : LaneMask} {f : Nat → Word} {body : Ctx → Res} {s : State} {c : Ctx}
    (hx : exec i s = issue i legal s body) (hb : body c = .done (c.put d lanes f)) (h : Issues i legal s c) :
    ∃ (t : State) (w : Wave), exec i s = .next t ∧ Completed c c.cur.next t w ∧ WritesRun c.w w d 1 lanes fun _ l => f l := by
  obtain ⟨t, w, ht, hc, hw⟩ := issue_registers h hb (.put ..)
  exact ⟨t, w, hx.trans ht, hc, (WritesRun.put ..).congr hw⟩

/-- An instruction whose meaning puts bits into lanes of a predicate writes those, and nothing else. -/
theorem exec_putQ {i : Instr} {legal : ModeImage → Bool} {q : PredField} {lanes : LaneMask} {f : Nat → Bool} {body : Ctx → Res} {s : State}
    {c : Ctx} (hx : exec i s = issue i legal s body) (hb : body c = .done (c.putQ q lanes f)) (h : Issues i legal s c) :
    ∃ (t : State) (w : Wave), exec i s = .next t ∧ Completed c c.cur.next t w ∧ WritesPred c.w w q lanes f := by
  obtain ⟨t, w, ht, hc, hw⟩ := issue_registers h hb (.putQ ..)
  exact ⟨t, w, hx.trans ht, hc, (WritesPred.putQ ..).congr hw⟩

/-! ## Instructions of three registers -/

/-- An instruction whose meaning is `intOp` writes its word to every lane of S of D, and nothing else. -/
theorem exec_intOp {i : Instr} {d a b : Reg} {f : Word → Word → Word → Word} (hx : ∀ s, exec i s = intOp i d a b f s) {s : State} {c : Ctx}
    (h : Issues i anyType s c) :
    ∃ (t : State) (w : Wave), exec i s = .next t ∧ Completed c c.cur.next t w ∧
      WritesRun c.w w d 1 c.S fun _ l => f (c.val a l) (c.val b l) (c.val d l) :=
  exec_put (hx s) rfl h

/-- A row of three-register instructions whose words satisfy what the row says of them. -/
theorem resultRow_of_intOp {row : Instr → Option (Reg × Reg × Reg × (Word → Word → Word → Word → Prop))}
    (hrow : ∀ {i d a b R}, row i = some (d, a, b, R) → ∃ f, (∀ s, exec i s = intOp i d a b f s) ∧ ∀ x y z, R x y z (f x y z)) :
    ResultRow row := by
  intro i d a b R hi s c h
  obtain ⟨f, hx, hR⟩ := hrow hi
  obtain ⟨t, w, ht, hc, hw⟩ := exec_intOp hx h
  exact ⟨t, w, _, ht, hc, hw, fun l => hR ..⟩

theorem row1_intOp {i : Instr} {d a b : Reg} {R : Word → Word → Word → Word → Prop} (h : Row1 i = some (d, a, b, R)) :
    ∃ f, (∀ s, exec i s = intOp i d a b f s) ∧ ∀ x y z, R x y z (f x y z) := by
  unfold Row1 at h
  split at h <;> cases h
  case h_1 => exact ⟨fun a b _ => a + b, fun _ => rfl, fun x y _ => BitVec.toNat_add x y⟩
  case h_2 => exact ⟨fun a b _ => a - b, fun _ => rfl, fun x y _ => toNat_isub x y⟩
  case h_3 => exact ⟨fun a b _ => a * b, fun _ => rfl, fun x y _ => BitVec.toNat_mul x y⟩
  case h_4 => exact ⟨fun a b _ => mulHighSigned a b, fun _ => rfl, fun x y _ => toNat_mulHighSigned x y⟩
  case h_5 => exact ⟨fun a b _ => mulHigh a b, fun _ => rfl, fun x y _ => toNat_mulHigh x y⟩
  case h_6 => exact ⟨fun a b d => a * b + d, fun _ => rfl, fun x y z => by simp [BitVec.toNat_add, BitVec.toNat_mul]⟩
  case h_7 => exact ⟨fun a b _ => a <<< shiftCount b, fun _ => rfl, fun x y _ => by simp [shiftCount, BitVec.toNat_shiftLeft, Nat.shiftLeft_eq]⟩
  case h_8 =>
    exact ⟨fun a b _ => a >>> shiftCount b, fun _ => rfl, fun x y _ => by
      simp [shiftCount, BitVec.toNat_ushiftRight, Nat.shiftRight_eq_div_pow]⟩
  case h_9 => exact ⟨fun a b _ => a.sshiftRight (shiftCount b), fun _ => rfl, fun x y _ => sgn_sshiftRight x _⟩
  case h_10 => exact ⟨fun a b _ => a &&& b, fun _ => rfl, fun x y _ i _ => BitVec.getLsbD_and⟩
  case h_11 => exact ⟨fun a b _ => a ||| b, fun _ => rfl, fun x y _ i _ => BitVec.getLsbD_or⟩
  case h_12 => exact ⟨fun a b _ => a ^^^ b, fun _ => rfl, fun x y _ i _ => BitVec.getLsbD_xor⟩
  case h_13 => exact ⟨fun a b _ => if a.sle b then a else b, fun _ => rfl, fun x y _ => signedMin_spec x y⟩
  case h_14 => exact ⟨fun a b _ => if a.sle b then b else a, fun _ => rfl, fun x y _ => signedMax_spec x y⟩
  case h_15 => exact ⟨fun a b _ => if a.ule b then a else b, fun _ => rfl, fun x y _ => toNat_unsignedMin x y⟩
  case h_16 => exact ⟨fun a b _ => if a.ule b then b else a, fun _ => rfl, fun x y _ => toNat_unsignedMax x y⟩

theorem bits1_intOp {i : Instr} {d a b : Reg} {R : Word → Word → Word → Word → Prop} (h : Bits1 i = some (d, a, b, R)) :
    ∃ f, (∀ s, exec i s = intOp i d a b f s) ∧ ∀ x y z, R x y z (f x y z) := by
  unfold Bits1 at h
  split at h <;> cases h
  case h_1 => exact ⟨fun a _ _ => popCount a, fun _ => rfl, fun x _ _ => toNat_popCount x⟩
  case h_2 => exact ⟨fun a _ _ => leadingZeros a, fun _ => rfl, fun x _ _ => leadingZeros_spec x⟩
  case h_3 => exact ⟨fun a _ _ => bitReverse a, fun _ => rfl, fun x _ _ => getLsbD_bitReverse x⟩
  case h_4 => exact ⟨fun a b _ => Machine.bitField a b, fun _ => rfl, fun x y _ => toNat_bitField x y⟩
  case h_5 => exact ⟨insertField, fun _ => rfl, fun x y z => getLsbD_insertField x y z⟩

/-! ## Instructions on pairs (R154) -/

/-- An instruction whose meaning is `pairOp` writes its value to every lane of S of the pair D, and nothing else. -/
theorem exec_pairOp {i : Instr} {d : Reg} {f : Ctx → Nat → DWord} (hx : ∀ s, exec i s = pairOp i d f s) {s : State} {c : Ctx}
    (h : Issues i anyType s c) :
    ∃ (t : State) (w : Wave), exec i s = .next t ∧ Completed c c.cur.next t w ∧ WritesRun c.w w d 2 c.S (halves (f c)) := by
  obtain ⟨t, w, ht, hc, hw⟩ := issue_registers h (body := fun c => .done (c.put64 d c.S (f c))) rfl (.put64 ..)
  exact ⟨t, w, (hx s).trans ht, hc, (WritesRun.put64 ..).congr hw⟩

theorem pair2_pairOp {i : Instr} {c : Ctx} {d : Reg} {F : Nat → Nat} (h : Pair2 c i = some (d, F)) :
    ∃ f : Ctx → Nat → DWord, (∀ s, exec i s = pairOp i d f s) ∧ f c = fun l => BitVec.ofNat 64 (F l) := by
  unfold Pair2 at h
  split at h <;> cases h
  case h_1 => exact ⟨_, fun _ => rfl, funext fun l => BitVec.eq_of_toNat_eq (by simp)⟩
  case h_2 a b =>
    refine ⟨_, fun _ => rfl, funext fun l => BitVec.eq_of_toNat_eq ?_⟩
    have := (c.val64 b l).isLt
    rw [BitVec.toNat_sub, BitVec.toNat_ofNat, Nat.mod_mod]
    congr 1
    omega
  case h_3 a b =>
    refine ⟨_, fun _ => rfl, funext fun l => BitVec.eq_of_toNat_eq ?_⟩
    have widen (x : Word) : (x.setWidth 64).toNat = x.toNat := by
      have := x.isLt
      rw [BitVec.toNat_setWidth, Nat.mod_eq_of_lt (by omega)]
    rw [BitVec.toNat_add, BitVec.toNat_mul, widen, widen, BitVec.toNat_ofNat, Nat.add_mod_mod, Nat.mod_mod]

end Sys2Proof.Claims

open Sys2Proof Sys2Proof.Claims in
/-- Settles O1: each row's instructions are `intOp` or `pairOp` of a word that satisfies the row. -/
theorem integerResults : Obligations.IntegerResults := by
  refine ⟨resultRow_of_intOp row1_intOp, resultRow_of_intOp bits1_intOp, fun i s c d F h hi => ?_⟩
  obtain ⟨f, hx, hf⟩ := pair2_pairOp hi
  exact hf ▸ exec_pairOp hx h
end

section
/-!
PROOFS. Lane operations, integer compares and predicate operations (O2; R157, R159).
-/

namespace Sys2Proof.Claims

open Machine

/-! ## Lane operations (R157, R159) -/

theorem laneRow_body {i : Instr} {c : Ctx} {d : Reg} {lanes : LaneMask} {f : Nat → Word} (h : LaneRow c i = some (d, lanes, f)) :
    ∃ body, (∀ s, exec i s = issue i anyType s body) ∧ body c = .done (c.put d lanes f) := by
  unfold LaneRow at h
  split at h <;> cases h <;> exact ⟨_, fun _ => rfl, rfl⟩

/-! ## Compares and predicates (R159) -/

/-- What a compare says of two words. -/
theorem intCompare_holds (cmp : IntCompare) (a b : Word) : cmp.holds a b = true ↔
    match cmp with
    | .eq => a.toNat = b.toNat
    | .ne => a.toNat ≠ b.toNat
    | .slt => sgn a < sgn b
    | .sle => sgn a ≤ sgn b
    | .ult => a.toNat < b.toNat
    | .ule => a.toNat ≤ b.toNat := by
  cases cmp with
  | eq => simp only [IntCompare.holds, beq_iff_eq, BitVec.toNat_inj]
  | ne => simp only [IntCompare.holds, bne_iff_ne, ne_eq, BitVec.toNat_inj]
  | slt => rw [IntCompare.holds, BitVec.slt_iff_toInt_lt, sgn_eq_toInt, sgn_eq_toInt]
  | sle => exact sle_iff_sgn_le a b
  | ult => exact BitVec.ult_iff_toNat_lt
  | ule => exact BitVec.ule_iff_toNat_le

theorem bne_zero_iff_toNat (a : Word) : (a != 0#32) = true ↔ a.toNat ≠ 0 := by
  rw [bne_iff_ne, ne_eq, ← BitVec.toNat_inj]; rfl

theorem getLsbD_nonzero (c : Ctx) (a : Reg) (j : Nat) (hj : j < 32) :
    (c.nonzero a).getLsbD j = true ↔ c.S.getLsbD j = true ∧ (c.val a j).toNat ≠ 0 := by
  rw [Ctx.nonzero, laneSet_getLsbD, decide_eq_true hj, Bool.true_and, Bool.and_eq_true, bne_zero_iff_toNat]

/-- VANY's bit. -/
theorem nonzero_ne_zero_iff (c : Ctx) (a : Reg) :
    (c.nonzero a != 0#32) = true ↔ ∃ j, j < 32 ∧ c.S.getLsbD j = true ∧ (c.val a j).toNat ≠ 0 := by
  rw [bne_iff_ne, ne_eq, BitVec.eq_of_getLsbD_eq_iff]
  constructor
  · intro h
    obtain ⟨j, h⟩ := not_forall.1 h
    obtain ⟨hj, hb⟩ := Classical.not_imp.1 h
    exact ⟨j, hj, (getLsbD_nonzero c a j hj).1 (by simpa using hb)⟩
  · rintro ⟨j, hj, hb⟩ h
    have := (getLsbD_nonzero c a j hj).2 hb
    rw [h j hj] at this
    simp at this

/-- VALL's bit. -/
theorem nonzero_eq_S_iff (c : Ctx) (a : Reg) :
    (c.nonzero a == c.S) = true ↔ ∀ j, j < 32 → c.S.getLsbD j = true → (c.val a j).toNat ≠ 0 := by
  rw [beq_iff_eq, BitVec.eq_of_getLsbD_eq_iff]
  refine forall₂_congr fun j hj => ?_
  rw [Bool.eq_iff_iff, getLsbD_nonzero c a j hj]
  exact ⟨fun h hs => (h.2 hs).2, fun h => ⟨fun hs => hs.1, fun hs => ⟨hs, h hs⟩⟩⟩

theorem row3_body {i : Instr} {c : Ctx} {q : PredField} {R : Nat → Bool → Prop} (h : Row3 c i = some (q, R)) :
    ∃ body f, (∀ s, exec i s = issue i anyType s body) ∧ body c = .done (c.putQ q c.S f) ∧ ∀ l, R l (f l) := by
  unfold Row3 at h
  split at h <;> cases h
  case h_1 => exact ⟨_, _, fun _ => rfl, rfl, fun l => intCompare_holds .eq ..⟩
  case h_2 => exact ⟨_, _, fun _ => rfl, rfl, fun l => intCompare_holds .ne ..⟩
  case h_3 => exact ⟨_, _, fun _ => rfl, rfl, fun l => intCompare_holds .slt ..⟩
  case h_4 => exact ⟨_, _, fun _ => rfl, rfl, fun l => intCompare_holds .sle ..⟩
  case h_5 => exact ⟨_, _, fun _ => rfl, rfl, fun l => intCompare_holds .ult ..⟩
  case h_6 => exact ⟨_, _, fun _ => rfl, rfl, fun l => intCompare_holds .ule ..⟩
  case h_7 => exact ⟨_, _, fun _ => rfl, rfl, fun l => rfl⟩
  case h_8 => exact ⟨_, _, fun _ => rfl, rfl, fun l => rfl⟩
  case h_9 => exact ⟨_, _, fun _ => rfl, rfl, fun l => rfl⟩
  case h_10 => exact ⟨_, _, fun _ => rfl, rfl, fun l => bne_zero_iff_toNat _⟩
  case h_11 a => exact ⟨_, _, fun _ => rfl, rfl, fun l => nonzero_ne_zero_iff c a⟩
  case h_12 a => exact ⟨_, _, fun _ => rfl, rfl, fun l => nonzero_eq_S_iff c a⟩

end Sys2Proof.Claims

open Sys2Proof Sys2Proof.Claims in
/-- Settles O2: each instruction of the tables puts into the lanes that R157 and R159 name the values they give. -/
theorem laneAndPredicateResults : Obligations.LaneAndPredicateResults := by
  refine ⟨fun i s c d lanes f h hi => ?_, fun i s c q R h hi => ?_⟩
  · obtain ⟨body, hx, hb⟩ := laneRow_body hi
    exact exec_put (hx s) hb h
  · obtain ⟨body, f, hx, hb, hR⟩ := row3_body hi
    obtain ⟨t, w, ht, hc, hw⟩ := exec_putQ (hx s) hb h
    exact ⟨t, w, f, ht, hc, hw, hR⟩
end

section
/-!
PROOFS. The trap frame (R356): its fields read back from the save slot.
-/

namespace Sys2Proof.Machine

/-! ## Fields packed into a number -/

/-- Fields (width, value) side by side, the first one lowest. -/
def packFields : List (Nat × Nat) → Nat
  | [] => 0
  | (n, x) :: r => x + 2 ^ n * packFields r

/-- A field that fits its width is read back from its place. -/
theorem bitsOf_packFields {n x : Nat} : {fs : List (Nat × Nat)} → {i lo : Nat} → (∀ f ∈ fs, f.2 < 2 ^ f.1) → fs[i]? = some (n, x) →
    ((fs.take i).map Prod.fst).sum = lo → bitsOf (packFields fs) lo n = x
  | [], _, _, _, hi, _ => by simp at hi
  | (m, y) :: r, 0, lo, h, hi, hlo => by
    obtain ⟨rfl, rfl⟩ : m = n ∧ y = x := by simpa using hi
    have hlo : lo = 0 := by simpa using hlo.symm
    have hy : y < 2 ^ m := h (m, y) (List.mem_cons_self ..)
    rw [hlo, bitsOf, packFields, pow_zero, Nat.div_one, Nat.add_mul_mod_self_left, Nat.mod_eq_of_lt hy]
  | (m, y) :: r, i + 1, lo, h, hi, hlo => by
    have hlo : lo = m + ((r.take i).map Prod.fst).sum := by simpa using hlo.symm
    have hy : y < 2 ^ m := h (m, y) (List.mem_cons_self ..)
    have ih := bitsOf_packFields (fun f hf => h f (List.mem_cons_of_mem _ hf)) (by simpa using hi : r[i]? = some (n, x)) rfl
    rw [hlo, bitsOf, packFields, pow_add, ← Nat.div_div_eq_div_mul, Nat.add_mul_div_left _ _ (by positivity), Nat.div_eq_of_lt hy,
      Nat.zero_add]
    exact ih

/-! ## Bytes in the save slot -/

@[simp] theorem length_natBytes : (n x : Nat) → (natBytes n x).length = n
  | 0, _ => rfl
  | n + 1, x => by rw [natBytes, List.length_cons, length_natBytes]

theorem bytesNat_natBytes : (n x : Nat) → bytesNat (natBytes n x) = x % 256 ^ n
  | 0, x => by rw [natBytes, bytesNat, pow_zero, Nat.mod_one]
  | n + 1, x => by
    rw [natBytes, bytesNat, bytesNat_natBytes, BitVec.toNat_ofNat, pow_succ' 256, Nat.mod_mul]

theorem placed_ge : {base : Nat} → {bs : List Byte} → ∀ x ∈ placed base bs, base ≤ x.1
  | _, [], _, h => nomatch h
  | base, b :: bs, x, h => by
    rcases List.mem_cons.1 h with rfl | h
    · exact Nat.le_refl _
    · exact Nat.le_of_succ_le (placed_ge x h)

/-- Bytes written one behind the other read back. -/
theorem get_putAll_placed (d : Byte) : {bs : List Byte} → (t : Tab Byte) → (base i : Nat) → (hi : i < bs.length) →
    Tab.get d (Tab.putAll d t (placed base bs)) (base + i) = bs[i]
  | b :: bs, t, base, 0, _ => by
    rw [placed, Tab.putAll, Nat.add_zero, Tab.get_putAll_other _ _ _ _ fun x hx => by have := placed_ge x hx; omega]
    exact Tab.get_put_self ..
  | b :: bs, t, base, i + 1, hi => by
    have ih := get_putAll_placed d (t.put d base b) (base + 1) i (Nat.lt_of_succ_lt_succ hi)
    rw [placed, Tab.putAll, List.getElem_cons_succ, ← ih]
    congr 1
    omega

theorem frameBits_congr {w u : Wave} (h : w.save = u.save) (base lo n : Nat) : w.frameBits base lo n = u.frameBits base lo n := by
  simp only [Wave.frameBits, h]

/-- The bits of a frame that has been written. -/
theorem frameBits_writeSave (w : Wave) (base x lo n : Nat) :
    (w.writeSave base (natBytes 64 x)).frameBits base lo n = bitsOf (x % 2 ^ 512) lo n := by
  have hread : ((List.range 64).map fun i => Tab.get 0#8 (w.writeSave base (natBytes 64 x)).save (base + i)) = natBytes 64 x := by
    refine List.ext_getElem (by simp) fun i h1 h2 => ?_
    rw [List.getElem_map, List.getElem_range]
    exact get_putAll_placed 0#8 w.save base i h2
  rw [Wave.frameBits, hread, bytesNat_natBytes, show 256 = 2 ^ 8 from rfl, ← pow_mul]

/-! ## The trap frame (R356) -/

/-- The fields of a frame with their widths, from bit 0 on, when its three flags are 0. -/
def Frame.fields (f : Frame) : List (Nat × Nat) :=
  [(32, f.pc % 2 ^ 32), (32, f.instr.toNat), (32, f.lanes.toNat), (64, f.addr % 2 ^ 64), (8, f.cause % 256), (8, f.sub % 256),
   (3, slotOf f.pc), (1, f.slotB.toNat), (4, f.tag), (3, f.depth), (3, 0), (2, 0), (24, f.mode.toNat), (40, 0), (32, f.k28.toNat),
   (32, f.k29.toNat), (32, f.k30.toNat), (32, f.k31.toNat), (64, f.stop % 2 ^ 64), (64, 0)]

/-- Their widths. -/
def Frame.widths : List Nat := [32, 32, 32, 64, 8, 8, 3, 1, 4, 3, 3, 2, 24, 40, 32, 32, 32, 32, 64, 64]

theorem Frame.map_fst_fields (f : Frame) : f.fields.map Prod.fst = widths := rfl

/-- A frame of a trap: no flag is set, and tag and depth fit their fields. -/
structure Frame.OfTrap (f : Frame) : Prop where
  inHandler : f.inHandler = false
  faultPend : f.faultPend = false
  halted : f.halted = false
  tag : f.tag < 16
  depth : f.depth < 8

theorem Frame.fields_fit {f : Frame} (h : f.OfTrap) : ∀ x ∈ f.fields, x.2 < 2 ^ x.1 := by
  have hslot : slotOf f.pc < 2 ^ 3 := Nat.mod_lt _ (by decide)
  have hb : f.slotB.toNat < 2 ^ 1 := Bool.toNat_lt f.slotB
  simp only [Frame.fields, List.forall_mem_cons]
  exact ⟨Nat.mod_lt _ (by decide), f.instr.isLt, f.lanes.isLt, Nat.mod_lt _ (by decide), Nat.mod_lt _ (by decide),
    Nat.mod_lt _ (by decide), hslot, hb, h.tag, h.depth, by decide, by decide, f.mode.isLt, by decide, f.k28.isLt, f.k29.isLt, f.k30.isLt,
    f.k31.isLt, Nat.mod_lt _ (by decide), by decide, nofun⟩

theorem Frame.bytes_eq {f : Frame} (h : f.OfTrap) : f.bytes = natBytes 64 (packFields f.fields) := by
  obtain ⟨h1, h2, h3, _, _⟩ := h
  simp only [Frame.bytes, Frame.fields, packFields, h1, h2, h3, Bool.toNat_false, Nat.mul_add, ← Nat.mul_assoc, ← Nat.pow_add, Nat.mul_zero,
    Nat.add_zero, Nat.zero_add, Nat.reduceAdd, ← Nat.add_assoc]

/-- Each field of a trap's frame reads back from the save slot. -/
theorem frameBits_frame {f : Frame} (h : f.OfTrap) (w : Wave) {i lo n x : Nat} (hi : f.fields[i]? = some (n, x))
    (hlo : (Frame.widths.take i).sum = lo ∧ lo + n ≤ 512) : (w.writeSave 0 f.bytes).frameBits 0 lo n = x := by
  obtain ⟨hlo, hn⟩ := hlo
  rw [← f.map_fst_fields, ← List.map_take] at hlo
  rw [f.bytes_eq h, frameBits_writeSave, ← bitsOf_packFields (f.fields_fit h) hi hlo, bitsOf, bitsOf]
  have hsplit : 2 ^ 512 = 2 ^ lo * (2 ^ n * 2 ^ (512 - (lo + n))) := by rw [← pow_add, ← pow_add]; congr 1; omega
  rw [hsplit, Nat.mod_mul_right_div_self, Nat.mod_mul_right_mod]

/-- What the save slot of w holds of a trap's frame (R356). -/
structure Frame.ReadsBack (f : Frame) (w : Wave) : Prop where
  pc : w.frameBits 0 0 32 = f.pc % 2 ^ 32
  instr : w.frameBits 0 32 32 = f.instr.toNat
  lanes : w.frameBits 0 64 32 = f.lanes.toNat
  addr : w.frameBits 0 96 64 = f.addr % 2 ^ 64
  cause : w.frameBits 0 160 8 = f.cause % 256
  sub : w.frameBits 0 168 8 = f.sub % 256
  slot : w.frameBits 0 176 3 = slotOf f.pc
  pslot : w.frameBits 0 179 1 = f.slotB.toNat
  tag : w.frameBits 0 180 4 = f.tag
  depth : w.frameBits 0 184 3 = f.depth
  flags : w.frameBits 0 187 3 = 0
  mode : w.frameBits 0 192 24 = f.mode.toNat
  k28 : w.frameBits 0 256 32 = f.k28.toNat
  k29 : w.frameBits 0 288 32 = f.k29.toNat
  k30 : w.frameBits 0 320 32 = f.k30.toNat
  k31 : w.frameBits 0 352 32 = f.k31.toNat
  stop : w.frameBits 0 384 64 = f.stop % 2 ^ 64
  reserved : w.frameBits 0 190 2 = 0 ∧ w.frameBits 0 216 40 = 0 ∧ w.frameBits 0 448 64 = 0

theorem Frame.readsBack {f : Frame} (h : f.OfTrap) {u w : Wave} (hw : w.save = (u.writeSave 0 f.bytes).save) : f.ReadsBack w := by
  have field (i : Nat) {lo n x : Nat} (hi : f.fields[i]? = some (n, x)) (hlo : (widths.take i).sum = lo ∧ lo + n ≤ 512) :
      w.frameBits 0 lo n = x := (frameBits_congr hw ..).trans (frameBits_frame h u hi hlo)
  exact {
    pc := field 0 rfl (by decide)
    instr := field 1 rfl (by decide)
    lanes := field 2 rfl (by decide)
    addr := field 3 rfl (by decide)
    cause := field 4 rfl (by decide)
    sub := field 5 rfl (by decide)
    slot := field 6 rfl (by decide)
    pslot := field 7 rfl (by decide)
    tag := field 8 rfl (by decide)
    depth := field 9 rfl (by decide)
    flags := field 10 rfl (by decide)
    mode := field 12 rfl (by decide)
    k28 := field 14 rfl (by decide)
    k29 := field 15 rfl (by decide)
    k30 := field 16 rfl (by decide)
    k31 := field 17 rfl (by decide)
    stop := field 18 rfl (by decide)
    reserved := ⟨field 11 rfl (by decide), field 13 rfl (by decide), field 19 rfl (by decide)⟩ }

end Sys2Proof.Machine
end

section
/-!
PROOFS. Taking an exception (R357 to R361, R388): the start of the handler, and what each cause that a path raises comes to.
-/

namespace Sys2Proof.Machine

/-! ## Slots, caps and the handler's start (R357) -/

section
variable (w : Wave) (b : Bool) (p : Option Path)

@[simp] theorem Wave.setSlot_v : (w.setSlot b p).v = w.v := by cases b <;> rfl
@[simp] theorem Wave.setSlot_k : (w.setSlot b p).k = w.k := by cases b <;> rfl
@[simp] theorem Wave.setSlot_q : (w.setSlot b p).q = w.q := by cases b <;> rfl
@[simp] theorem Wave.setSlot_stack : (w.setSlot b p).stack = w.stack := by cases b <;> rfl
@[simp] theorem Wave.setSlot_save : (w.setSlot b p).save = w.save := by cases b <;> rfl
@[simp] theorem Wave.setSlot_handler : (w.setSlot b p).handler = w.handler := by cases b <;> rfl
@[simp] theorem Wave.setSlot_cap0 : (w.setSlot b p).cap0 = w.cap0 := by cases b <;> rfl
@[simp] theorem Wave.setSlot_cap1 : (w.setSlot b p).cap1 = w.cap1 := by cases b <;> rfl

end

theorem physBytes_congr {s t : State} (h : t.mem = s.mem) (pa n : Nat) : t.physBytes pa n = s.physBytes pa n := by
  induction n generalizing pa with
  | zero => rfl
  | succ n ih => rw [State.physBytes, State.physBytes, ih, State.physByte, State.physByte, h]

/-- The handler's image is read from memory and the die's registers alone. -/
theorem handlerImage_congr {s t : State} (hm : t.mem = s.mem) (hd : t.dies = s.dies) (die : Nat) : t.handlerImage die = s.handlerImage die := by
  simp only [State.handlerImage, State.physNat, physBytes_congr hm, State.die, hd]

/-- Released caps are neither held nor asked for. -/
theorem releaseCaps_expired (c : Ctx) :
    ∀ r ∈ [c.releaseCaps.w.cap0, c.releaseCaps.w.cap1], ∀ va line, r ≠ .held va line ∧ r ≠ .asked va line := by
  simp only [List.forall_mem_cons, Ctx.releaseCaps]
  refine ⟨fun va line => ?_, fun va line => ?_, nofun⟩
  · cases c.w.cap0 <;> exact ⟨nofun, nofun⟩
  · cases c.w.cap1 <;> exact ⟨nofun, nofun⟩

/-- What the start of the handler leaves in the wave, its path placed. -/
structure HandlerStarted (c : Ctx) (lanes : LaneMask) (w : Wave) : Prop where
  v : w.v = c.w.v
  q : w.q = c.w.q
  stack : w.stack = c.w.stack
  save : w.save = c.w.save
  cap0 : w.cap0 = c.w.cap0
  cap1 : w.cap1 = c.w.cap1
  k : ∀ r, Tab.get 0#32 w.k r = if r = 29 then 0xFF830000#32 else if r = 28 then 0#32 else Tab.get 0#32 c.w.k r
  handler : w.handler = some ⟨c.slotB, (c.s.handlerImage c.die).1, (c.s.handlerImage c.die).2.1, c.s.clk⟩
  path : w.slot c.slotB = some { pc := BitVec.ofNat 32 (c.s.handlerImage c.die).2.2, mask := lanes, mode := modeStart, readyAt := c.s.clk + 24 }
  other : w.slot (!c.slotB) = (c.w.slot (!c.slotB)).map fun p => { p with inflight := [] }

theorem startHandler_started (c : Ctx) (lanes : LaneMask) :
    HandlerStarted c lanes ((c.startHandler lanes).w.setSlot c.slotB (some (c.startHandler lanes).p)) where
  v := by simp [Ctx.startHandler]
  q := by simp [Ctx.startHandler]
  stack := by simp [Ctx.startHandler, Wave.writeK]
  save := by simp [Ctx.startHandler, Wave.writeK]
  cap0 := by simp [Ctx.startHandler, Wave.writeK]
  cap1 := by simp [Ctx.startHandler, Wave.writeK]
  k r := by
    simp only [Wave.setSlot_k, Ctx.startHandler, Claims.get_writeK]
    rfl
  handler := by simp [Ctx.startHandler]
  path := Claims.slot_setSlot_self ..
  other := by
    rw [Claims.slot_setSlot_other, Ctx.startHandler, Claims.slot_setSlot_self]
    have h : ∀ o : Option Path, (match o with | some p => some { p with inflight := [] } | none => none) =
        o.map fun p => { p with inflight := [] } := by
      intro o
      cases o <;> rfl
    exact h _

end Sys2Proof.Machine

namespace Sys2Proof.Claims

open Machine

/-! ## A cause that a path raises (R357, R361, R388) -/

/-- The path that has issued stands in a wave of its group. -/
theorem ctx?_waveIndex {s : State} {c : Ctx} (h : s.ctx? = some c) : c.wi < c.g.waves.length := by
  unfold State.ctx? at h
  split at h
  · cases h
  split at h
  · cases h
  split at h
  · cases h
  next hw =>
  split at h
  · cases h
  · cases h
    exact (List.getElem?_eq_some_iff.1 hw).1

/-- An instruction whose meaning answers a cause raises it. -/
theorem issue_trap {i : Instr} {legal : ModeImage → Bool} {s : State} {c : Ctx} {x : Trap} {body : Ctx → Res} (h : Issues i legal s c)
    (hb : body c = .trap c x) : issue i legal s body = .next (c.raise x) := by
  simp only [issue, h.acts, h.clean, h.free, hb, Ctx.finish, Bool.false_eq_true, if_false]

theorem raise_eq_takeTrap {c : Ctx} (h : c.memberLanes = 0#32 ∨ c.w.handler ≠ none) (x : Trap) : c.raise x = c.takeTrap x := by
  have hc : (c.memberLanes = 0#32 || c.w.handler.isSome) = true := by
    rcases h with h | h
    · simp [h]
    · simp [Option.isSome_iff_ne_none.2 h]
  rw [Ctx.raise, if_pos hc]

/-- State t is s as an exception leaves it before its frame is written: caps are released, an error may be counted. -/
structure CapsReleased (s t : State) : Prop where
  groups : t.groups = s.groups
  mem : t.mem = s.mem
  dies : t.dies = s.dies
  clk : t.clk = s.clk
  management : t.management = s.management

/-- The context in which the handler of cause x starts, the device being s. -/
def handlerCtx (c : Ctx) (x : Trap) (s : State) : Ctx :=
  { c.releaseCaps with s := s, w := c.releaseCaps.w.writeSave 0 (c.frame x c.p.pc.toNat).bytes }.startHandler c.act

/-- WHAT A CAUSE OUTSIDE HANDLER MODE DOES that no debugger takes: the handler starts; where the standard action of a firmware wave's cause is
to fail, its core then parks. -/
theorem takeTrap_eq {c : Ctx} (x : Trap) (hn : c.w.handler = none) (ha : (c.s.context c.g.ctx).attached = false ∨ c.firmware = true) :
    ∃ s, CapsReleased c.s s ∧ c.takeTrap x =
      if c.firmware && failing x.cause then (handlerCtx c x s).putPath.failFirmware c.die else (handlerCtx c x s).putPath := by
  have hattached : ((c.s.context c.g.ctx).attached && !c.firmware) = false := by
    rcases ha with h | h <;> simp [h]
  have hcause : (c.frame x c.p.pc.toNat).cause = x.cause := rfl
  rw [Ctx.takeTrap, Ctx.takeTrapAt, Ctx.takeFrame, hn, if_neg (by decide), hcause]
  by_cases he : x.cause = causeEcc
  · refine ⟨{ c.releaseCaps.s with health := { c.s.health with trapped := c.s.health.trapped + 1 } }, ⟨rfl, rfl, rfl, rfl, rfl⟩, ?_⟩
    simp only [if_pos he]
    exact if_neg fun h => Bool.noConfusion (hattached.symm.trans h)
  · refine ⟨c.releaseCaps.s, ⟨rfl, rfl, rfl, rfl, rfl⟩, ?_⟩
    simp only [if_neg he]
    exact if_neg fun h => Bool.noConfusion (hattached.symm.trans h)

theorem frame_ofTrap {c : Ctx} (x : Trap) (off : Nat) (htag : c.g.tag < 16) (hdepth : ∀ t, c.w.tx = some t → t.depth < 8) :
    (c.frame x off).OfTrap where
  inHandler := rfl
  faultPend := rfl
  halted := rfl
  tag := htag
  depth := by
    show (match c.w.tx with | some t => t.depth | none => 0) < 8
    split
    · exact hdepth _ ‹_›
    · decide

/-- A trap's frame that stands in a save slot describes the stop. -/
theorem frameOf_written {c : Ctx} {x : Trap} (htag : c.g.tag < 16) (hdepth : ∀ t, c.w.tx = some t → t.depth < 8) {u w : Wave}
    (hw : w.save = (u.writeSave 0 (c.frame x c.p.pc.toNat).bytes).save) : FrameOf c x c.p.pc.toNat c.cur.word w := by
  have hr := Frame.readsBack (frame_ofTrap x _ htag hdepth) hw
  have hinstr : (c.frame x c.p.pc.toNat).instr = c.cur.word := if_pos rfl
  exact {
    pc := hr.pc.trans (Nat.mod_eq_of_lt c.p.pc.isLt)
    instr := hr.instr.trans (congrArg _ hinstr)
    lanes := hr.lanes
    addr := hr.addr
    cause := hr.cause
    sub := hr.sub
    slot := hr.slot
    pslot := hr.pslot
    tag := hr.tag
    depth := hr.depth
    flags := hr.flags
    mode := hr.mode
    links := fun i hi =>
      match i with
      | 0 => hr.k28
      | 1 => hr.k29
      | 2 => hr.k30
      | 3 => hr.k31
    stop := hr.stop
    reserved := hr.reserved }

/-- The machine in which the handler of a cause starts is as R357 says. -/
theorem handlerCtx_enters {c : Ctx} {x : Trap} {s : State} (hs : CapsReleased c.s s) (hwi : c.wi < c.g.waves.length) (htag : c.g.tag < 16)
    (hdepth : ∀ t, c.w.tx = some t → t.depth < 8) : ∃ w, EntersHandler c x (handlerCtx c x s).putPath w := by
  have hstart := startHandler_started
    { c.releaseCaps with s := s, w := c.releaseCaps.w.writeSave 0 (c.frame x c.p.pc.toNat).bytes } c.act
  have himage : s.handlerImage c.die = c.s.handlerImage c.die := handlerImage_congr hs.mem hs.dies _
  refine ⟨_, {
    wave := ?_
    frame := frameOf_written htag hdepth hstart.save
    k28 := hstart.k 28
    k29 := hstart.k 29
    k := fun r h28 h29 => by rw [hstart.k, if_neg h29, if_neg h28]; rfl
    v := hstart.v
    q := hstart.q
    mode := hstart.handler.trans (by rw [← himage, ← hs.clk]; rfl)
    path := ⟨_, hstart.path, by rw [← himage]; rfl, rfl, rfl, by rw [← hs.clk]⟩
    other := hstart.other
    stack := hstart.stack
    caps := by rw [hstart.cap0, hstart.cap1]; exact releaseCaps_expired c
    mem := hs.mem
    others := fun k hk => by rw [← hs.groups]; exact Tab.find?_set_other _ _ hk }⟩
  have hg : (handlerCtx c x s).putPath.groups.find? c.gk =
      some (c.g.setWave c.wi ((handlerCtx c x s).w.setSlot c.slotB (some (handlerCtx c x s).p))) := Tab.find?_set_self ..
  rw [waveOf, hg, Option.bind_some, Group.setWave]
  exact List.getElem?_set_self hwi

/-- A cause that the wave's handler takes enters the handler. -/
theorem raise_entersHandler {c : Ctx} {x : Trap} (h : Trappable c x.cause) (hwi : c.wi < c.g.waves.length) (htag : c.g.tag < 16)
    (hdepth : ∀ t, c.w.tx = some t → t.depth < 8) : ∃ w, EntersHandler c x (c.raise x) w := by
  obtain ⟨s, hs, hx⟩ := takeTrap_eq x h.user h.free
  have hhandled : (c.firmware && failing x.cause) = false := by
    rcases h.handled with hf | hc
    · simp [hf]
    · simp only [List.mem_cons, List.not_mem_nil, or_false] at hc
      rcases hc with hc | hc | hc <;> simp [failing, hc]
  rw [raise_eq_takeTrap (.inl h.outside), hx, hhandled]
  exact handlerCtx_enters hs hwi htag hdepth

/-! ## A firmware core fails (R361, R388) -/

theorem failFirmware_reports (s : State) (d : Nat) : ((s.failFirmware d).die d).failed = true ∧ ((s.failFirmware d).die d).ready = false ∧
    (s.failFirmware d).management = s.management ++ [(1, d)] := by
  simp [State.failFirmware, State.die]

/-- A firmware wave's cause whose standard action is to fail parks its core, behind the handler's start. -/
theorem raise_failFirmware {c : Ctx} {x : Trap} (hm : c.memberLanes = 0#32) (hn : c.w.handler = none) (hf : c.firmware = true)
    (hx : failing x.cause = true) : ∃ s : State, s.management = c.s.management ∧ c.raise x = s.failFirmware c.die := by
  obtain ⟨s, hs, ht⟩ := takeTrap_eq x hn (.inr hf)
  refine ⟨(handlerCtx c x s).putPath, hs.management, ?_⟩
  rw [raise_eq_takeTrap (.inl hm), ht, hf, hx]
  rfl

theorem failing_of_notMem {cause : Nat} (h : cause ∉ [causeDeadlineMiss, causeFencePeerLost, causeSwTrap, causeDebugHalt]) :
    failing cause = true := by
  simpa [failing, and_assoc] using h

/-- A cause in handler mode is a double trap. -/
theorem raise_inHandler {c : Ctx} (h : c.w.handler ≠ none) (x : Trap) :
    c.raise x = if c.firmware then c.putPath.failFirmware c.die else c.putPath.resetContext c.g.ctx 3 := by
  rw [raise_eq_takeTrap (.inr h), Ctx.takeTrap, Ctx.takeTrapAt, Ctx.takeFrame, if_pos (Option.isSome_iff_ne_none.2 h)]

end Sys2Proof.Claims
end

section
/-!
PROOFS. What leaves the groups of the machine alone, the reset of a context (R371), and software and double traps (O12; R152, R359, R388).
-/

namespace Sys2Proof.Machine

/-! ## What leaves the groups alone -/

/-- A fold over steps that leave the groups alone. -/
theorem foldl_groups {β : Type} {f : State → β → State} (hf : ∀ s b, (f s b).groups = s.groups) (l : List β) (s : State) :
    (l.foldl f s).groups = s.groups := by
  induction l generalizing s with
  | nil => rfl
  | cons b l ih => exact (ih _).trans (hf s b)

section
variable (s : State)

@[simp] theorem State.postOnce_groups (i : Instr) : (s.postOnce i).groups = s.groups := by
  unfold State.postOnce
  split <;> rfl

@[simp] theorem State.heatUp_groups (line core : Nat) : (s.heatUp line core).groups = s.groups := by
  unfold State.heatUp
  extract_lets l otherLease otherOwner
  split
  · rw [State.postOnce_groups, State.setLine_groups]
  · rfl

@[simp] theorem State.postWrite_groups (p : PostedWrite) : (s.postWrite p).groups = s.groups := by
  unfold State.postWrite
  split
  · rfl
  · dsimp only
    split
    · rfl
    · simp

@[simp] theorem State.hostInterrupt_groups (ctx : Nat) : (s.hostInterrupt ctx).groups = s.groups := rfl

@[simp] theorem State.errorRecord_groups (e : ErrorInfo) : (s.errorRecord e).groups = s.groups := by
  unfold State.errorRecord
  dsimp only
  split
  · exact foldl_groups (fun _ _ => State.postWrite_groups ..) _ _
  · rfl

@[simp] theorem State.dropFrontWrite_groups (asid va kind : Nat) : (s.dropFrontWrite asid va kind).groups = s.groups := by
  rw [State.dropFrontWrite, State.hostInterrupt_groups, State.errorRecord_groups]

@[simp] theorem State.queueFault_groups (die asid va tag kind type leaf bits ctrl : Nat) (w : Waiter) :
    (s.queueFault die asid va tag kind type leaf bits ctrl w).groups = s.groups := by
  unfold State.queueFault
  dsimp only
  split
  · rfl
  · split
    · rfl
    · exact foldl_groups (fun _ _ => State.postWrite_groups ..) _ _

/-- An access of the front end that waits has at most queued a fault. -/
theorem State.frontAccess_groups {who : Waiter} {asid va kind : Nat} {r w : Bool} {t : State}
    (h : s.frontAccess who asid va kind r w = .waits t) : t.groups = s.groups := by
  unfold State.frontAccess at h
  split at h
  · cases h
  split at h
  · split at h <;> cases h
  · split at h <;> cases h
    exact State.queueFault_groups ..
  · cases h

@[simp] theorem State.frontPost_groups (t : Translation) (pa : Nat) (bytes : List Byte) (o : Bool) (f : Option (Nat × Nat × Nat)) :
    (s.frontPost t pa bytes o f).groups = s.groups := foldl_groups (fun _ _ => State.postWrite_groups ..) _ _

@[simp] theorem State.frontWritePart_groups (asid va : Nat) (bytes : List Byte) (kind : Nat) (release : Bool) (owner : Nat) :
    (s.frontWritePart asid va bytes kind release owner).groups = s.groups := by
  unfold State.frontWritePart
  dsimp only
  split
  · rfl
  · split
    · exact State.frontPost_groups ..
    · next t h =>
      have ht := State.frontAccess_groups s h
      exact ht
    · exact State.dropFrontWrite_groups ..

@[simp] theorem State.frontWrite_groups (asid va : Nat) (bytes : List Byte) (kind : Nat) (release : Bool) (owner : Nat) :
    (s.frontWrite asid va bytes kind release owner).groups = s.groups := foldl_groups (fun _ _ => State.frontWritePart_groups ..) _ _

@[simp] theorem State.logError_groups (q first type code sub addr : Nat) : (s.logError q first type code sub addr).groups = s.groups := by
  unfold State.logError
  dsimp only
  split
  · rfl
  · rw [State.hostInterrupt_groups, State.frontWrite_groups, State.setQueue_groups]

@[simp] theorem State.traceRecord_groups (ctx : Nat) (bytes : List Byte) : (s.traceRecord ctx bytes).groups = s.groups := by
  unfold State.traceRecord
  dsimp only
  split <;> simp

@[simp] theorem State.squashRecords_groups (gk : Nat) : (s.squashRecords gk).groups = s.groups := by
  unfold State.squashRecords
  split
  · rfl
  · split
    · rfl
    · refine foldl_groups (fun s wi => ?_) _ _
      split
      · rfl
      · split
        · rfl
        · exact State.traceRecord_groups ..

@[simp] theorem State.releaseLineCaps_groups (g w : Nat) : (s.releaseLineCaps g w).groups = s.groups := rfl
@[simp] theorem State.dropPosted_groups (p : PostedWrite → Bool) : (s.dropPosted p).groups = s.groups := rfl
@[simp] theorem State.dropGangs_groups (p : Launch → Bool) : (s.dropGangs p).groups = s.groups := rfl

@[simp] theorem State.dropWork_groups (gk : Nat) : (s.dropWork gk).groups = s.groups := by
  have hcaps (waves : List Nat) : (waves.foldl (fun s w => s.releaseLineCaps gk w) s).groups = s.groups :=
    foldl_groups (fun _ _ => State.releaseLineCaps_groups ..) waves s
  simp only [State.dropWork, State.dropPosted, hcaps]

@[simp] theorem State.idleFrom_groups (core : Nat) : (s.idleFrom core).groups = s.groups := by
  unfold State.idleFrom
  split <;> rfl

@[simp] theorem State.dropGroup_groups (gk : Nat) : (s.dropGroup gk).groups = s.groups.erase gk := by
  simp only [State.dropGroup, State.idleFrom_groups, State.gateLater, State.dropWork_groups]

end

/-! ## Groups that are dropped (R371) -/

theorem Tab.mem_keysWhere {α : Type} {p : Nat → α → Bool} {t : Tab α} {x : Nat × α} (h : x ∈ t) (hp : p x.1 x.2 = true) :
    x.1 ∈ Tab.keysWhere p t := by
  induction t with
  | nil => cases h
  | cons y t ih =>
    obtain ⟨k, v⟩ := y
    rw [Tab.keysWhere]
    rcases List.mem_cons.1 h with rfl | h
    · rw [if_pos hp]
      exact List.mem_cons_self ..
    · split
      · exact List.mem_cons_of_mem _ (ih h)
      · exact ih h

theorem Tab.mem_of_find? {α : Type} {t : Tab α} {k : Nat} {v : α} (h : t.find? k = some v) : (k, v) ∈ t := by
  induction t with
  | nil => cases h
  | cons y t ih =>
    obtain ⟨j, u⟩ := y
    rw [Tab.find?] at h
    split at h
    · cases h
      subst_vars
      exact List.mem_cons_self ..
    · exact List.mem_cons_of_mem _ (ih h)

theorem Tab.key_ne_of_mem_erase {α : Type} {t : Tab α} {k : Nat} {x : Nat × α} (h : x ∈ t.erase k) : x.1 ≠ k := by
  induction t with
  | nil => cases h
  | cons y t ih =>
    obtain ⟨j, u⟩ := y
    rw [Tab.erase] at h
    split at h
    · exact ih h
    · rcases List.mem_cons.1 h with rfl | h
      · assumption
      · exact ih h

/-- What is left of the groups when some have been dropped stood there before, at none of their keys. -/
theorem mem_foldl_dropGroup {x : Nat × Group} (ks : List Nat) (s : State) (h : x ∈ (ks.foldl State.dropGroup s).groups) :
    x ∈ s.groups ∧ x.1 ∉ ks := by
  induction ks generalizing s with
  | nil => exact ⟨h, by simp⟩
  | cons k ks ih =>
    obtain ⟨hmem, hks⟩ := ih _ h
    rw [State.dropGroup_groups] at hmem
    exact ⟨Tab.mem_erase hmem, List.not_mem_cons_of_ne_of_not_mem (Tab.key_ne_of_mem_erase hmem) hks⟩

theorem mem_dropGroups {s : State} {p : Nat → Group → Bool} {x : Nat × Group} (h : x ∈ (s.dropGroups p).groups) :
    x ∈ s.groups ∧ ¬p x.1 x.2 = true := by
  obtain ⟨hmem, hks⟩ := mem_foldl_dropGroup _ _ h
  exact ⟨hmem, fun hp => hks (Tab.mem_keysWhere hmem hp)⟩

/-- A squash adds no group. -/
theorem mem_squash {s : State} {tag reason : Nat} {x : Nat × Group} (h : x ∈ (s.squash tag reason).groups) : x ∈ s.groups := by
  unfold State.squash at h
  extract_lets t mine dropped unganged c saved launched ran tagged at h
  split at h
  · simp only [State.post_groups, tagged, State.setTag_groups, ran, launched, saved, State.setContext_groups, unganged,
      State.dropGangs_groups] at h
    have hrec := (mem_dropGroups h).1
    rwa [foldl_groups fun _ _ => State.squashRecords_groups ..] at hrec
  · exact h

theorem mem_squashAll {s : State} {p : FutureTag → Bool} {reason : Nat} {x : Nat × Group} (h : x ∈ (s.squashAll p reason).groups) :
    x ∈ s.groups := by
  unfold State.squashAll at h
  generalize List.range 16 = l at h
  induction l generalizing s with
  | nil => exact h
  | cons t l ih =>
    have := ih h
    dsimp only at this
    split at this
    · exact mem_squash this
    · exact this

/-- The reset of a context leaves none of its groups. -/
theorem resetContext_groups {s : State} {ctx sub k : Nat} {g : Group} (hctx : ctx ≠ 0) (h : (s.resetContext ctx sub).groups.find? k = some g) :
    g.ctx ≠ ctx := by
  have hmem := Tab.mem_of_find? h
  rw [State.resetContext, if_neg hctx] at hmem
  extract_lets dropped squashed ends unganged ended signalled c cleared logged disabled unqueued unposted c' at hmem
  have hlog : disabled.groups = cleared.groups :=
    (foldl_groups (fun _ _ => State.setQueue_groups ..) _ logged).trans (foldl_groups (fun _ _ => State.logError_groups ..) _ cleared)
  have hsignal : signalled.groups = ended.groups := foldl_groups (fun _ _ => State.post_groups ..) _ ended
  simp only [State.setContext_groups, unposted, State.dropPosted_groups, unqueued, hlog, cleared, hsignal, ended, unganged,
    State.dropGangs_groups] at hmem
  simpa using (mem_dropGroups (mem_squashAll hmem)).2

end Sys2Proof.Machine

namespace Sys2Proof.Claims

open Machine

/-! ## TRAP and BKPT (R152) -/

section
variable {s : State} {c : Ctx} (h : Trappable c 0x40) (htag : c.g.tag < 16) (hdepth : ∀ t, c.w.tx = some t → t.depth < 8)
include h htag hdepth

theorem exec_trap_entersHandler {n : Selector} (hi : Issues (.trap n) anyType s c) (hS : c.S ≠ 0#32) :
    ∃ t w, exec (.trap n) s = .next t ∧ EntersHandler c ⟨0x40, n.toNat, 0, c.S⟩ t w := by
  obtain ⟨w, hw⟩ := raise_entersHandler (x := ⟨0x40, n.toNat, 0, c.S⟩) h (ctx?_waveIndex hi.acts) htag hdepth
  exact ⟨_, w, issue_trap hi (if_neg hS), hw⟩

theorem exec_bkpt_entersHandler (hi : Issues .bkpt anyType s c) (hf : c.firmware = false) :
    ∃ t w, exec .bkpt s = .next t ∧ EntersHandler c ⟨0x41, 0, 0, c.act⟩ t w := by
  have hb : Trappable c 0x41 := ⟨h.outside, h.user, h.free, .inl hf⟩
  obtain ⟨w, hw⟩ := raise_entersHandler (x := ⟨0x41, 0, 0, c.act⟩) hb (ctx?_waveIndex hi.acts) htag hdepth
  exact ⟨_, w, issue_trap hi rfl, hw⟩

end

theorem exec_trap_empty {s : State} {c : Ctx} {n : Selector} (hi : Issues (.trap n) anyType s c) (hS : c.S = 0#32) :
    ∃ t w, exec (.trap n) s = .next t ∧ Completed c c.cur.next t w ∧ WritesNone c.w w :=
  issue_registers hi (body := fun c => if c.S = 0#32 then .done c else .trap c ⟨causeSwTrap, n.toNat, 0, c.S⟩) (if_pos hS) (.refl c)

end Sys2Proof.Claims

open Sys2Proof Sys2Proof.Machine Sys2Proof.Claims in
/-- Settles O12: TRAP and BKPT raise their causes, which the handler takes; a trap's other ends are the failure of a firmware core and the
reset of a context. -/
theorem softwareAndDoubleTraps : Obligations.SoftwareAndDoubleTraps := by
  refine ⟨fun s c h htag hdepth => ⟨fun n hi hS => exec_trap_entersHandler h htag hdepth hi hS, fun n hi hS => exec_trap_empty hi hS,
    fun hi hf => exec_bkpt_entersHandler h htag hdepth hi hf⟩, fun c x hm hn hf hx => ?_, fun c x hh => ?_⟩
  · obtain ⟨s, hs, hr⟩ := raise_failFirmware hm hn hf (failing_of_notMem hx)
    rw [hr, ← hs]
    exact failFirmware_reports s c.die
  · have hx := raise_inHandler hh x
    refine ⟨hx, fun hf => ?_, fun hf hctx k g hg => ?_⟩
    · rw [hx, if_pos hf]
      exact failFirmware_reports c.putPath c.die
    · rw [hx, if_neg (Bool.eq_false_iff.1 hf)] at hg
      exact resetContext_groups hctx hg
end

section
/-!
PROOFS. The decisions on a future (O28; R115, R227 to R229): what a squash leaves of the memory, of the tags and of the groups, the statuses of
FCOMMIT and FSQUASH, and the instructions.
-/

namespace Sys2Proof.Machine

/-! ## What leaves the bytes of memory and the tags alone -/

/-- State t holds the bytes and the tags of s. -/
structure KeepsTags (s t : State) : Prop where
  mem : t.mem = s.mem
  tags : t.tags = s.tags

namespace KeepsTags

theorem refl (s : State) : KeepsTags s s := ⟨rfl, rfl⟩

theorem trans {s t u : State} (h : KeepsTags s t) (g : KeepsTags t u) : KeepsTags s u := ⟨g.mem.trans h.mem, g.tags.trans h.tags⟩

/-- What keeps them from a state with the same bytes and tags keeps them. -/
theorem after {s t u : State} (g : KeepsTags t u) (hm : t.mem = s.mem) (ht : t.tags = s.tags) : KeepsTags s u := ⟨g.mem.trans hm, g.tags.trans ht⟩

theorem foldl {β : Type} {f : State → β → State} (hf : ∀ s b, KeepsTags s (f s b)) (l : List β) (s : State) : KeepsTags s (l.foldl f s) := by
  induction l generalizing s with
  | nil => exact refl s
  | cons b l ih => exact (hf s b).trans (ih _)

variable (s : State)

theorem postOnce (i : Instr) : KeepsTags s (s.postOnce i) := by
  unfold State.postOnce
  split <;> exact ⟨rfl, rfl⟩

theorem heatUp (line core : Nat) : KeepsTags s (s.heatUp line core) := by
  unfold State.heatUp
  extract_lets l otherLease otherOwner
  split
  · exact (postOnce (s.setLine ..) _).after rfl rfl
  · exact refl s

theorem postWrite (p : PostedWrite) : KeepsTags s (s.postWrite p) := by
  unfold State.postWrite
  split
  · exact refl s
  · dsimp only
    split
    · exact ⟨rfl, rfl⟩
    · exact ⟨(heatUp s.fresh ..).mem, (heatUp s.fresh ..).tags⟩

theorem errorRecord (e : ErrorInfo) : KeepsTags s (s.errorRecord e) := by
  unfold State.errorRecord
  dsimp only
  split
  · exact (foldl (fun _ _ => postWrite ..) _ _).after rfl rfl
  · exact ⟨rfl, rfl⟩

theorem dropFrontWrite (asid va kind : Nat) : KeepsTags s (s.dropFrontWrite asid va kind) :=
  ⟨(errorRecord s _).mem, (errorRecord s _).tags⟩

theorem queueFault (die asid va tag kind type leaf bits ctrl : Nat) (w : Waiter) :
    KeepsTags s (s.queueFault die asid va tag kind type leaf bits ctrl w) := by
  unfold State.queueFault
  dsimp only
  split
  · exact ⟨rfl, rfl⟩
  · split
    · exact refl s
    · exact (foldl (fun _ _ => postWrite ..) _ _).after rfl rfl

theorem frontAccess {who : Waiter} {asid va kind : Nat} {r w : Bool} {t : State} (h : s.frontAccess who asid va kind r w = .waits t) :
    KeepsTags s t := by
  unfold State.frontAccess at h
  split at h
  · cases h
  split at h
  · split at h <;> cases h
  · split at h <;> cases h
    exact queueFault ..
  · cases h

theorem frontWritePart (asid va : Nat) (bytes : List Byte) (kind : Nat) (release : Bool) (owner : Nat) :
    KeepsTags s (s.frontWritePart asid va bytes kind release owner) := by
  unfold State.frontWritePart
  dsimp only
  split
  · exact ⟨rfl, rfl⟩
  · split
    · exact foldl (fun _ _ => postWrite ..) _ _
    · next h => exact (frontAccess s h).trans ⟨rfl, rfl⟩
    · exact dropFrontWrite ..

theorem frontWrite (asid va : Nat) (bytes : List Byte) (kind : Nat) (release : Bool) (owner : Nat) :
    KeepsTags s (s.frontWrite asid va bytes kind release owner) := foldl (fun _ _ => frontWritePart ..) _ _

theorem traceRecord (ctx : Nat) (bytes : List Byte) : KeepsTags s (s.traceRecord ctx bytes) := by
  unfold State.traceRecord
  extract_lets old c size off head tail moved written
  have hwritten : KeepsTags s written := (frontWrite moved ..).after rfl rfl
  split
  · exact hwritten
  · exact hwritten.trans (frontWrite ..)

theorem squashRecords (gk : Nat) : KeepsTags s (s.squashRecords gk) := by
  unfold State.squashRecords
  split
  · exact refl s
  · split
    · exact refl s
    · refine foldl (fun s wi => ?_) _ _
      split
      · exact refl s
      · split
        · exact refl s
        · exact traceRecord ..

theorem releaseLineCaps (g w : Nat) : KeepsTags s (s.releaseLineCaps g w) := ⟨rfl, rfl⟩
theorem dropPosted (p : PostedWrite → Bool) : KeepsTags s (s.dropPosted p) := ⟨rfl, rfl⟩

theorem dropWork (gk : Nat) : KeepsTags s (s.dropWork gk) := by
  unfold State.dropWork
  extract_lets uncapped unposted ops
  have hkeeps : KeepsTags s uncapped := foldl (fun s w => releaseLineCaps s gk w) _ s
  have hposted : KeepsTags uncapped unposted := dropPosted ..
  clear_value uncapped unposted
  exact ⟨hposted.mem.trans hkeeps.mem, hposted.tags.trans hkeeps.tags⟩

theorem idleFrom (core : Nat) : KeepsTags s (s.idleFrom core) := by
  unfold State.idleFrom
  split <;> exact ⟨rfl, rfl⟩

theorem dropGroup (gk : Nat) : KeepsTags s (s.dropGroup gk) := by
  unfold State.dropGroup
  extract_lets unworked gone
  have hkeeps : KeepsTags s unworked := dropWork ..
  clear_value unworked
  exact hkeeps.trans ((idleFrom ..).after rfl rfl)

theorem dropGroups (p : Nat → Group → Bool) : KeepsTags s (s.dropGroups p) := foldl dropGroup _ s

end KeepsTags

/-! ## The squash of a live future (R115) -/

/-- The machine t is s with the future of a tag squashed: the bytes are as they were, of the tags this one alone has changed, and none of the
future's groups is left. -/
structure Squashed (s : State) (tag reason : Nat) (t : State) : Prop where
  mem : t.mem = s.mem
  squashed : t.tag tag = { s.tag tag with state := .squashed, reason := reason, effects := [], committing := false }
  others : ∀ k, k ≠ tag → t.tag k = s.tag k
  groups : ∀ k g, t.groups.find? k = some g → ¬(g.ctx = (s.tag tag).ctx ∧ g.tag = tag)

theorem squash_squashed {s : State} {tag : Nat} (reason : Nat) (h : (s.tag tag).state = .live ∨ (s.tag tag).state = .sealed) :
    Squashed s tag reason (s.squash tag reason) := by
  unfold State.squash
  extract_lets t mine dropped unganged c saved launched ran tagged
  have hkeeps : KeepsTags s dropped :=
    (KeepsTags.foldl (fun s k => KeepsTags.squashRecords s k) _ s).trans (KeepsTags.dropGroups _ mine)
  have htags : tagged.tags = s.tags.put {} tag { t with state := .squashed, reason := reason, effects := [], committing := false } := by
    rw [← hkeeps.tags]
    rfl
  have hleft : ∀ k g, dropped.groups.find? k = some g → ¬mine k g = true := fun k g hg => (mem_dropGroups (Tab.mem_of_find? hg)).2
  clear_value dropped
  rw [if_pos h]
  refine ⟨hkeeps.mem, ?_, fun k hk => ?_, fun k g hg => ?_⟩
  · rw [State.tag, State.post_tags, htags, Tab.get_put_self]
  · rw [State.tag, State.post_tags, htags, Tab.get_put_other _ _ _ hk, State.tag]
  · simpa [mine, t] using hleft k g hg

/-! ## The statuses of FCOMMIT and FSQUASH (R227, R228) -/

theorem commitStatus_le (s : State) (ctx t : Nat) : s.commitStatus ctx t ≤ 3 := by
  unfold State.commitStatus
  extract_lets c
  repeat' split
  all_goals omega

/-- The machine u is s with a tag committed by `who`: its commit point comes 66 clk later, and the fork has committed (R227, R428). -/
structure Committed (s : State) (ctx t : Nat) (who : Option (Nat × Nat × Nat)) (u : State) : Prop where
  rest : u = { s with tags := u.tags, contexts := u.contexts, agenda := u.agenda }
  context : u.context ctx = { s.context ctx with forkCommitted := true }
  committed : u.tag t = { s.tag t with state := .committed, committing := true, commitAt := s.clk + 66, committer := who }
  others : ∀ k, k ≠ t → u.tag k = s.tag k
  event : .event (.commitPoint ctx t) ∈ u.agenda

section
variable {s : State} {ctx t : Nat} {who : Option (Nat × Nat × Nat)}

theorem fcommit_snd : (s.fcommit ctx t who).2 = s.commitStatus ctx t := by
  unfold State.fcommit
  extract_lets status
  split
  · exact Eq.symm ‹_›
  · rfl

theorem fcommit_of_ne_zero (h : s.commitStatus ctx t ≠ 0) : (s.fcommit ctx t who).1 = s := by rw [State.fcommit, if_neg h]

theorem fcommit_committed (h : s.commitStatus ctx t = 0) : Committed s ctx t who (s.fcommit ctx t who).1 := by
  rw [State.fcommit, if_pos h]
  extract_lets named tagged old forked
  have htags : forked.tags = s.tags.put {} t { s.tag t with state := .committed, committing := true, commitAt := s.clk + 66, committer := who } := rfl
  exact {
    rest := rfl
    context := Tab.get_put_self ..
    committed := by rw [State.tag, State.post_tags, htags, Tab.get_put_self]
    others := fun k hk => by rw [State.tag, State.post_tags, htags, Tab.get_put_other _ _ _ hk, State.tag]
    event := List.mem_append_right _ (List.mem_singleton_self _) }

theorem fsquash_of_lt_two (h : s.commitStatus ctx t < 2) : s.fsquash ctx t = (s.squash t 0, 0) := by
  unfold State.fsquash
  split
  · omega
  · omega
  · rfl

theorem fsquash_of_two_le (h : 2 ≤ s.commitStatus ctx t) : s.fsquash ctx t = (s, s.commitStatus ctx t) := by
  have hle := commitStatus_le s ctx t
  obtain h | h : s.commitStatus ctx t = 2 ∨ s.commitStatus ctx t = 3 := by omega
  all_goals simp only [State.fsquash, h]

end

end Sys2Proof.Machine

namespace Sys2Proof.Claims

open Machine

theorem liveTag_iff {s : State} {ctx t : Nat} : s.liveTag ctx t = true ↔ TagIs s ctx t .live ∨ TagIs s ctx t .sealed := by
  simp only [State.liveTag, State.ofFork, TagIs, Bool.and_eq_true, Bool.or_eq_true, decide_eq_true_eq, List.contains_iff_mem]
  constructor
  · rintro ⟨⟨⟨⟨hmem, -⟩, hctx⟩, hfork⟩, hstate | hstate⟩
    · exact .inl ⟨hmem, hctx, hfork, hstate⟩
    · exact .inr ⟨hmem, hctx, hfork, hstate⟩
  · rintro (⟨hmem, hctx, hfork, hstate⟩ | ⟨hmem, hctx, hfork, hstate⟩) <;> simp [hmem, hctx, hfork, hstate]

/-- The status that the front end decides is the one that R227's table gives. -/
theorem commitStatus_iff {s : State} {ctx t n : Nat} : CommitStatus s ctx t n ↔ n = s.commitStatus ctx t := by
  unfold CommitStatus State.commitStatus
  extract_lets taken c
  have htaken : (t = 0 || 15 < t || !c.forkTags.contains t) = true ↔ ¬taken := by
    simp only [Bool.or_eq_true, decide_eq_true_eq, Bool.not_eq_true', List.contains_eq_mem, decide_eq_false_iff_not, taken, c]
    grind
  by_cases ht : taken
  · rw [if_neg (c := (_ || _) = true) fun h => htaken.1 h ht]
    by_cases hc : c.forkCommitted = true
    · rw [if_pos (c := taken ∧ _) ⟨ht, hc⟩, if_pos hc]
    rw [if_neg (c := taken ∧ _) fun h => hc h.2, if_neg hc]
    by_cases hlive : TagIs s ctx t .live
    · have ⟨_, _, _, hstate⟩ := hlive
      have hsealed : ¬TagIs s ctx t .sealed := by simp [TagIs, hstate]
      rw [if_neg (by simp [liveTag_iff.2 (.inl hlive)]), if_pos hstate]
      simp [ht, eq_true hlive, hsealed]
    by_cases hsealed : TagIs s ctx t .sealed
    · have ⟨_, _, _, hstate⟩ := hsealed
      rw [if_neg (by simp [liveTag_iff.2 (.inr hsealed)]), if_neg (by simp [hstate])]
      simp [ht, hlive, eq_true hsealed]
    · rw [if_pos (by simpa using mt liveTag_iff.1 (by simp [hlive, hsealed]))]
      simp [ht, hlive, hsealed]
  · rw [if_pos (c := (_ || _) = true) (htaken.2 ht), if_neg (c := taken ∧ _) fun h => ht h.1]
    simp [ht]

/-- A tag whose status is 0 or 1 is LIVE or SEALED in the context's fork. -/
theorem tagIs_of_commitStatus {s : State} {ctx t : Nat} (h : s.commitStatus ctx t < 2) : TagIs s ctx t .live ∨ TagIs s ctx t .sealed := by
  have hstatus : CommitStatus s ctx t (s.commitStatus ctx t) := commitStatus_iff.2 rfl
  unfold CommitStatus at hstatus
  extract_lets taken at hstatus
  split at hstatus
  · omega
  · obtain ⟨-, hlive, -⟩ | ⟨-, hsealed, -⟩ | ⟨-, -, htwo⟩ := hstatus
    · exact .inl hlive
    · exact .inr hsealed
    · omega

/-- FSQUASH of a LIVE or SEALED tag squashes it. -/
theorem squashed_of_commitStatus {s : State} {ctx t : Nat} (h : s.commitStatus ctx t < 2) :
    (s.tag t).ctx = ctx ∧ Squashed s t 0 (s.squash t 0) := by
  obtain ⟨-, hctx, -, hstate⟩ | ⟨-, hctx, -, hstate⟩ := tagIs_of_commitStatus h
  · exact ⟨hctx, squash_squashed 0 (.inl hstate)⟩
  · exact ⟨hctx, squash_squashed 0 (.inr hstate)⟩

/-! ## FCOMMIT, FSQUASH and FSTATE -/

section
variable {c : Ctx} (htx : c.txLanes = 0#32)
include htx

theorem once_idle (hS : c.S = 0#32) (body : Res) : c.once body = .done c := by unfold Ctx.once; rw [if_neg (not_not.2 htx), if_pos hS]

variable (hS : c.S ≠ 0#32)
include hS

theorem once_done (e : Ctx) : c.once (.done e) = .done e := by unfold Ctx.once; rw [if_neg (not_not.2 htx), if_neg hS]
theorem once_trap (e : Ctx) (x : Trap) : c.once (.trap e x) = .trap c x := by unfold Ctx.once; rw [if_neg (not_not.2 htx), if_neg hS]
theorem once_gone (t : State) : c.once (.gone t) = .gone t := by unfold Ctx.once; rw [if_neg (not_not.2 htx), if_neg hS]

end

/-- The path that has issued is one of the machine as it stands. -/
theorem ctx?_state {s : State} {c : Ctx} (h : s.ctx? = some c) : c.s = s := by
  unfold State.ctx? at h
  repeat' split at h
  all_goals cases h
  rfl

theorem stateWord_eq (s : State) (t : Nat) :
    s.stateWord t = if t = 0 ∨ 15 < t then 0xFFFFFFFF#32
      else BitVec.ofNat 32 ((s.tag t).state.code + 16 * (if (s.tag t).state = .squashed then (s.tag t).reason else 0) +
        256 * (s.tag t).effects.length) := by
  unfold State.stateWord
  simp only [Bool.or_eq_true, decide_eq_true_eq]

/-- An instruction whose meaning puts a status behind an effect b on the device completes with b, and writes the status alone. -/
theorem exec_putOnce {i : Instr} {legal : ModeImage → Bool} {d : Reg} {x : Word} {body : Ctx → Res} {s : State} {c b : Ctx}
    (hx : exec i s = issue i legal s body) (h : Issues i legal s c) (hb : body c = .done (b.putOnce d x)) (heff : Effect c b)
    (hnone : WritesNone c.w b.w) :
    ∃ (t : State) (w : Wave), exec i s = .next t ∧ Completed b c.cur.next t w ∧ WritesRun c.w w d 1 0xFFFFFFFF#32 fun _ _ => x := by
  have hput : RegEffect b (b.putOnce d x) := .put ..
  have hb' := hput.wave
  have heff' := hput.effect
  obtain ⟨t, w, ht, hc, hw⟩ := issue_done h hb
    ⟨heff'.gk.trans heff.gk, heff'.wi.trans heff.wi, heff'.slotB.trans heff.slotB, heff'.cur.trans heff.cur, heff'.tx.trans heff.tx⟩
  refine ⟨t, w, hx.trans ht, hc.registers (by rw [hb']) (by rw [hb']) heff' (by rw [hb']) hput.same (hput.slots _), ?_⟩
  have hrun : WritesRun b.w w d 1 0xFFFFFFFF#32 fun _ _ => x := (WritesRun.put ..).congr hw
  obtain ⟨hv, hk, hq⟩ := hnone
  unfold WritesRun at hrun ⊢
  rwa [hv, hk, hq] at hrun

/-- An instruction whose meaning answers that the path is gone leaves the machine that the meaning names. -/
theorem issue_gone {i : Instr} {legal : ModeImage → Bool} {s t : State} {c : Ctx} {body : Ctx → Res} (h : Issues i legal s c)
    (hb : body c = .gone t) : issue i legal s body = .next t := by
  simp only [issue, h.acts, h.clean, h.free, hb, Ctx.finish, Bool.false_eq_true, if_false]

section
variable {s : State} {c : Ctx} {d a : Reg} (htx : c.txLanes = 0#32)
include htx

theorem exec_future_idle {i : Instr} (hi : i ∈ [.fcommit d a, .fsquash d a, .fstate d a]) (h : Issues i anyType s c) (hS : c.S = 0#32) :
    ∃ (t : State) (w : Wave), exec i s = .next t ∧ Completed c c.cur.next t w ∧ WritesNone c.w w := by
  simp only [List.mem_cons, List.not_mem_nil, or_false] at hi
  obtain rfl | rfl | rfl := hi <;> exact issue_registers h (once_idle htx hS _) (.refl c)

variable (hS : c.S ≠ 0#32)
include hS

theorem exec_fstate (h : Issues (.fstate d a) anyType s c) :
    ∃ (t : State) (w : Wave), exec (.fstate d a) s = .next t ∧ Completed c c.cur.next t w ∧
      WritesRun c.w w d 1 0xFFFFFFFF#32 fun _ _ => c.s.stateWord (c.val a 0).toNat :=
  exec_putOnce rfl h (once_done htx hS _) (.refl c) ⟨rfl, rfl, rfl⟩

/-- FCOMMIT of a trunk wave (R227). -/
theorem exec_fcommit (h : Issues (.fcommit d a) anyType s c) (htag : c.tag = 0) :
    let n := c.s.commitStatus c.g.ctx (c.val a 0).toNat
    ∃ (u t : State) (w : Wave), exec (.fcommit d a) s = .next t ∧ Completed { c with s := u }.acquire c.cur.next t w ∧
      WritesRun c.w w d 1 0xFFFFFFFF#32 (fun _ _ => BitVec.ofNat 32 n) ∧ u.serial = c.s.serial + 1 ∧
      (n ≠ 0 → u = { c.s with serial := u.serial }) ∧
      (n = 0 → Committed c.s.fresh c.g.ctx (c.val a 0).toNat (some (c.gk, c.wi, c.s.serial + 1)) u) := by
  intro n
  let r := c.s.fresh.fcommit c.g.ctx (c.val a 0).toNat (some (c.gk, c.wi, c.s.serial + 1))
  have hstatus : r.2 = n := fcommit_snd
  obtain ⟨t, w, ht, hc, hw⟩ := exec_putOnce (b := { c with s := r.1 }.acquire) (x := BitVec.ofNat 32 r.2) rfl h
    (by
      show c.once _ = _
      rw [if_neg (not_not.2 htag)]
      exact once_done htx hS _)
    ⟨rfl, rfl, rfl, rfl, rfl⟩ ⟨rfl, rfl, rfl⟩
  rw [hstatus] at hw
  refine ⟨r.1, t, w, ht, hc, hw, ?_, fun hn => ?_, fun hn => fcommit_committed hn⟩
  · by_cases hn : n = 0
    · rw [(fcommit_committed (s := c.s.fresh) hn).rest]; rfl
    · exact congrArg _ (fcommit_of_ne_zero (s := c.s.fresh) hn)
  · have hsame : r.1 = c.s.fresh := fcommit_of_ne_zero hn
    rw [hsame]
    rfl

/-- FSQUASH of a trunk wave (R228). -/
theorem exec_fsquash (h : Issues (.fsquash d a) anyType s c) (htag : c.tag = 0) :
    let n := c.s.commitStatus c.g.ctx (c.val a 0).toNat
    ∃ (u t : State) (w : Wave), exec (.fsquash d a) s = .next t ∧ Completed { c with s := u } c.cur.next t w ∧
      WritesRun c.w w d 1 0xFFFFFFFF#32 (fun _ _ => if n = 1 then 0#32 else BitVec.ofNat 32 n) ∧
      (2 ≤ n → u = c.s) ∧ (n < 2 → Squashed c.s (c.val a 0).toNat 0 u) := by
  intro n
  let r := c.s.fsquash c.g.ctx (c.val a 0).toNat
  obtain ⟨t, w, ht, hc, hw⟩ := exec_putOnce (b := { c with s := r.1 }) (x := BitVec.ofNat 32 r.2) rfl h
    (by
      show c.once _ = _
      rw [if_neg (by simp [htag]), if_neg (not_not.2 htag)]
      exact once_done htx hS _)
    ⟨rfl, rfl, rfl, rfl, rfl⟩ ⟨rfl, rfl, rfl⟩
  by_cases hn : n < 2
  · have hr : r = (c.s.squash (c.val a 0).toNat 0, 0) := fsquash_of_lt_two hn
    rw [hr] at hc hw
    have hvalue : (if n = 1 then 0#32 else BitVec.ofNat 32 n) = 0#32 := by
      obtain h | h : n = 0 ∨ n = 1 := by omega
      all_goals rw [h]; rfl
    refine ⟨_, t, w, ht, hc, ?_, fun h => by omega, fun _ => (squashed_of_commitStatus hn).2⟩
    rwa [hvalue]
  · have hr : r = (c.s, n) := fsquash_of_two_le (by omega)
    rw [hr] at hc hw
    refine ⟨_, t, w, ht, hc, ?_, fun _ => rfl, fun h => absurd h hn⟩
    rwa [if_neg (by omega)]

theorem exec_fcommit_inFuture (h : Issues (.fcommit d a) anyType s c) (htag : c.tag ≠ 0) :
    exec (.fcommit d a) s = .next (c.raise ⟨0x15, 0, 0, c.act⟩) := by
  refine issue_trap h ?_
  show c.once _ = _
  rw [if_pos htag]
  exact once_trap htx hS ..

theorem exec_fsquash_other (h : Issues (.fsquash d a) anyType s c) (htag : c.tag ≠ 0) (hother : (c.val a 0).toNat ≠ c.tag) :
    exec (.fsquash d a) s = .next (c.raise ⟨0x15, 0, 0, c.act⟩) := by
  refine issue_trap h ?_
  show c.once _ = _
  rw [if_pos (by simp [htag, hother])]
  exact once_trap htx hS ..

/-- FSQUASH of a future's wave that names its own live tag ends the future (R115, R228). -/
theorem exec_fsquash_own (h : Issues (.fsquash d a) anyType s c) (htag : c.tag ≠ 0) (hown : (c.val a 0).toNat = c.tag)
    (hlive : c.s.commitStatus c.g.ctx (c.val a 0).toNat < 2) :
    ∃ t, exec (.fsquash d a) s = .next t ∧ (t.tag (c.val a 0).toNat).state = .squashed ∧ (t.tag (c.val a 0).toNat).reason = 0 ∧
      t.mem = s.mem ∧ ∀ k g, t.groups.find? k = some g → ¬(g.ctx = c.g.ctx ∧ g.tag = (c.val a 0).toNat) := by
  have hlive' : c.putPath.commitStatus c.g.ctx (c.val a 0).toNat < 2 := hlive
  have hsquash := fsquash_of_lt_two hlive'
  obtain ⟨hctx, hmem, hsquashed, -, hgroups⟩ := squashed_of_commitStatus hlive'
  rw [hctx] at hgroups
  refine ⟨c.putPath.squash (c.val a 0).toNat 0, issue_gone h ?_, by rw [hsquashed], by rw [hsquashed], ?_, hgroups⟩
  · show c.once _ = _
    rw [if_neg (by simp [hown]), if_pos htag, hsquash]
    exact once_gone htx hS _
  · rw [hmem, Ctx.putPath_mem, ctx?_state h.acts]

end

end Sys2Proof.Claims

open Sys2Proof Sys2Proof.Machine Sys2Proof.Claims in
/-- Settles O28: the instructions complete with the front end's own operations, whose statuses and effects are as R227 to R229 say. -/
theorem futureDecisions : Obligations.FutureDecisions := by
  refine ⟨fun i s c d a hi h htx hS => exec_future_idle htx hi h hS, fun s c d a h htx hS => ?_, fun s c d a h htx hS htag => ?_,
    fun s c d a h htx hS htag => ?_, fun s c d a htx hS htag => ⟨fun h => exec_fcommit_inFuture htx hS h htag,
      fun h hother => exec_fsquash_other htx hS h htag hother, fun h hown hlive => exec_fsquash_own htx hS h htag hown ?_⟩⟩
  · obtain ⟨t, w, ht, hc, hw⟩ := exec_fstate htx hS h
    rw [stateWord_eq] at hw
    exact ⟨t, w, ht, hc, hw⟩
  · obtain ⟨u, t, w, ht, hc, hw, hserial, hrefused, hcommitted⟩ := exec_fcommit htx hS h htag
    refine ⟨_, u, t, w, commitStatus_iff.2 rfl, ht, hc, hw, hserial, hrefused, fun hn => ?_⟩
    obtain ⟨hrest, hcontext, htag, hothers, hevent⟩ := hcommitted hn
    exact ⟨hrest.trans (by rw [hserial]; rfl), hcontext, htag.trans (by rw [hserial]; rfl), hothers, hevent⟩
  · obtain ⟨u, t, w, ht, hc, hw, hrefused, hsquashed⟩ := exec_fsquash htx hS h htag
    refine ⟨_, u, t, w, commitStatus_iff.2 rfl, ht, hc, hw, hrefused, fun hn => ?_⟩
    obtain ⟨hmem, htag, hothers, -⟩ := hsquashed hn
    exact ⟨hmem, by rw [htag], by rw [htag], by rw [htag], hothers⟩
  · rw [commitStatus_iff, commitStatus_iff] at hlive
    omega
end
